-- ==== Sys2Proof/Word.lean ====
section
/-!
DEFINITION. The word types: bytes and 64-bit words as the specification numbers their bits (R14), and the plainest
conversions between them and numbers.
-/
namespace Sys2Proof

/-- One byte. -/
abbrev Byte := BitVec 8

/-- One 64-bit word of a register access or of a relay thread's scalar register. -/
abbrev Word := BitVec 64

/-- The number that `k` bytes spell, most significant byte first (R15, frames). -/
def beNat : List Byte → Nat
  | [] => 0
  | b :: t => b.toNat * 256 ^ t.length + beNat t

/-- The number that bytes spell, least significant byte first (R15, registers and memory). -/
def leNat : List Byte → Nat
  | [] => 0
  | b :: t => b.toNat + 256 * leNat t

/-- The `k` bytes of a number, least significant byte first (R15). -/
def leBytes : Nat → Nat → List Byte
  | 0, _ => []
  | k + 1, n => BitVec.ofNat 8 n :: leBytes k (n / 256)

/-- The `k` bytes of a number, most significant byte first (R15). -/
def beBytes (k n : Nat) : List Byte := (leBytes k n).reverse

/-- Bits [hi:lo] of a number (R14). -/
def bits (n hi lo : Nat) : Nat := n / 2 ^ lo % 2 ^ (hi + 1 - lo)

/-- Bit `i` of a number. -/
def bitAt (n i : Nat) : Bool := n / 2 ^ i % 2 == 1

/-- The number with bit `i` set. -/
def setBit (n i : Nat) : Nat := n ||| 2 ^ i

/-- The number with bit `i` cleared. -/
def clearBit (n i : Nat) : Nat := if bitAt n i then n - 2 ^ i else n

/-- 1 for true, 0 for false. -/
def flag (b : Bool) : Nat := if b then 1 else 0

/-- The signed value of a `w`-bit number. -/
def toSigned (w n : Nat) : Int := if n < 2 ^ (w - 1) then (n : Int) else (n : Int) - (2 ^ w : Nat)

/-- The `w`-bit number of a signed value, wrapping. -/
def ofSigned (w : Nat) (z : Int) : Nat := (z % (2 ^ w : Nat)).toNat

end Sys2Proof
end

