-- ==== Sys2Proof/Syntax.lean ====
section
/-!
DEFINITION. The commands of the device: one constructor for each row of the table of operations and events, in the
table's order. A command is what the outside does to the device (a register access, a frame, an ordered set, a
datagram, a sensor's reading) or the event that a time of the device has passed (DESIGN CHOICE, log 2).
-/
namespace Sys2Proof

/-- Requester of a register access: a management core's number, or 0x8000 with a session number (R495, R499). -/
abbrev Src := BitVec 16
/-- The numbers of R8. -/
abbrev Fibre := Fin 128
@[inherit_doc Fibre] abbrev Slot := Fin 10
@[inherit_doc Fibre] abbrev Colour := Fin 8
@[inherit_doc Fibre] abbrev Lane := Fin 1024
@[inherit_doc Fibre] abbrev Port := Fin 512
@[inherit_doc Fibre] abbrev Half := Fin 2
@[inherit_doc Fibre] abbrev Rung := Fin 4
@[inherit_doc Fibre] abbrev Pipeline := Fin 16
@[inherit_doc Fibre] abbrev Group := Fin 8
@[inherit_doc Fibre] abbrev RCore := Fin 128
@[inherit_doc Fibre] abbrev Thr := Fin 2048
/-- A ring of a fibre (R123). -/
abbrev Ring := Fin 30
/-- A scalar or vector register of a relay thread, and a predicate register (R254). -/
abbrev XReg := Fin 32
@[inherit_doc XReg] abbrev PReg := Fin 8
/-- The format code of an instruction (R279, R282). -/
abbrev Fmt := Fin 16
/-- A management core (R268). -/
abbrev MCore := Fin 10

/-- The immediate of a KRI instruction: 12 bits, or the second word of a long one (R279). -/
inductive Imm where
  | short (v : BitVec 12)
  | long (v : BitVec 32)
  deriving DecidableEq, Repr

/-- The address of a scalar load or store: base and immediate, or base and shifted index (R280, class M). -/
inductive MAddr where
  | imm (i : Imm)
  | index (b : XReg) (sh : Fin 4)
  deriving DecidableEq, Repr

/-- The atomic operations (R284). -/
inductive AmoOp where
  | swap | cas | add | and | or | xor | min | max | minu | maxu
  deriving DecidableEq, Repr

/-- Where a vector atomic applies: a line, or the lanes of an index vector (R284). -/
inductive VamoForm where
  | line
  | scatter (idx : XReg)
  deriving DecidableEq, Repr

/-- The relation a vector compare tests (DEDUCED, log 60). -/
inductive CmpRel where
  | eq | ne | lt | ge
  deriving DecidableEq, Repr

/-- The control registers of a thread (R286); the three key words of SRSEED are R320's. -/
inductive Csr where
  | thread | bundle | workrung | status | scrbase | scrthr | scrsize
  | batonbase (d : Fin 4) | winbase (n : Fin 8) | winsize (n : Fin 8) | cycle | srseed (n : Fin 3)
  deriving DecidableEq, Repr

/-- What a read of LPDDR6 found wrong in one burst: error values of its symbols (R432). -/
abbrev SymErrs := List (Fin 36 × BitVec 8)

/-- An OMP operation (R496): opcode, address, value. -/
structure OmpOp where
  opcode : BitVec 8
  addr : BitVec 48
  value : BitVec 64
  deriving DecidableEq, Repr

/-- The commands, in the order of the table. -/
inductive Instr where
  -- register access, fabric time, calendar, commit groups
  | registerWrite (src : Src) (addr : BitVec 48) (data : BitVec 64)
  | lapBoundary
  | timIncrWrite (src : Src) (v : BitVec 40)
  | timStepWrite (src : Src) (v : BitVec 48)
  | timSetNsWrite (src : Src) (v : BitVec 64)
  | acquiredWrite (src : Src) (v : BitVec 1)
  | referenceLost
  | tpulse (highNs : BitVec 32)
  | calArm (src : Src) (n : Fin 64) (action : BitVec 4)
  | calDisarm (src : Src) (n : Fin 64)
  | cgOpen (src : Src) (n : Fin 16)
  | cgStageAddrWrite (src : Src) (n : Fin 16) (addr : BitVec 48)
  | cgStageDataWrite (src : Src) (n : Fin 16) (data : BitVec 64)
  | cgSeal (src : Src) (n : Fin 16)
  | cgSealCheckDone (n : Fin 16)
  | cgAbort (src : Src) (n : Fin 16)
  | cgRelease (src : Src) (n : Fin 16)
  | cgResolveCommit (src : Src) (n : Fin 16)
  | cgResolveAbort (src : Src) (n : Fin 16)
  | voteTreeClose (grp : Fin 256) (commitLap : BitVec 54)
  | voteOutcomeReceived (grp : BitVec 16) (seq : BitVec 32) (outcome : Bool)
  -- frames, queues, retry
  | laneFrameReceive (f : Fibre) (s : Slot) (frame : List Byte) (tag : Option (BitVec 24)) (damaged : Bool)
  | pipelineDescriptor (p : Pipeline) (ecc : Fin 3)
  | egressAdmitRetry (l : Lane) (r : Rung)
  | spillReadback (l : Lane)
  | schedulerPick (l : Lane)
  | transmitDone (l : Lane)
  | pfcReceived (l : Lane) (xoff : Bool) (r : Fin 8)
  | pauseWatchdog (l : Lane) (r : Rung)
  | portFenceClear (src : Src) (n : Port)
  | replayAckTimer (f : Fibre) (s : Slot)
  | replayAck (f : Fibre) (s : Slot) (seq : BitVec 12)
  | replayNak (f : Fibre) (s : Slot) (seq : BitVec 12)
  | replayTimeout (f : Fibre) (s : Slot)
  | queueSample
  | cmExport
  | pacerRateWrite (src : Src) (addr : BitVec 48) (data : BitVec 64)
  -- forwarding tables
  | tableAdd (src : Src) (w0 w1 w2 w3 : BitVec 64)
  | tableDelete (src : Src) (w0 w1 w2 w3 : BitVec 64)
  | tableModify (src : Src) (w0 w1 w2 w3 : BitVec 64)
  | tableSetMember (src : Src) (w0 w1 w2 w3 : BitVec 64)
  | tableSetMode (src : Src) (w0 w1 w2 w3 : BitVec 64)
  | sweepPass
  | comparePassEnd (p : Pipeline) (t : Fin 3) (mdig : BitVec 32)
  | fenceCmd (src : Src) (h : Half) (ptr : BitVec 28)
  | fenceTestDone (h : Half) (pass : Bool)
  -- ports and lanes
  | portWidthWrite (src : Src) (f : Fibre) (h : Half) (v : BitVec 2)
  | portBondWrite (src : Src) (f : Fibre) (h : Half) (v : BitVec 1)
  | crouterNWrite (src : Src) (f : Fibre) (v : BitVec 2)
  | fecReqWrite (src : Src) (f : Fibre) (s : Slot) (v : BitVec 2)
  | laneTrain (src : Src) (f : Fibre) (s : Slot)
  | laneDrain (src : Src) (f : Fibre) (s : Slot)
  | laneDark (src : Src) (f : Fibre) (s : Slot)
  | laneLightOff (f : Fibre) (s : Slot)
  | laneDetectDone (f : Fibre) (s : Slot)
  | laneEqDone (f : Fibre) (s : Slot)
  | capabilityMessage (f : Fibre) (s : Slot) (msg : BitVec 64)
  | laneQualDone (f : Fibre) (s : Slot) (pass : Bool)
  | macMergeVerify (f : Fibre) (s : Slot)
  | laneStateTimeout (f : Fibre) (s : Slot)
  | laneRetryTimer (f : Fibre) (s : Slot)
  | lossOfLight (f : Fibre) (s : Slot)
  | lightReturn (f : Fibre) (s : Slot)
  | rip (f : Fibre) (s : Slot) (index : BitVec 4) (arg : BitVec 16)
  | ripExclusionEnd (f : Fibre) (s : Slot)
  | drain (f : Fibre) (s : Slot) (dark : Slot) (us : BitVec 16)
  | sparePrep (f : Fibre) (s : Slot) (w : Colour) (alias_ : BitVec 16) (canTune : Bool)
  | spareReady (f : Fibre) (s : Slot) (w : Colour) (alias_ : BitVec 16)
  | spareNak (f : Fibre) (s : Slot) (w : Colour) (cause : BitVec 16)
  | spareGo (f : Fibre) (s : Slot) (w : Colour) (lap16 : BitVec 16)
  | spareReturn (f : Fibre) (s : Slot) (w : Colour) (lap16 : BitVec 16)
  -- light
  | lockLoopSample (f : Fibre) (j : Ring) (err : BitVec 8) (wantUw : BitVec 16)
  | ringUnlocked (f : Fibre) (j : Ring)
  | ringRelocked (f : Fibre) (j : Ring)
  | ringRelockTimeout (f : Fibre) (j : Ring)
  | ffRefit (h : Half) (r : Fin 64) (bin : Fin 16) (coeff : BitVec 16)
  | benchSwitch (src : Src) (g : Group) (bay : BitVec 4)
  | selectorMove (g : Group)
  | benchHoldExpire (g : Group)
  | fadeWarn (b : Fin 10) (w : Colour) (pwr : BitVec 16)
  | fadePlan (b : Fin 10) (w : Colour) (pwr : BitVec 16)
  | fadeCrit (b : Fin 10) (w : Colour) (pwr : BitVec 16) (worst : List (Fin 16))
  | fadeLoss (b : Fin 10) (w : Colour) (pwr : BitVec 16)
  | tunableFade (g : Group) (j : Fin 4) (pwr : BitVec 16)
  | combWarmed (b : Fin 10) (inTime : Bool) (pwr : List (BitVec 16))
  | omaLow (f : Fibre) (s : Slot)
  | laneDriverFault (f : Fibre) (s : Slot)
  | calibrationDue (f : Fibre) (s : Slot)
  | calStepDone (f : Fibre) (s : Slot) (detune : BitVec 10) (tlockMod tlockGate : BitVec 12) (oma : BitVec 8)
  | bypassDrain (n : Fin 16)
  | fibrePowerOver (f : Fibre)
  | bypassLightDrop (f : Fibre)
  | cartridgeRemove (bay : Fin 18)
  | cartridgeInsert (bay : Fin 18) (id : BitVec 64) (crcOk : Bool)
  | cartridgeWarmStart (bay : Fin 18)
  -- relay dispatch
  | relayDispatch (h : Half)
  | wqRoom (c : RCore) (q : Fin 8)
  -- KRI
  | add (th : Thr) (d a b : XReg)
  | sub (th : Thr) (d a b : XReg)
  | and (th : Thr) (d a b : XReg)
  | or (th : Thr) (d a b : XReg)
  | xor (th : Thr) (d a b : XReg)
  | sll (th : Thr) (d a b : XReg)
  | srl (th : Thr) (d a b : XReg)
  | sra (th : Thr) (d a b : XReg)
  | mul (th : Thr) (d a b : XReg)
  | mulh (th : Thr) (d a b : XReg)
  | slt (th : Thr) (d a b : XReg)
  | sltu (th : Thr) (d a b : XReg)
  | min (th : Thr) (d a b : XReg)
  | max (th : Thr) (d a b : XReg)
  | addi (th : Thr) (d a : XReg) (i : Imm)
  | andi (th : Thr) (d a : XReg) (i : Imm)
  | ori (th : Thr) (d a : XReg) (i : Imm)
  | xori (th : Thr) (d a : XReg) (i : Imm)
  | slli (th : Thr) (d a : XReg) (i : Imm)
  | srli (th : Thr) (d a : XReg) (i : Imm)
  | li (th : Thr) (d : XReg) (v : BitVec 32)
  | beq (th : Thr) (a b : XReg) (off : Imm)
  | bne (th : Thr) (a b : XReg) (off : Imm)
  | blt (th : Thr) (a b : XReg) (off : Imm)
  | bge (th : Thr) (a b : XReg) (off : Imm)
  | bltu (th : Thr) (a b : XReg) (off : Imm)
  | bgeu (th : Thr) (a b : XReg) (off : Imm)
  | jal (th : Thr) (d : XReg) (off : Imm)
  | jalr (th : Thr) (d a : XReg) (off : Imm)
  | ld (th : Thr) (d a : XReg) (addr : MAddr) (size : Fin 4)
  | st (th : Thr) (d a : XReg) (addr : MAddr) (size : Fin 4)
  | vld (th : Thr) (d a : XReg) (i : Imm)
  | vst (th : Thr) (d a : XReg) (i : Imm)
  | vlds (th : Thr) (d a b : XReg) (p : PReg) (fmt : Fmt)
  | vsts (th : Thr) (d a b : XReg) (p : PReg) (fmt : Fmt)
  | vgth (th : Thr) (d a b : XReg) (p : PReg) (fmt : Fmt)
  | vsct (th : Thr) (d a b : XReg) (p : PReg) (fmt : Fmt)
  | ldf (th : Thr) (d : XReg) (slot : Fin 4) (a : XReg) (i : Imm)
  | amo (th : Thr) (op : AmoOp) (d a b : XReg) (acq rel : Bool) (width : Fin 4)
  | vamo (th : Thr) (op : AmoOp) (form : VamoForm) (a b : XReg) (p : PReg) (acq rel : Bool) (width : Fin 4)
  | memoryAccessDone (th : Thr) (n : Fin 8) (uncorrectable : Bool)
  | vadd (th : Thr) (d a b : XReg) (p : PReg) (fmt : Fmt)
  | vsub (th : Thr) (d a b : XReg) (p : PReg) (fmt : Fmt)
  | vmul (th : Thr) (d a b : XReg) (p : PReg) (fmt : Fmt)
  | vmullo (th : Thr) (d a b : XReg) (p : PReg) (fmt : Fmt)
  | vfma (th : Thr) (d a b : XReg) (p : PReg) (fmt : Fmt)
  | vmax (th : Thr) (d a b : XReg) (p : PReg) (fmt : Fmt)
  | vmin (th : Thr) (d a b : XReg) (p : PReg) (fmt : Fmt)
  | vabsmax (th : Thr) (d a b : XReg) (p : PReg) (fmt : Fmt)
  | vand (th : Thr) (d a b : XReg) (p : PReg) (fmt : Fmt)
  | vor (th : Thr) (d a b : XReg) (p : PReg) (fmt : Fmt)
  | vxor (th : Thr) (d a b : XReg) (p : PReg) (fmt : Fmt)
  | vshl (th : Thr) (d a b : XReg) (p : PReg) (fmt : Fmt)
  | vshr (th : Thr) (d a b : XReg) (p : PReg) (fmt : Fmt)
  | vcmp (th : Thr) (rel : CmpRel) (d : PReg) (a b : XReg) (p : PReg) (fmt : Fmt)
  | vsel (th : Thr) (d a b : XReg) (p : PReg) (fmt : Fmt)
  | vbcast (th : Thr) (d a : XReg) (p : PReg) (fmt : Fmt)
  | vperm (th : Thr) (d a b : XReg) (p : PReg) (fmt : Fmt)
  | vcomb (th : Thr) (d a b : XReg) (p : PReg) (fmt : Fmt) (ctl : BitVec 32)
  | vcvt (th : Thr) (d a b : XReg) (p : PReg) (fmt : Fmt) (ctl : BitVec 32)
  | vred (th : Thr) (d a b : XReg) (p : PReg) (fmt : Fmt) (ctl : BitVec 32)
  | vscale (th : Thr) (d a b : XReg) (p : PReg) (fmt : Fmt) (ctl : BitVec 32)
  | vtopk (th : Thr) (d a b : XReg) (p : PReg) (fmt : Fmt) (ctl : BitVec 32)
  | vargmax (th : Thr) (d a b : XReg) (p : PReg) (fmt : Fmt) (ctl : BitVec 32)
  | waitq (th : Thr) (d : XReg) (q : Fin 8)
  | rel (th : Thr) (slot : Fin 4)
  | post (th : Thr) (a b : XReg)
  | postF (th : Thr) (a b : XReg)
  | send (th : Thr) (d a b : XReg) (w : BitVec 32)
  | sendF (th : Thr) (a b : XReg) (w : BitVec 32)
  | sendM (th : Thr) (d a b : XReg) (w : BitVec 32)
  | sendAdmitted (th : Thr)
  | waita (th : Thr) (a b : XReg)
  | waitaTimeout (th : Thr)
  | yield (th : Thr)
  | csrr (th : Thr) (d : XReg) (csr : Csr)
  | csrw (th : Thr) (csr : Csr) (a : XReg)
  | fenceC (th : Thr)
  | fenceD (th : Thr)
  | fenceH (th : Thr)
  | fenceM (th : Thr)
  | time (th : Thr) (d : XReg)
  | halt (th : Thr)
  | trap (th : Thr)
  -- relay control
  | holdLimit (th : Thr) (slot : Fin 4)
  | threadRestart (src : Src) (th : Thr)
  | threadStop (src : Src) (th : Thr)
  | istoreWrite (src : Src) (c : RCore) (a : Fin 16384) (v : BitVec 32)
  | bundleLoad (b : Fin 16) (image : List Byte)
  | bundlePlace (b : Fin 16)
  | coreQuarantine (c subst : RCore)
  -- collectives
  | contributionAdmission (c : RCore) (q : Fin 8) (err : BitVec 32)
  | batonForward (n : Fin 16384) (j : Fin 8) (chunk : BitVec 16) (h : Half)
  | batonReadback (n : Fin 16384) (j : Fin 8) (chunk : BitVec 16) (uncorrectable : Bool)
  | sequenceTimeout (n : Fin 16384) (j : Fin 8)
  | mirrorCompare (err : BitVec 32)
  | mirrorTiebreak (err : BitVec 32)
  | colQuarantine (src : Src) (c : RCore)
  | colRelease (src : Src) (c : RCore)
  | heatStart (src : Src) (c : RCore)
  | heatTempMiss (c : RCore)
  | heatDone (c : RCore) (passes : BitVec 32) (fails : BitVec 31)
  -- sprint
  | sprintContrib (f : Fibre) (s : Slot) (frame : List Byte)
  | sprintBridgeContrib (h : Half)
  | sprintTimeout (n : Fin 256) (j : Fin 4)
  | keepalive (f : Fibre) (s : Slot) (frame : List Byte)
  | keepaliveTx (f : Fibre) (s : Slot)
  | keepaliveLoss (f : Fibre) (s : Slot)
  -- embedding
  | gatherReq (c : RCore) (q : Fin 8) (badRows : List (BitVec 48))
  | gatherPartial (seq : BitVec 32) (rfeid : BitVec 32)
  | gatherTimeout (seq : BitVec 32) (rfeid : BitVec 32)
  | scatterUpd (c : RCore) (q : Fin 8)
  | scatterCompletion (c : RCore) (q : Fin 8)
  | tableClose (src : Src) (t : Fin 64)
  | closeDone (t : Fin 64) (badRows : List (BitVec 48))
  | tableDiscard (src : Src) (t : Fin 64)
  | discardDone (t : Fin 64)
  | foldStart (t : Fin 64) (b : Fin 2)
  | foldDone (t : Fin 64) (b : Fin 2)
  | bankFree (t : Fin 64) (b : Fin 2)
  | fillDone (e : Fin 65536) (h : Half)
  -- memory
  | memTrainingDone (h : Half) (best : List (Fin 4)) (repaired : List (Fin 32 × BitVec 32))
  | memTransaction (off : BitVec 39) (len : Fin 4097) (write : Option (List Byte)) (tag : BitVec 8)
      (cls : Fin 6) (errs : List (Fin 129 × SymErrs))
  | patrolScrub (h : Half) (errs : SymErrs)
  | bwInterval (h : Half) (demand : List (BitVec 32))
  -- die links
  | flitReceive (h : Half) (b : Colour) (flit : BitVec 768) (prbs : List (Fin 51 × BitVec 16))
  | flitNak (h : Half) (b : Colour) (seq : BitVec 10)
  | flitReplayTimeout (h : Half) (b : Colour)
  | positionFaulty (h : Half) (b : Colour) (pos : Fin 51) (lockLost : Bool)
  | remap (b : Colour)
  | bundleRetire (b : Colour)
  | bundleLost (h : Half) (b : Colour) (trainingLost : Bool)
  | renegotiate (src : Src)
  | bundleEnWrite (src : Src) (v : BitVec 8)
  | agreement (h : Half) (trained : BitVec 408)
  | maskAdvertise (h : Half) (mask : BitVec 408)
  | agreementEcho (crc : BitVec 32)
  | confirmTimeout
  | activate
  | holdTimeout (h : Half)
  | bridgeMessage (h : Half) (g : Fin 6) (body : List Byte) (crc : BitVec 16)
  | bridgeResend (h : Half)
  -- guest sites
  | guestBringUp (h : Half) (id : BitVec 64) (linkUp : Bool)
  | guestRead (h : Half) (hdr : BitVec 128)
  | guestWrite (h : Half) (hdr : BitVec 128) (data : List Byte)
  | guestPost (h : Half) (hdr : BitVec 128) (body : List Byte)
  | guestPowerOver (h : Half) (w : BitVec 7)
  | guestRailRemove (h : Half) (w : BitVec 7)
  | guestRun (src : Src) (h : Half)
  | guestStop (src : Src) (h : Half)
  | guestUnfence (src : Src) (h : Half)
  -- board group, sessions, mailboxes
  | boardAnnounceTx (f : Fibre)
  | boardAnnounce (f : Fibre) (plid : BitVec 32) (slot : BitVec 2) (mac : BitVec 48)
  | boardRelay (f : Fibre) (s : Slot) (frame : List Byte)
  | hello (peer : BitVec 128) (body : List Byte)
  | prove (session : BitVec 12) (msg : List Byte)
  | handshakeTimeout (session : BitVec 12)
  | request (session : BitVec 12) (msg : List Byte)
  | ompRead (src : Src) (addr : BitVec 48)
  | ompWrite (src : Src) (addr : BitVec 48) (value : BitVec 64)
  | ompClose (session : BitVec 12) (msg : List Byte)
  | sessionIdle (session : BitVec 12)
  | mbxDataWrite (src : Src) (m : Fin 32) (v : BitVec 64)
  | mbxDataRead (src : Src) (m : Fin 32)
  | mbxRdataWrite (src : Src) (m : Fin 32) (v : BitVec 64)
  | mbxRdataRead (src : Src) (m : Fin 32)
  | mbxDoorbell (src : Src) (m : Fin 32)
  | domainReady (m : Fin 32)
  | domainPowerDown (c : MCore)
  | mbxLockRead (src : Src) (m : Fin 32)
  | mbxLockRelease (src : Src) (m : Fin 32) (v : BitVec 16)
  | leaseRenew (src : Src) (v : BitVec 64)
  | leaseExpire
  -- firmware, logs, images
  | coreRestart (src : Src) (n : MCore)
  | coreReady (n : MCore)
  | watchdogKick (src : Src) (n : MCore)
  | coreWatchdog (n : MCore)
  | bootTimeout (n : MCore)
  | benchTakeover (r : Fin 3)
  | benchCheckpoint (r : Fin 3)
  | handBack (src : Src) (r : Fin 5)
  | logWrite (n : MCore) (cmd : BitVec 20)
  | logWaitExpire (h : Half)
  | tracePoint (n : MCore) (v : BitVec 64)
  | imageStage (s : Fin 10) (image : List Byte)
  | imageArm (src : Src) (s : Fin 10)
  | imageDisarm (src : Src) (s : Fin 10)
  | imageRevert (src : Src) (s : Fin 10)
  | imageConfirm (src : Src) (s : Fin 10)
  | deferredCancel (s : Fin 10)
  -- guard
  | guardPowerOver (w : BitVec 16)
  | guardPowerPark (w : BitVec 16)
  | guardPowerP2 (w : BitVec 16)
  | junctionTrip (h : Half) (r : Fin 64) (tj : BitVec 12)
  | tripCooled
  | guardEventClear (src : Src) (bits : BitVec 11) (w : BitVec 16)
  -- security
  | attestationReport (h : Half) (m : Fin 32) (nonce : List Byte)
  | operatorKeyStatement (num : BitVec 64) (add : Bool) (purpose : BitVec 8) (pk root sig : List Byte)
  | boardRecordWrite (src : Src) (record : List Byte)
  | manufactureRecordWrite (src : Src) (record : List Byte)
  | bundleFloorRaise (src : Src) (id : BitVec 64) (floor : BitVec 32)
  | flashProgram (core : MCore) (addr : BitVec 28) (data : List Byte) (vMv : BitVec 16)
  | flashErase (core : MCore) (addr : BitVec 28) (vMv : BitVec 16)
  | flashOpDone
  | rngHealthFail (h : Half)
  | bootChain (h : Half) (halfSel : BitVec 1) (puf : Bool)
  -- power
  | railGroupGood (h : Half) (k : Fin 11)
  | railFault (h : Half) (k : Fin 11)
  | inputLoss
  | powerLossFlush (vMv : List (BitVec 16))
  | vaonOff
  | inputReturn
  | psRequest (src : Src) (v : BitVec 3)
  | regionSensorSample (h : Half) (r : Fin 64) (tj : BitVec 12)
  | thermalLoop
  | throttleStepUp (d : Fin 4)
  | ffEnWrite (src : Src) (v : BitVec 1)
  | ffsafeWrite (src : Src) (h : Half) (v : BitVec 1)
  | railDroop (d : Fin 4)
  | droopRecover (d : Fin 4)
  | emergencyCauseSet (h : Half) (cause : Fin 8)
  | emergencyCauseClear (h : Half) (cause : Fin 8)
  | thermalP1Force
  -- errors, resets, marshal
  | errAck (src : Src) (m : BitVec 8)
  | coldReset
  | warmReset (src : Src)
  | perHalfReset (src : Src) (h : Half)
  | forwardingCoreReset (src : Src)
  | relayReset (src : Src)
  | perLaneReset (src : Src) (f : Fibre) (s : Slot)
  | resetPin
  | resetExit
  | scoreWindow
  | linkSuspect (f : Fibre) (s : Slot) (payload : BitVec 256)
  | linkAgree (f : Fibre) (s : Slot) (payload : BitVec 256)
  | agreeTimeout (f : Fibre) (w : Fin 9)
  | linkExpel (f : Fibre) (w : Fin 9)
  | report (payload : BitVec 256)
  | verdict (payload : BitVec 256)
  | verdictApply
  | caseClose (c : Fin 64)
  | caseSummary (c : Fin 64)
  | statusTx
  | status (payload : BitVec 256)
  | join (payload : BitVec 256)
  | probationEnd
  -- telemetry
  | counterClear (src : Src) (h : Half) (b : Fin 21)
  | dumpPeriod (j : Fin 16)
  | dumpReadoutDone (bank : Fin 4)
  | samplerEnable (src : Src) (addr : BitVec 48) (data : BitVec 64)
  | monitorSample (h : Half) (m : Fin 32)
  | monitorClear (src : Src) (h : Half) (m : Fin 32)
  | permWrite (src : Src) (addr : BitVec 48) (data : BitVec 64)
  -- start-up and the rest
  | startupStep (step : Fin 12) (ok : Bool) (capUf : BitVec 16)
  | fabricTimeAcquire
  | wake
  | bundleUnload (b : Fin 16)
  | guestLinkFail (h : Half)
  | guestSidebandRequest (h : Half)
  | tunableWarmed (g : Group)
  | registerRead (src : Src) (addr : BitVec 48)
  | operatorRootTransfer (plid : BitVec 32) (digest : BitVec 256) (root sig : List Byte)
  | floorResetStatement (plid : BitVec 32) (floors : List (BitVec 32)) (root sig : List Byte)
  | interruptCauseClear (bits : BitVec 16)
  deriving DecidableEq, Repr

end Sys2Proof
end

