-- ==== Sys2Proof/Decode.lean ====
section
/-!
DEFINITION. The command that a word of the table spells. The table of this device gives none of its rows any bits, so
no word spells a command.
-/
namespace Sys2Proof

/-- The command that `nbits` bits `w` spell: none, since no row of the table has bits (DEDUCED, log 126). -/
def decodeTableWord (_nbits _w : Nat) : Option Instr := none

end Sys2Proof
end

