-- ==== Sys2Proof/Config.lean ====
section
/-!
DEFINITION. What one implementation fixes and what the specification leaves open: constants without a body, so that
nothing can be proved about their values (DESIGN CHOICE, logs 5 and 6).
-/
namespace Sys2Proof.Config

/-- The `n`-th free value (DESIGN CHOICE, log 5). -/
opaque free (n : Nat) : Nat

/-- Whether a die region of a half lies above a ring (R126, R570; the specification gives no map; DESIGN CHOICE, log
15). -/
opaque ringUnder (half region fibre ring : Nat) : Bool

/-- Whether a cartridge's kind byte names a comb cartridge (R669, R680; the codes are not given; DESIGN CHOICE, log
16). -/
opaque kindIsComb (kind : Nat) : Bool

/-- SHA3-256 of bytes, as a number (R540, by name of the standard only; DESIGN CHOICE, log 6). -/
opaque sha3 (m : List (BitVec 8)) : Nat

/-- KMAC256 of key, message, output bits and customisation string (R493; DESIGN CHOICE, log 6). -/
opaque kmac (key : Nat) (m : List (BitVec 8)) (outBits : Nat) (custom : String) : Nat

/-- Whether an ML-DSA-44 signature verifies: public key, message, signature (R540; DESIGN CHOICE, log 6). -/
opaque mldsaVerify (pk : List (BitVec 8)) (m : List (BitVec 8)) (sig : List (BitVec 8)) : Bool

/-- The ML-DSA-44 signature of a message under the module's identity key of a die (R540; DESIGN CHOICE, log 6). -/
opaque mldsaSign (die : Nat) (m : List (BitVec 8)) : List (BitVec 8)

/-- ML-KEM-768 encapsulation under a key with a given randomness: ciphertext and shared secret (R492; DESIGN CHOICE,
log 6). -/
opaque mlkemCt (ek : List (BitVec 8)) (r : Nat) : List (BitVec 8)
@[inherit_doc mlkemCt] opaque mlkemSecret (ek : List (BitVec 8)) (r : Nat) : Nat

/-- The root digest in mask ROM (R536). -/
opaque rootDigest : Nat

/-- The identity public key that a die derives under a PLID (R538; DESIGN CHOICE, log 6). -/
opaque identityPk (die plid : Nat) : List (BitVec 8)

/-- Dravron's signature of a die's identity public key under a PLID, the second part of the module certificate (R540). -/
opaque deviceCert (die plid : Nat) : List (BitVec 8)

/-- What the key manifest of a boot stage image says: whether it verifies under the image's root public key, its version,
its digest, and its key for a purpose (R536, R543 give no layout; DESIGN CHOICE, log 6). -/
opaque manifestOk (image : List (BitVec 8)) : Bool
@[inherit_doc manifestOk] opaque manifestVersion (image : List (BitVec 8)) : Nat
@[inherit_doc manifestOk] opaque manifestDigest (image : List (BitVec 8)) : Nat
@[inherit_doc manifestOk] opaque manifestKey (image : List (BitVec 8)) (purpose : Nat) : List (BitVec 8)

/-- The envelope record in a flash area, given by the bytes that are not erased: whether it verifies under a key, its
digest, and its fields by number (R531 gives no layout; DESIGN CHOICE, log 6). -/
opaque envelopeOk (key : List (BitVec 8)) (area : List (Nat × BitVec 8)) : Bool
@[inherit_doc envelopeOk] opaque envelopeDigest (area : List (Nat × BitVec 8)) : Nat
@[inherit_doc envelopeOk] opaque envelopeField (area : List (Nat × BitVec 8)) (field : Nat) : Nat

/-- Digest of an authenticated record of a type, generation and contents (R546; DESIGN CHOICE, log 6). -/
opaque recordDigest (type_ gen : Nat) (contents : List (BitVec 8)) : Nat

end Sys2Proof.Config
end

