-- ==== Sys2Proof/Machine/RegNames.lean ====
section
/-!
DEFINITION. The names of the device's registers (R648, R649): one constructor per register field that the
chapters' register tables name, in the order of the blocks and of their rows.
-/
namespace Sys2Proof.Machine

/-- Field classes (R19, R656 to R661). -/
inductive Cls where
  | live | epoch | quiesced | sticky | ro
  deriving DecidableEq, Repr

/-- What an index of a register counts, so far as the share of a half depends on it (R69, R8). -/
inductive Ix where
  | half | die | core | pipe | slot | lane | plain
  deriving DecidableEq, Repr

/-- A register field's place and kind: block code (R580), row (R648), position among the row's names, number of
names in the row, lowest bit, width, class, and its indices as (what it counts, lowest value, number of values). -/
structure RegInfo where
  block : Nat
  row : Nat
  pos : Nat
  names : Nat
  lo : Nat
  width : Nat
  cls : Cls
  dims : List (Ix × Nat × Nat)
  deriving DecidableEq, Repr

/-- The register fields of all blocks. -/
inductive Reg where
  | timNowNs | timNowFrac | timIncr | timStep | timSetNs | timCtrlAcquired | timStatusRefLost | timLapExp
  | timLapNow | timVoteCloseNs | timCalLap | timCalAction | timCalArg | timCalState | timCalLog
  | timCalLateCnt | timCgCmd | timCgCommitLap | timCgVoteGrp | timCgStageAddr | timCgStageData | timCgState
  | timCgWrites | timCgBytes | timCgErr | timVoteLog | timVoteLogLost | prtPfRole | prtLanePfLinkdly
  | prtLanePfRxdly | prtLanePfTxdly | prtWidth | prtBond | prtCrouterN | prtCrouterPos | prtStripeSkew
  | prtLaneCmd | prtLaneState | prtLaneFecReq | prtLaneFecMode | prtLaneFecCorr | prtLaneFecUncorr
  | prtLanePeerCap | prtLaneLogicalW | prtLaneLolDbm | prtLaneLol | prtLaneRipSeen | prtLaneOsRx
  | prtLaneTrainFail | lckRingState | lckRingTlock | lckRingLowTlock | lckRingDetune | lckRingHeat
  | lckRingErrPm | lckDitherPm | lckFfEn | lckFf | lckHrMin | lckUnlockCnt | optSelSrc | optSelHoldNs
  | optCombState | optCombLinePwr | optCombLineRef | optTuneLaserCh | optTuneLaserPwr | optTuneLaserRef
  | optFadeWarnDb | optFadePlanDb | optFadeCritDb | optFadeLossDb | optSpareOmaDbm | optSparePend
  | optCalPeriodS | optFfRefitS | optCtrlAutoBench | optCtrlAutoCal | optBypPass | fwdCtrlDirectEn | fwdMtu
  | fwdKfhEtype | fwdKfhUdp | fwdModMac | fwdModIp4 | fwdModIp6 | fwdSvcFeid | fwdSvcFeidEn | fwdDscpRung
  | fwdPortPeerMac | fwdPortLearnNhs | fwdHseed0 | fwdHseed1 | fwdHseed2 | fwdHseed3 | fwdEmKicks
  | fwdFlowletGapNs | fwdCmScale | fwdSweepUs | fwdAgePass | fwdLearnMax | fwdCmpPeriodMs | fwdNhsMode
  | fwdNhsMember | fwdTcmd | fwdTcmdStat | fwdDrop | fwdLpmUsed | fwdEmUsed | fwdStashUsed | fwdLearnFail
  | fwdLearnMove | fwdLearnEvict | fwdAgedOut | fwdHintIgnored | fwdCmAllsat | fwdXhalfFallback
  | fwdPinFallback | fwdEccCorr | fwdEccUncorr | fwdWdig | fwdMdig | fwdCmpStat | bufCellsFree
  | bufSharedFree | bufFenced | bufFenceCmd | bufPtrErr | bufRefErr | bufLadderErr | bufRsvIng | bufRsvEgr
  | bufAlphaIng | bufAlphaEgr | bufIqAlpha | bufEqAlpha | bufIqDepth | bufEqDepth | bufIqDropThr
  | bufEqDropThr | bufHdrmPool | bufHdrmLane | bufXonGap | bufPauseWdUs | bufColourDscp | bufRedMin
  | bufRedMax | bufRedPmax | bufRedW | bufEqDropRed | bufAgeLimitUs | bufEqAged | bufSpillEn | bufSpillWrGbps
  | bufSpillRdGbps | bufEqState | bufEqSpillBytes | bufEqSpillDrop | prtLaneRplEn | prtLaneRplToUs
  | prtLaneRplMax | prtLaneRplNakTx | prtLaneRplNakRx | prtLaneRplReplays | prtLaneRxBad | prtLanePauseWd
  | pacQRate | pacQBurst | pacQCredit | pacLaneRate | pacLaneBurst | pacLaneCredit | pacLaneOverhead
  | pacPortRate | pacPortBurst | pacSampleNs | pacEwmaW | pacQDepthS | pacQSojS | pacQSojLast | pacCmT
  | pacCmPausePct | pacCmNow | pacCmLap | pacCmExportLaps | pacCmDstFeid | pacCmDstIp6 | pacCmExportCnt
  | pacCmExportDrop | pacMarkNs | pacQMarked | rlyKriVer | rlyDieClkMhz | rlyHoldMaxUs | rlySteer | rlyState
  | rlySubst | rlyWqBundle | rlyWqDepth | rlyWqFullCnt | rlyTState | rlyTPc | rlyTCmd | rlyTFault | rlyIstore
  | rlyScrUsed | rlyIssueV | rlyIssueO | rlyDbDrop | rlyBundleState | rlyBundleRun | rlyBundleId
  | rlyBundleVer | rlyBundleDigest | rlyBundleErr | colGrpCtrl | colGrpKind | colGrpOp | colGrpFmtIn
  | colGrpAcc | colGrpFmtOut | colGrpGen | colGrpRanks | colGrpFirstSeq | colGrpSeed | colGrpRfeid
  | colGrpAxG | colGrpAxI | colGrpAxP | colGrpOrder | colGrpQuotaKib | colGrpSpillMaxMib | colGrpTimeoutUs
  | colGrpTopk | colGrpRsDiv | colGrpWq | colGrpMirrorExp | colXholdNs | colXhalfIn | colXhalfOut
  | colDropNogrp | colDieRsvMaxKib | colDieSharedFreeKib | colDieMirrorRuns | colSpillWrGbps | colSpillRdGbps
  | colSpillUsedMib | colGrpBase | colGrpSlotState | colGrpSlotSeq | colGrpSlotDoneChunks
  | colGrpQuotaUsedKib | colGrpSpillUsedMib | colGrpSeqDone | colGrpChunkDone | colGrpAborted
  | colGrpGenDiscard | colGrpCrcBad | colGrpNotMember | colGrpGenDrop | colGrpLate | colGrpWindow
  | colGrpHdrBad | colGrpFmtBad | colGrpSpanBad | colGrpAddBad | colGrpSpanOvl | colGrpCopyDrop | colSuspect
  | colQuarCmd | colQuarCause | colHeatProg | colHeatTemp | colHeatLoad | colHeatDurMs | colHeatCmd
  | colHeatResult | sprGrpCtrl | sprGrpOp | sprGrpFmt | sprGrpAcc | sprGrpNelemMax | sprGrpGen | sprGrpRanks
  | sprGrpFirstSeq | sprGrpAxG | sprGrpAxI | sprGrpAxP | sprGrpOrder | sprGrpRfeid | sprGrpLines
  | sprGrpTimeoutUs | sprGrpSelfRank | sprGrpSelfPort | sprGrpBase | sprGrpSlotState | sprGrpDone
  | sprGrpAborted | sprGrpGenDiscard | sprGrpDrop | sprGrpCopyDrop | sprLinesFree | sprOverrun | sprDropNogrp
  | sprXhalfIn | sprXhalfOut | sprKaTxNs | sprKaLossNs | sprLaneState | sprLaneKaLost | embTblCtrl
  | embTblFmt | embTblDim | embTblHalfBit | embTblGfrac | embTblWq | embTblSeed | embTblFirstStep | embTblHp
  | embTblCmd | embTblCstep | embTblStep | embTblState | embTblCg | embTblBankState | embTblBankStep
  | embTblBankClap | embTblBankEntries | embTblGathers | embTblUpdates | embTblGatherErr | embTblUpdRefused
  | embMapCtrl | embMapTable | embMapRepl | embMapRowLo | embMapRowHi | embMapBaseN | embMapBaseS
  | embMapStateN | embMapStateS | embMapFilled | embGatherToUs | embStageFreeKib | embCrcBad | embRowBad
  | memRateMax | memRate | memState | memPkgFail | memWinGib | memScCe | memScUe | memScTagErr | memUeAddr
  | memSpillLost | memRowCeMax | memScrubH | memScrubPass | memScShadowUsed | memPprPend | memPprEn
  | memBwMinGbps | memBwWeight | memBwUsedGbps | ddlSharePct | ddlBudgetGbps | ddlBundleEn | ddlCmd
  | ddlMaskAdv | ddlMaskAgreed | ddlWidthState | ddlConfirmFail | ddlSafeCnt | ddlHealth | ddlKeymap
  | ddlBState | ddlBSpareUsed | ddlBMap | ddlBLaneErr | ddlBFlits | ddlBCrcFail | ddlBReplays | ddlLaneErrMax
  | ddlLaneWinMs | ddlRetirePpm | ddlRetireWin | ddlRplMax | ddlHoldUs | ddlHoldDrop | ddlStripeHeld
  | ddlBridgeCrc | gstId | gstState | gstCmd | gstWinKind | gstWinBase | gstWinSize | gstWinRights
  | gstWinTag | gstPostq | gstNotifyBase | gstNotifyLines | gstRateGbps | gstPwrMaxW | gstPwrW | gstViol
  | gstViolMax | gstFenceCause | prtMode | mbxBrdSlot | mbxBrdLink | mbxBrdMac | mbxBrdPlid | mbxBrdRateMbps
  | mbxBrdDrop | mbxOmpPort | mbxOmpIdleS | mbxOmpDrop | mbxSessState | mbxSessSrcid | mbxSessPeerIp6
  | mbxSessRole | mbxData | mbxFull | mbxSrcid | mbxRdata | mbxRfull | mbxBuf | mbxDoorbell | mbxReady
  | mbxLock | mbxKs7 | mbxWfull | mbxRcv | mbxLease | mbxLeaseState | mbxLeaseSrcid | mbxLeaseAgeMs
  | mbxLeaseEnds | fwmCoreState | fwmCoreCmd | fwmCoreWd | fwmCoreWdMs | fwmCoreRestarts | fwmCoreLogbuf
  | fwmCoreLogcmd | fwmCoreTrace | fwmCoreTpEn | fwmBootToMs | fwmRoleCore | fwmRoleCmd | fwmLogWr
  | fwmLogWrap | fwmLogDrop | fwmTraceDrop | fwmImgState | fwmImgVer | fwmImgDigest | fwmImgActLap
  | fwmImgCmd | fwmEmerg | fwmActCancel | grdLock | grdEnvFibDbm | grdEnvCombMa | grdEnvTuneMa | grdEnvRingMw
  | grdEnvHeatW | grdEnvModW | grdEnvTripC | grdEnvGstW | grdEnvMgmtMbps | grdBypPermit | grdFlashWin
  | grdEvent | grdEventCnt | secBootstat | secIdPkDigest | secMeas | secLogCnt | secRecGen | secFloor
  | secFloorBoot | secFloorManifest | secOpkeyCnt | secHuCapUf | secHuAvailMj | secHuRefuse | pwrVinMv
  | pwrPinW | pwrLoss | pwrLossCnt | pwrPsReq | pwrPsLap | pwrPsState | pwrPsForced | pwrForceCause
  | pwrRailMv | pwrRailMa | pwrRailFault | pwrRegionTj | pwrRegionRate | pwrRegionTjLim | pwrTjLim
  | pwrFfsafe | pwrDieCeilMhz | pwrDieThrEvents | pwrDieDroopCnt | pwrCoolInC | pwrCoolOutC | pwrCoolMaxC
  | pwrEmergClrMs | pwrEmergP1Ms | pwrEmergSrc | marErrq | marErrqCnt | marErrAck | marStorm | marStormTbl
  | marStormLost | marRstCmd | marRstDrop | marPsFence | marPsFenceDrop | marPts | marBerSym | marLagUs
  | marWinUs | marSuspect | marPsScore | marLnScore | marAgreeUs | marMemberPlid | marMemberFeid | marMemberN
  | marQuorum | marCaseMs | marReportGapUs | marVerdictUs | marBudget | marBudgetS | marDerateC
  | marSpareSubj | marSpareSparePlid | marSpareSpareFeid | marSpareFeidLo | marSpareFeidCnt | marSpareNhs
  | marSpareUsed | marCaseSubj | marCaseCount | marCaseObs | marCaseState | marCaseLost | marCaseCloseMs
  | marSummaryMs | marLedger | marSelfState | marSelfDrop | marHealth | marStatusUs | marProbeMs | marSlowUs
  | marSlowCnt | marFmFeid | marFmIp6 | marEgrMbps | marEgrDrop | telCntSel | telCntCmp | telCntVal
  | telCntOvf | telClr | telDumpRangeBase | telDumpRangeWords | telDumpProg | telDumpPeriodLaps
  | telDumpTarget | telDumpExportDiv | telDumpSkip | telDumpWr | telDumpSeq | telSmpSeed | telSmpEn
  | telSmpLane | telSmpRungs | telSmpEvent | telSmpRateLog | telSmpSojMinNs | telSmpTaken | telSbuf
  | telSbufMode | telSbufWr | telSbufRd | telSbufExport | telSbufLost | telMonKind | telMonSrc | telMonArg
  | telMonSampleUs | telMonBase | telMonWidth | telMonScale | telMonMin | telMonMax | telMonCnt | telMonBin
  | telMonClrOnDump | telMonCmd | telMonAlarmHi | telMonAlarmLo | telMonAlarmCnt | telPermDefault
  | telPermBlocks | telPermGrpLo | telPermGrpHi | fwmStartStep | fwmStartFail | fwmStartMs | timPulseNs
  | timPulseFrac | timPulseCnt | timPulseBad | optBayPres | optBayId | optBayWrong
  deriving DecidableEq, Repr

/-- A register instance: its name and up to three indices, 0 where the name has fewer. -/
structure RegKey where
  reg : Reg
  i : Nat
  j : Nat
  k : Nat
  deriving DecidableEq, Repr

end Sys2Proof.Machine
end

