-- ==== Sys2Proof/Machine/Registers.lean ====
section
/-!
DEFINITION. The register tables of the chapters (R81, R122, R161, R199, R235, R253, R298, R370, R395, R428, R452,
R483, R510, R535, R555, R579, R617, R637, R677): where each field lies (R647 to R650), its class and its reset value.
-/
namespace Sys2Proof.Machine

/-- The table row of each register field. -/
def Reg.info : Reg → RegInfo
  | .timNowNs => ⟨17, 0, 0, 1, 0, 64, .ro, []⟩
  | .timNowFrac => ⟨17, 1, 0, 1, 0, 16, .ro, []⟩
  | .timIncr => ⟨17, 2, 0, 1, 0, 40, .live, []⟩
  | .timStep => ⟨17, 3, 0, 1, 0, 48, .live, []⟩
  | .timSetNs => ⟨17, 4, 0, 1, 0, 64, .live, []⟩
  | .timCtrlAcquired => ⟨17, 5, 0, 1, 0, 1, .live, []⟩
  | .timStatusRefLost => ⟨17, 6, 0, 1, 0, 1, .sticky, []⟩
  | .timLapExp => ⟨17, 7, 0, 1, 0, 5, .quiesced, []⟩
  | .timLapNow => ⟨17, 8, 0, 1, 0, 54, .ro, []⟩
  | .timVoteCloseNs => ⟨17, 9, 0, 1, 0, 24, .epoch, []⟩
  | .timCalLap => ⟨17, 10, 0, 1, 0, 54, .live, [(.plain, 0, 64)]⟩
  | .timCalAction => ⟨17, 11, 0, 1, 0, 4, .live, [(.plain, 0, 64)]⟩
  | .timCalArg => ⟨17, 12, 0, 1, 0, 16, .live, [(.plain, 0, 64)]⟩
  | .timCalState => ⟨17, 13, 0, 1, 0, 1, .ro, [(.plain, 0, 64)]⟩
  | .timCalLog => ⟨17, 14, 0, 1, 0, 128, .ro, [(.plain, 0, 64)]⟩
  | .timCalLateCnt => ⟨17, 15, 0, 1, 0, 32, .ro, []⟩
  | .timCgCmd => ⟨17, 16, 0, 1, 0, 3, .live, [(.plain, 0, 16)]⟩
  | .timCgCommitLap => ⟨17, 17, 0, 1, 0, 54, .live, [(.plain, 0, 16)]⟩
  | .timCgVoteGrp => ⟨17, 18, 0, 1, 0, 16, .live, [(.plain, 0, 16)]⟩
  | .timCgStageAddr => ⟨17, 19, 0, 1, 0, 48, .live, [(.plain, 0, 16)]⟩
  | .timCgStageData => ⟨17, 20, 0, 1, 0, 64, .live, [(.plain, 0, 16)]⟩
  | .timCgState => ⟨17, 21, 0, 1, 0, 4, .ro, [(.plain, 0, 16)]⟩
  | .timCgWrites => ⟨17, 22, 0, 1, 0, 13, .ro, [(.plain, 0, 16)]⟩
  | .timCgBytes => ⟨17, 23, 0, 1, 0, 21, .ro, [(.plain, 0, 16)]⟩
  | .timCgErr => ⟨17, 24, 0, 1, 0, 8, .sticky, [(.plain, 0, 16)]⟩
  | .timVoteLog => ⟨17, 25, 0, 1, 0, 128, .ro, [(.plain, 0, 4096)]⟩
  | .timVoteLogLost => ⟨17, 26, 0, 1, 0, 32, .ro, []⟩
  | .prtPfRole => ⟨0, 0, 0, 1, 0, 2, .quiesced, [(.plain, 0, 128)]⟩
  | .prtLanePfLinkdly => ⟨0, 1, 0, 1, 0, 32, .live, [(.plain, 0, 128), (.slot, 0, 10)]⟩
  | .prtLanePfRxdly => ⟨0, 2, 0, 1, 0, 32, .ro, [(.plain, 0, 128), (.slot, 0, 10)]⟩
  | .prtLanePfTxdly => ⟨0, 3, 0, 1, 0, 32, .ro, [(.plain, 0, 128), (.slot, 0, 10)]⟩
  | .prtWidth => ⟨0, 4, 0, 1, 0, 2, .quiesced, [(.plain, 0, 128), (.half, 0, 2)]⟩
  | .prtBond => ⟨0, 5, 0, 1, 0, 1, .quiesced, [(.plain, 0, 128), (.half, 0, 2)]⟩
  | .prtCrouterN => ⟨0, 6, 0, 1, 0, 2, .quiesced, [(.plain, 0, 128)]⟩
  | .prtCrouterPos => ⟨0, 7, 0, 1, 0, 2, .quiesced, [(.plain, 0, 128)]⟩
  | .prtStripeSkew => ⟨0, 8, 0, 1, 0, 16, .ro, [(.plain, 0, 128), (.half, 0, 2)]⟩
  | .prtLaneCmd => ⟨0, 9, 0, 1, 0, 2, .live, [(.plain, 0, 128), (.slot, 0, 10)]⟩
  | .prtLaneState => ⟨0, 10, 0, 1, 0, 3, .ro, [(.plain, 0, 128), (.slot, 0, 10)]⟩
  | .prtLaneFecReq => ⟨0, 11, 0, 1, 0, 2, .quiesced, [(.plain, 0, 128), (.slot, 0, 10)]⟩
  | .prtLaneFecMode => ⟨0, 12, 0, 1, 0, 2, .ro, [(.plain, 0, 128), (.slot, 0, 10)]⟩
  | .prtLaneFecCorr => ⟨0, 13, 0, 1, 0, 48, .ro, [(.plain, 0, 128), (.slot, 0, 10)]⟩
  | .prtLaneFecUncorr => ⟨0, 14, 0, 1, 0, 32, .ro, [(.plain, 0, 128), (.slot, 0, 10)]⟩
  | .prtLanePeerCap => ⟨0, 15, 0, 1, 0, 64, .ro, [(.plain, 0, 128), (.slot, 0, 10)]⟩
  | .prtLaneLogicalW => ⟨0, 16, 0, 1, 0, 4, .ro, [(.plain, 0, 128), (.slot, 0, 10)]⟩
  | .prtLaneLolDbm => ⟨0, 17, 0, 1, 0, 8, .live, [(.plain, 0, 128), (.slot, 0, 10)]⟩
  | .prtLaneLol => ⟨0, 18, 0, 1, 0, 1, .sticky, [(.plain, 0, 128), (.slot, 0, 10)]⟩
  | .prtLaneRipSeen => ⟨0, 19, 0, 1, 0, 1, .sticky, [(.plain, 0, 128), (.slot, 0, 10)]⟩
  | .prtLaneOsRx => ⟨0, 20, 0, 1, 0, 24, .ro, [(.plain, 0, 128), (.slot, 0, 10)]⟩
  | .prtLaneTrainFail => ⟨0, 21, 0, 1, 0, 8, .sticky, [(.plain, 0, 128), (.slot, 0, 10)]⟩
  | .lckRingState => ⟨2, 0, 0, 1, 0, 3, .ro, [(.plain, 0, 128), (.plain, 0, 30)]⟩
  | .lckRingTlock => ⟨2, 1, 0, 1, 0, 12, .epoch, [(.plain, 0, 128), (.plain, 0, 30)]⟩
  | .lckRingLowTlock => ⟨2, 2, 0, 1, 0, 1, .sticky, [(.plain, 0, 128), (.plain, 0, 30)]⟩
  | .lckRingDetune => ⟨2, 3, 0, 1, 0, 10, .epoch, [(.plain, 0, 128), (.plain, 0, 30)]⟩
  | .lckRingHeat => ⟨2, 4, 0, 1, 0, 16, .ro, [(.plain, 0, 128), (.plain, 0, 30)]⟩
  | .lckRingErrPm => ⟨2, 5, 0, 1, 0, 8, .ro, [(.plain, 0, 128), (.plain, 0, 30)]⟩
  | .lckDitherPm => ⟨2, 6, 0, 1, 0, 4, .quiesced, []⟩
  | .lckFfEn => ⟨2, 7, 0, 1, 0, 1, .live, []⟩
  | .lckFf => ⟨2, 8, 0, 1, 0, 16, .epoch, [(.half, 0, 2), (.plain, 0, 64), (.plain, 0, 16)]⟩
  | .lckHrMin => ⟨2, 9, 0, 1, 0, 12, .ro, []⟩
  | .lckUnlockCnt => ⟨2, 10, 0, 1, 0, 32, .ro, []⟩
  | .optSelSrc => ⟨1, 0, 0, 1, 0, 4, .live, [(.plain, 0, 8)]⟩
  | .optSelHoldNs => ⟨1, 1, 0, 1, 0, 20, .live, []⟩
  | .optCombState => ⟨1, 2, 0, 1, 0, 3, .ro, [(.plain, 0, 10)]⟩
  | .optCombLinePwr => ⟨1, 3, 0, 1, 0, 16, .ro, [(.plain, 0, 10), (.plain, 0, 8)]⟩
  | .optCombLineRef => ⟨1, 4, 0, 1, 0, 16, .ro, [(.plain, 0, 10), (.plain, 0, 8)]⟩
  | .optTuneLaserCh => ⟨1, 5, 0, 1, 0, 4, .ro, [(.plain, 0, 8), (.plain, 0, 4)]⟩
  | .optTuneLaserPwr => ⟨1, 6, 0, 1, 0, 16, .ro, [(.plain, 0, 8), (.plain, 0, 4)]⟩
  | .optTuneLaserRef => ⟨1, 7, 0, 1, 0, 16, .ro, [(.plain, 0, 8), (.plain, 0, 4)]⟩
  | .optFadeWarnDb => ⟨1, 8, 0, 4, 0, 8, .live, []⟩
  | .optFadePlanDb => ⟨1, 8, 1, 4, 0, 8, .live, []⟩
  | .optFadeCritDb => ⟨1, 8, 2, 4, 0, 8, .live, []⟩
  | .optFadeLossDb => ⟨1, 8, 3, 4, 0, 8, .live, []⟩
  | .optSpareOmaDbm => ⟨1, 9, 0, 1, 0, 8, .live, []⟩
  | .optSparePend => ⟨1, 10, 0, 1, 0, 16, .ro, [(.plain, 0, 8)]⟩
  | .optCalPeriodS => ⟨1, 11, 0, 1, 0, 32, .live, []⟩
  | .optFfRefitS => ⟨1, 12, 0, 1, 0, 16, .live, []⟩
  | .optCtrlAutoBench => ⟨1, 13, 0, 1, 0, 1, .live, []⟩
  | .optCtrlAutoCal => ⟨1, 14, 0, 1, 1, 1, .live, []⟩
  | .optBypPass => ⟨1, 15, 0, 1, 0, 8, .epoch, [(.plain, 0, 8), (.plain, 0, 16)]⟩
  | .fwdCtrlDirectEn => ⟨3, 0, 0, 1, 0, 1, .live, []⟩
  | .fwdMtu => ⟨3, 1, 0, 1, 0, 14, .live, []⟩
  | .fwdKfhEtype => ⟨3, 2, 0, 1, 0, 16, .quiesced, []⟩
  | .fwdKfhUdp => ⟨3, 3, 0, 1, 0, 16, .quiesced, []⟩
  | .fwdModMac => ⟨3, 4, 0, 1, 0, 48, .epoch, []⟩
  | .fwdModIp4 => ⟨3, 5, 0, 1, 0, 32, .epoch, []⟩
  | .fwdModIp6 => ⟨3, 6, 0, 1, 0, 128, .epoch, []⟩
  | .fwdSvcFeid => ⟨3, 7, 0, 1, 0, 32, .epoch, [(.plain, 0, 4)]⟩
  | .fwdSvcFeidEn => ⟨3, 8, 0, 1, 0, 4, .epoch, []⟩
  | .fwdDscpRung => ⟨3, 9, 0, 1, 0, 2, .epoch, [(.plain, 0, 64)]⟩
  | .fwdPortPeerMac => ⟨3, 10, 0, 1, 0, 48, .epoch, [(.plain, 0, 512)]⟩
  | .fwdPortLearnNhs => ⟨3, 11, 0, 1, 0, 12, .epoch, [(.plain, 0, 512)]⟩
  | .fwdHseed0 => ⟨3, 12, 0, 4, 0, 32, .quiesced, []⟩
  | .fwdHseed1 => ⟨3, 12, 1, 4, 0, 32, .quiesced, []⟩
  | .fwdHseed2 => ⟨3, 12, 2, 4, 0, 32, .quiesced, []⟩
  | .fwdHseed3 => ⟨3, 12, 3, 4, 0, 32, .quiesced, []⟩
  | .fwdEmKicks => ⟨3, 13, 0, 1, 0, 8, .live, []⟩
  | .fwdFlowletGapNs => ⟨3, 14, 0, 1, 0, 16, .live, []⟩
  | .fwdCmScale => ⟨3, 15, 0, 1, 0, 4, .live, [(.plain, 0, 4)]⟩
  | .fwdSweepUs => ⟨3, 16, 0, 1, 0, 16, .live, []⟩
  | .fwdAgePass => ⟨3, 17, 0, 1, 0, 32, .live, [(.plain, 1, 6)]⟩
  | .fwdLearnMax => ⟨3, 18, 0, 1, 0, 8, .live, []⟩
  | .fwdCmpPeriodMs => ⟨3, 19, 0, 1, 0, 16, .live, []⟩
  | .fwdNhsMode => ⟨3, 20, 0, 1, 0, 2, .epoch, [(.plain, 0, 4096)]⟩
  | .fwdNhsMember => ⟨3, 21, 0, 1, 0, 13, .epoch, [(.plain, 0, 4096), (.plain, 0, 16)]⟩
  | .fwdTcmd => ⟨3, 22, 0, 1, 0, 64, .live, [(.plain, 0, 4)]⟩
  | .fwdTcmdStat => ⟨3, 23, 0, 1, 0, 4, .ro, []⟩
  | .fwdDrop => ⟨3, 24, 0, 1, 0, 48, .ro, [(.pipe, 0, 16), (.plain, 0, 12)]⟩
  | .fwdLpmUsed => ⟨3, 25, 0, 1, 0, 18, .ro, [(.pipe, 0, 16)]⟩
  | .fwdEmUsed => ⟨3, 26, 0, 1, 0, 22, .ro, [(.pipe, 0, 16)]⟩
  | .fwdStashUsed => ⟨3, 27, 0, 1, 0, 6, .ro, [(.pipe, 0, 16)]⟩
  | .fwdLearnFail => ⟨3, 28, 0, 4, 0, 48, .ro, [(.pipe, 0, 16)]⟩
  | .fwdLearnMove => ⟨3, 28, 1, 4, 0, 48, .ro, [(.pipe, 0, 16)]⟩
  | .fwdLearnEvict => ⟨3, 28, 2, 4, 0, 48, .ro, [(.pipe, 0, 16)]⟩
  | .fwdAgedOut => ⟨3, 28, 3, 4, 0, 48, .ro, [(.pipe, 0, 16)]⟩
  | .fwdHintIgnored => ⟨3, 29, 0, 4, 0, 48, .ro, [(.pipe, 0, 16)]⟩
  | .fwdCmAllsat => ⟨3, 29, 1, 4, 0, 48, .ro, [(.pipe, 0, 16)]⟩
  | .fwdXhalfFallback => ⟨3, 29, 2, 4, 0, 48, .ro, [(.pipe, 0, 16)]⟩
  | .fwdPinFallback => ⟨3, 29, 3, 4, 0, 48, .ro, [(.pipe, 0, 16)]⟩
  | .fwdEccCorr => ⟨3, 30, 0, 2, 0, 32, .ro, [(.pipe, 0, 16)]⟩
  | .fwdEccUncorr => ⟨3, 30, 1, 2, 0, 32, .ro, [(.pipe, 0, 16)]⟩
  | .fwdWdig => ⟨3, 31, 0, 1, 0, 32, .ro, [(.pipe, 0, 16), (.plain, 0, 3)]⟩
  | .fwdMdig => ⟨3, 32, 0, 1, 0, 32, .ro, [(.pipe, 0, 16), (.plain, 0, 3)]⟩
  | .fwdCmpStat => ⟨3, 33, 0, 1, 0, 3, .sticky, [(.pipe, 0, 16)]⟩
  | .bufCellsFree => ⟨4, 0, 0, 1, 0, 20, .ro, [(.half, 0, 2)]⟩
  | .bufSharedFree => ⟨4, 1, 0, 1, 0, 20, .ro, [(.half, 0, 2)]⟩
  | .bufFenced => ⟨4, 2, 0, 1, 0, 20, .ro, [(.half, 0, 2)]⟩
  | .bufFenceCmd => ⟨4, 3, 0, 1, 0, 28, .quiesced, [(.half, 0, 2)]⟩
  | .bufPtrErr => ⟨4, 4, 0, 3, 0, 32, .ro, [(.half, 0, 2)]⟩
  | .bufRefErr => ⟨4, 4, 1, 3, 0, 32, .ro, [(.half, 0, 2)]⟩
  | .bufLadderErr => ⟨4, 4, 2, 3, 0, 32, .ro, [(.half, 0, 2)]⟩
  | .bufRsvIng => ⟨4, 5, 0, 2, 0, 10, .epoch, [(.plain, 0, 4)]⟩
  | .bufRsvEgr => ⟨4, 5, 1, 2, 0, 10, .epoch, [(.plain, 0, 4)]⟩
  | .bufAlphaIng => ⟨4, 6, 0, 2, 0, 4, .epoch, [(.plain, 0, 4)]⟩
  | .bufAlphaEgr => ⟨4, 6, 1, 2, 0, 4, .epoch, [(.plain, 0, 4)]⟩
  | .bufIqAlpha => ⟨4, 7, 0, 2, 0, 4, .epoch, [(.lane, 0, 1024), (.plain, 0, 4)]⟩
  | .bufEqAlpha => ⟨4, 7, 1, 2, 0, 4, .epoch, [(.lane, 0, 1024), (.plain, 0, 4)]⟩
  | .bufIqDepth => ⟨4, 8, 0, 2, 0, 20, .ro, [(.lane, 0, 1024), (.plain, 0, 4)]⟩
  | .bufEqDepth => ⟨4, 8, 1, 2, 0, 20, .ro, [(.lane, 0, 1024), (.plain, 0, 4)]⟩
  | .bufIqDropThr => ⟨4, 9, 0, 2, 0, 48, .ro, [(.lane, 0, 1024), (.plain, 0, 4)]⟩
  | .bufEqDropThr => ⟨4, 9, 1, 2, 0, 48, .ro, [(.lane, 0, 1024), (.plain, 0, 4)]⟩
  | .bufHdrmPool => ⟨4, 10, 0, 1, 0, 20, .epoch, []⟩
  | .bufHdrmLane => ⟨4, 11, 0, 1, 0, 11, .epoch, []⟩
  | .bufXonGap => ⟨4, 12, 0, 1, 0, 10, .live, []⟩
  | .bufPauseWdUs => ⟨4, 13, 0, 1, 0, 16, .live, []⟩
  | .bufColourDscp => ⟨4, 14, 0, 1, 0, 2, .live, [(.plain, 0, 64)]⟩
  | .bufRedMin => ⟨4, 15, 0, 2, 0, 5, .live, [(.plain, 0, 3)]⟩
  | .bufRedMax => ⟨4, 15, 1, 2, 0, 5, .live, [(.plain, 0, 3)]⟩
  | .bufRedPmax => ⟨4, 16, 0, 1, 0, 3, .live, [(.plain, 0, 3)]⟩
  | .bufRedW => ⟨4, 17, 0, 1, 0, 4, .live, []⟩
  | .bufEqDropRed => ⟨4, 18, 0, 1, 0, 48, .ro, [(.lane, 0, 1024)]⟩
  | .bufAgeLimitUs => ⟨4, 19, 0, 1, 0, 16, .live, [(.plain, 0, 4)]⟩
  | .bufEqAged => ⟨4, 20, 0, 1, 0, 48, .ro, [(.lane, 0, 1024), (.plain, 0, 4)]⟩
  | .bufSpillEn => ⟨4, 21, 0, 1, 0, 1, .live, []⟩
  | .bufSpillWrGbps => ⟨4, 22, 0, 2, 0, 10, .live, []⟩
  | .bufSpillRdGbps => ⟨4, 22, 1, 2, 0, 10, .live, []⟩
  | .bufEqState => ⟨4, 23, 0, 1, 0, 1, .ro, [(.lane, 0, 1024)]⟩
  | .bufEqSpillBytes => ⟨4, 24, 0, 1, 0, 36, .ro, [(.lane, 0, 1024)]⟩
  | .bufEqSpillDrop => ⟨4, 25, 0, 1, 0, 48, .ro, [(.lane, 0, 1024)]⟩
  | .prtLaneRplEn => ⟨0, 22, 0, 1, 0, 1, .quiesced, [(.plain, 0, 128), (.slot, 0, 10)]⟩
  | .prtLaneRplToUs => ⟨0, 23, 0, 1, 0, 8, .live, [(.plain, 0, 128), (.slot, 0, 10)]⟩
  | .prtLaneRplMax => ⟨0, 24, 0, 1, 0, 4, .live, [(.plain, 0, 128), (.slot, 0, 10)]⟩
  | .prtLaneRplNakTx => ⟨0, 25, 0, 3, 0, 32, .ro, [(.plain, 0, 128), (.slot, 0, 10)]⟩
  | .prtLaneRplNakRx => ⟨0, 25, 1, 3, 0, 32, .ro, [(.plain, 0, 128), (.slot, 0, 10)]⟩
  | .prtLaneRplReplays => ⟨0, 25, 2, 3, 0, 32, .ro, [(.plain, 0, 128), (.slot, 0, 10)]⟩
  | .prtLaneRxBad => ⟨0, 26, 0, 1, 0, 48, .ro, [(.plain, 0, 128), (.slot, 0, 10)]⟩
  | .prtLanePauseWd => ⟨0, 27, 0, 1, 0, 16, .ro, [(.plain, 0, 128), (.slot, 0, 10)]⟩
  | .pacQRate => ⟨5, 0, 0, 1, 0, 20, .live, [(.lane, 0, 1024), (.plain, 0, 4)]⟩
  | .pacQBurst => ⟨5, 1, 0, 1, 0, 20, .live, [(.lane, 0, 1024), (.plain, 0, 4)]⟩
  | .pacQCredit => ⟨5, 2, 0, 1, 0, 24, .ro, [(.lane, 0, 1024), (.plain, 0, 4)]⟩
  | .pacLaneRate => ⟨5, 3, 0, 1, 0, 20, .live, [(.lane, 0, 1024)]⟩
  | .pacLaneBurst => ⟨5, 4, 0, 1, 0, 20, .live, [(.lane, 0, 1024)]⟩
  | .pacLaneCredit => ⟨5, 5, 0, 1, 0, 24, .ro, [(.lane, 0, 1024)]⟩
  | .pacLaneOverhead => ⟨5, 6, 0, 1, 0, 7, .live, [(.lane, 0, 1024)]⟩
  | .pacPortRate => ⟨5, 7, 0, 1, 0, 21, .live, [(.plain, 0, 512)]⟩
  | .pacPortBurst => ⟨5, 8, 0, 1, 0, 20, .live, [(.plain, 0, 512)]⟩
  | .pacSampleNs => ⟨5, 9, 0, 1, 0, 13, .live, []⟩
  | .pacEwmaW => ⟨5, 10, 0, 1, 0, 4, .live, []⟩
  | .pacQDepthS => ⟨5, 11, 0, 1, 0, 20, .ro, [(.lane, 0, 1024), (.plain, 0, 4)]⟩
  | .pacQSojS => ⟨5, 12, 0, 1, 0, 24, .ro, [(.lane, 0, 1024), (.plain, 0, 4)]⟩
  | .pacQSojLast => ⟨5, 13, 0, 1, 0, 24, .ro, [(.lane, 0, 1024), (.plain, 0, 4)]⟩
  | .pacCmT => ⟨5, 14, 0, 1, 0, 24, .epoch, [(.plain, 1, 3)]⟩
  | .pacCmPausePct => ⟨5, 15, 0, 1, 0, 7, .epoch, []⟩
  | .pacCmNow => ⟨5, 16, 0, 1, 0, 64, .ro, [(.plain, 0, 32)]⟩
  | .pacCmLap => ⟨5, 17, 0, 1, 0, 54, .ro, []⟩
  | .pacCmExportLaps => ⟨5, 18, 0, 1, 0, 16, .live, []⟩
  | .pacCmDstFeid => ⟨5, 19, 0, 1, 0, 32, .live, []⟩
  | .pacCmDstIp6 => ⟨5, 20, 0, 1, 0, 128, .live, []⟩
  | .pacCmExportCnt => ⟨5, 21, 0, 2, 0, 32, .ro, []⟩
  | .pacCmExportDrop => ⟨5, 21, 1, 2, 0, 32, .ro, []⟩
  | .pacMarkNs => ⟨5, 22, 0, 1, 0, 24, .live, []⟩
  | .pacQMarked => ⟨5, 23, 0, 1, 0, 48, .ro, [(.lane, 0, 1024)]⟩
  | .rlyKriVer => ⟨6, 0, 0, 1, 0, 8, .ro, []⟩
  | .rlyDieClkMhz => ⟨6, 1, 0, 1, 0, 12, .ro, [(.die, 0, 4)]⟩
  | .rlyHoldMaxUs => ⟨6, 2, 0, 1, 0, 16, .live, []⟩
  | .rlySteer => ⟨6, 3, 0, 1, 0, 7, .epoch, [(.half, 0, 2), (.plain, 0, 1024)]⟩
  | .rlyState => ⟨6, 4, 0, 1, 0, 3, .ro, [(.core, 0, 128)]⟩
  | .rlySubst => ⟨6, 5, 0, 1, 0, 7, .live, [(.core, 0, 128)]⟩
  | .rlyWqBundle => ⟨6, 6, 0, 1, 0, 5, .epoch, [(.core, 0, 128), (.plain, 0, 8)]⟩
  | .rlyWqDepth => ⟨6, 7, 0, 1, 0, 7, .ro, [(.core, 0, 128), (.plain, 0, 8)]⟩
  | .rlyWqFullCnt => ⟨6, 8, 0, 1, 0, 32, .ro, [(.core, 0, 128), (.plain, 0, 8)]⟩
  | .rlyTState => ⟨6, 9, 0, 1, 0, 3, .ro, [(.core, 0, 128), (.plain, 0, 16)]⟩
  | .rlyTPc => ⟨6, 10, 0, 1, 0, 16, .ro, [(.core, 0, 128), (.plain, 0, 16)]⟩
  | .rlyTCmd => ⟨6, 11, 0, 1, 0, 2, .live, [(.core, 0, 128), (.plain, 0, 16)]⟩
  | .rlyTFault => ⟨6, 12, 0, 1, 0, 56, .sticky, [(.core, 0, 128), (.plain, 0, 16)]⟩
  | .rlyIstore => ⟨6, 13, 0, 1, 0, 32, .quiesced, [(.core, 0, 128), (.plain, 0, 16384)]⟩
  | .rlyScrUsed => ⟨6, 14, 0, 1, 0, 19, .ro, [(.core, 0, 128)]⟩
  | .rlyIssueV => ⟨6, 15, 0, 2, 0, 48, .ro, [(.core, 0, 128)]⟩
  | .rlyIssueO => ⟨6, 15, 1, 2, 0, 48, .ro, [(.core, 0, 128)]⟩
  | .rlyDbDrop => ⟨6, 16, 0, 1, 0, 32, .ro, [(.plain, 0, 10)]⟩
  | .rlyBundleState => ⟨6, 17, 0, 1, 0, 2, .ro, [(.plain, 0, 16)]⟩
  | .rlyBundleRun => ⟨6, 18, 0, 1, 0, 1, .epoch, [(.plain, 0, 16)]⟩
  | .rlyBundleId => ⟨6, 19, 0, 1, 0, 64, .ro, [(.plain, 0, 16)]⟩
  | .rlyBundleVer => ⟨6, 20, 0, 1, 0, 32, .ro, [(.plain, 0, 16)]⟩
  | .rlyBundleDigest => ⟨6, 21, 0, 1, 0, 64, .ro, [(.plain, 0, 16), (.plain, 0, 4)]⟩
  | .rlyBundleErr => ⟨6, 22, 0, 1, 0, 8, .sticky, [(.plain, 0, 16)]⟩
  | .colGrpCtrl => ⟨7, 0, 0, 1, 0, 8, .epoch, [(.plain, 0, 16384)]⟩
  | .colGrpKind => ⟨7, 1, 0, 1, 0, 4, .epoch, [(.plain, 0, 16384)]⟩
  | .colGrpOp => ⟨7, 2, 0, 1, 0, 4, .epoch, [(.plain, 0, 16384)]⟩
  | .colGrpFmtIn => ⟨7, 3, 0, 1, 0, 5, .epoch, [(.plain, 0, 16384)]⟩
  | .colGrpAcc => ⟨7, 4, 0, 1, 0, 2, .epoch, [(.plain, 0, 16384)]⟩
  | .colGrpFmtOut => ⟨7, 5, 0, 1, 0, 5, .epoch, [(.plain, 0, 16384)]⟩
  | .colGrpGen => ⟨7, 6, 0, 1, 0, 16, .epoch, [(.plain, 0, 16384)]⟩
  | .colGrpRanks => ⟨7, 7, 0, 1, 0, 21, .epoch, [(.plain, 0, 16384)]⟩
  | .colGrpFirstSeq => ⟨7, 8, 0, 1, 0, 32, .epoch, [(.plain, 0, 16384)]⟩
  | .colGrpSeed => ⟨7, 9, 0, 1, 0, 64, .epoch, [(.plain, 0, 16384)]⟩
  | .colGrpRfeid => ⟨7, 10, 0, 1, 0, 32, .epoch, [(.plain, 0, 16384)]⟩
  | .colGrpAxG => ⟨7, 11, 0, 1, 0, 13, .epoch, [(.plain, 0, 16384)]⟩
  | .colGrpAxI => ⟨7, 12, 0, 1, 0, 13, .epoch, [(.plain, 0, 16384)]⟩
  | .colGrpAxP => ⟨7, 13, 0, 1, 0, 13, .epoch, [(.plain, 0, 16384)]⟩
  | .colGrpOrder => ⟨7, 14, 0, 1, 0, 6, .epoch, [(.plain, 0, 16384)]⟩
  | .colGrpQuotaKib => ⟨7, 15, 0, 1, 0, 24, .epoch, [(.plain, 0, 16384)]⟩
  | .colGrpSpillMaxMib => ⟨7, 16, 0, 1, 0, 12, .epoch, [(.plain, 0, 16384)]⟩
  | .colGrpTimeoutUs => ⟨7, 17, 0, 1, 0, 32, .epoch, [(.plain, 0, 16384)]⟩
  | .colGrpTopk => ⟨7, 18, 0, 1, 0, 10, .epoch, [(.plain, 0, 16384)]⟩
  | .colGrpRsDiv => ⟨7, 19, 0, 1, 0, 16, .epoch, [(.plain, 0, 16384)]⟩
  | .colGrpWq => ⟨7, 20, 0, 1, 0, 3, .epoch, [(.plain, 0, 16384)]⟩
  | .colGrpMirrorExp => ⟨7, 21, 0, 1, 0, 5, .epoch, [(.plain, 0, 16384)]⟩
  | .colXholdNs => ⟨7, 22, 0, 1, 0, 16, .epoch, []⟩
  | .colXhalfIn => ⟨7, 23, 0, 1, 0, 48, .ro, []⟩
  | .colXhalfOut => ⟨7, 24, 0, 1, 0, 48, .ro, []⟩
  | .colDropNogrp => ⟨7, 25, 0, 1, 0, 48, .ro, []⟩
  | .colDieRsvMaxKib => ⟨7, 26, 0, 1, 0, 16, .quiesced, [(.die, 0, 4)]⟩
  | .colDieSharedFreeKib => ⟨7, 27, 0, 1, 0, 16, .ro, [(.die, 0, 4)]⟩
  | .colDieMirrorRuns => ⟨7, 28, 0, 1, 0, 32, .ro, [(.die, 0, 4), (.plain, 0, 8), (.plain, 0, 4)]⟩
  | .colSpillWrGbps => ⟨7, 29, 0, 2, 0, 8, .live, [(.half, 0, 2)]⟩
  | .colSpillRdGbps => ⟨7, 29, 1, 2, 0, 8, .live, [(.half, 0, 2)]⟩
  | .colSpillUsedMib => ⟨7, 30, 0, 1, 0, 12, .ro, [(.half, 0, 2)]⟩
  | .colGrpBase => ⟨7, 31, 0, 1, 0, 32, .ro, [(.plain, 0, 16384)]⟩
  | .colGrpSlotState => ⟨7, 32, 0, 1, 0, 2, .ro, [(.plain, 0, 16384), (.plain, 0, 8)]⟩
  | .colGrpSlotSeq => ⟨7, 33, 0, 1, 0, 32, .ro, [(.plain, 0, 16384), (.plain, 0, 8)]⟩
  | .colGrpSlotDoneChunks => ⟨7, 34, 0, 1, 0, 16, .ro, [(.plain, 0, 16384), (.plain, 0, 8)]⟩
  | .colGrpQuotaUsedKib => ⟨7, 35, 0, 1, 0, 24, .ro, [(.plain, 0, 16384), (.die, 0, 4)]⟩
  | .colGrpSpillUsedMib => ⟨7, 36, 0, 1, 0, 12, .ro, [(.plain, 0, 16384), (.half, 0, 2)]⟩
  | .colGrpSeqDone => ⟨7, 37, 0, 2, 0, 48, .ro, [(.plain, 0, 16384)]⟩
  | .colGrpChunkDone => ⟨7, 37, 1, 2, 0, 48, .ro, [(.plain, 0, 16384)]⟩
  | .colGrpAborted => ⟨7, 38, 0, 2, 0, 32, .ro, [(.plain, 0, 16384)]⟩
  | .colGrpGenDiscard => ⟨7, 38, 1, 2, 0, 32, .ro, [(.plain, 0, 16384)]⟩
  | .colGrpCrcBad => ⟨7, 39, 0, 10, 0, 32, .ro, [(.plain, 0, 16384)]⟩
  | .colGrpNotMember => ⟨7, 39, 1, 10, 0, 32, .ro, [(.plain, 0, 16384)]⟩
  | .colGrpGenDrop => ⟨7, 39, 2, 10, 0, 32, .ro, [(.plain, 0, 16384)]⟩
  | .colGrpLate => ⟨7, 39, 3, 10, 0, 32, .ro, [(.plain, 0, 16384)]⟩
  | .colGrpWindow => ⟨7, 39, 4, 10, 0, 32, .ro, [(.plain, 0, 16384)]⟩
  | .colGrpHdrBad => ⟨7, 39, 5, 10, 0, 32, .ro, [(.plain, 0, 16384)]⟩
  | .colGrpFmtBad => ⟨7, 39, 6, 10, 0, 32, .ro, [(.plain, 0, 16384)]⟩
  | .colGrpSpanBad => ⟨7, 39, 7, 10, 0, 32, .ro, [(.plain, 0, 16384)]⟩
  | .colGrpAddBad => ⟨7, 39, 8, 10, 0, 32, .ro, [(.plain, 0, 16384)]⟩
  | .colGrpSpanOvl => ⟨7, 39, 9, 10, 0, 32, .ro, [(.plain, 0, 16384)]⟩
  | .colGrpCopyDrop => ⟨7, 40, 0, 1, 0, 32, .ro, [(.plain, 0, 16384)]⟩
  | .colSuspect => ⟨7, 41, 0, 1, 0, 16, .ro, [(.core, 0, 128), (.plain, 0, 8), (.plain, 0, 4)]⟩
  | .colQuarCmd => ⟨7, 42, 0, 1, 0, 2, .live, [(.core, 0, 128)]⟩
  | .colQuarCause => ⟨7, 43, 0, 1, 0, 3, .ro, [(.core, 0, 128)]⟩
  | .colHeatProg => ⟨7, 44, 0, 1, 0, 3, .live, [(.core, 0, 128)]⟩
  | .colHeatTemp => ⟨7, 45, 0, 1, 0, 8, .live, [(.core, 0, 128)]⟩
  | .colHeatLoad => ⟨7, 46, 0, 1, 0, 2, .live, [(.core, 0, 128)]⟩
  | .colHeatDurMs => ⟨7, 47, 0, 1, 0, 16, .live, [(.core, 0, 128)]⟩
  | .colHeatCmd => ⟨7, 48, 0, 1, 0, 1, .live, [(.core, 0, 128)]⟩
  | .colHeatResult => ⟨7, 49, 0, 1, 0, 64, .ro, [(.core, 0, 128)]⟩
  | .sprGrpCtrl => ⟨8, 0, 0, 1, 0, 3, .epoch, [(.plain, 0, 256)]⟩
  | .sprGrpOp => ⟨8, 1, 0, 1, 0, 2, .epoch, [(.plain, 0, 256)]⟩
  | .sprGrpFmt => ⟨8, 2, 0, 1, 0, 4, .epoch, [(.plain, 0, 256)]⟩
  | .sprGrpAcc => ⟨8, 3, 0, 1, 0, 1, .epoch, [(.plain, 0, 256)]⟩
  | .sprGrpNelemMax => ⟨8, 4, 0, 1, 0, 9, .epoch, [(.plain, 0, 256)]⟩
  | .sprGrpGen => ⟨8, 5, 0, 1, 0, 16, .epoch, [(.plain, 0, 256)]⟩
  | .sprGrpRanks => ⟨8, 6, 0, 1, 0, 21, .epoch, [(.plain, 0, 256)]⟩
  | .sprGrpFirstSeq => ⟨8, 7, 0, 1, 0, 32, .epoch, [(.plain, 0, 256)]⟩
  | .sprGrpAxG => ⟨8, 8, 0, 3, 0, 13, .epoch, [(.plain, 0, 256)]⟩
  | .sprGrpAxI => ⟨8, 8, 1, 3, 0, 13, .epoch, [(.plain, 0, 256)]⟩
  | .sprGrpAxP => ⟨8, 8, 2, 3, 0, 13, .epoch, [(.plain, 0, 256)]⟩
  | .sprGrpOrder => ⟨8, 9, 0, 1, 0, 6, .epoch, [(.plain, 0, 256)]⟩
  | .sprGrpRfeid => ⟨8, 10, 0, 1, 0, 32, .epoch, [(.plain, 0, 256)]⟩
  | .sprGrpLines => ⟨8, 11, 0, 1, 0, 14, .epoch, [(.plain, 0, 256)]⟩
  | .sprGrpTimeoutUs => ⟨8, 12, 0, 1, 0, 16, .epoch, [(.plain, 0, 256)]⟩
  | .sprGrpSelfRank => ⟨8, 13, 0, 1, 0, 20, .epoch, [(.plain, 0, 256)]⟩
  | .sprGrpSelfPort => ⟨8, 14, 0, 1, 0, 9, .epoch, [(.plain, 0, 256)]⟩
  | .sprGrpBase => ⟨8, 15, 0, 1, 0, 32, .ro, [(.plain, 0, 256)]⟩
  | .sprGrpSlotState => ⟨8, 16, 0, 1, 0, 2, .ro, [(.plain, 0, 256), (.plain, 0, 4)]⟩
  | .sprGrpDone => ⟨8, 17, 0, 3, 0, 48, .ro, [(.plain, 0, 256)]⟩
  | .sprGrpAborted => ⟨8, 17, 1, 3, 0, 48, .ro, [(.plain, 0, 256)]⟩
  | .sprGrpGenDiscard => ⟨8, 17, 2, 3, 0, 48, .ro, [(.plain, 0, 256)]⟩
  | .sprGrpDrop => ⟨8, 18, 0, 1, 0, 32, .ro, [(.plain, 0, 256), (.plain, 1, 7)]⟩
  | .sprGrpCopyDrop => ⟨8, 19, 0, 1, 0, 32, .ro, [(.plain, 0, 256)]⟩
  | .sprLinesFree => ⟨8, 20, 0, 1, 0, 14, .ro, [(.half, 0, 2)]⟩
  | .sprOverrun => ⟨8, 21, 0, 1, 0, 32, .ro, [(.half, 0, 2)]⟩
  | .sprDropNogrp => ⟨8, 22, 0, 3, 0, 48, .ro, []⟩
  | .sprXhalfIn => ⟨8, 22, 1, 3, 0, 48, .ro, []⟩
  | .sprXhalfOut => ⟨8, 22, 2, 3, 0, 48, .ro, []⟩
  | .sprKaTxNs => ⟨8, 23, 0, 1, 0, 12, .live, []⟩
  | .sprKaLossNs => ⟨8, 24, 0, 1, 0, 14, .live, []⟩
  | .sprLaneState => ⟨8, 25, 0, 1, 0, 3, .ro, [(.lane, 0, 1024)]⟩
  | .sprLaneKaLost => ⟨8, 26, 0, 1, 0, 16, .ro, [(.lane, 0, 1024)]⟩
  | .embTblCtrl => ⟨9, 0, 0, 1, 0, 4, .epoch, [(.plain, 0, 64)]⟩
  | .embTblFmt => ⟨9, 1, 0, 1, 0, 5, .epoch, [(.plain, 0, 64)]⟩
  | .embTblDim => ⟨9, 2, 0, 1, 0, 11, .epoch, [(.plain, 0, 64)]⟩
  | .embTblHalfBit => ⟨9, 3, 0, 1, 0, 6, .epoch, [(.plain, 0, 64)]⟩
  | .embTblGfrac => ⟨9, 4, 0, 1, 0, 6, .epoch, [(.plain, 0, 64)]⟩
  | .embTblWq => ⟨9, 5, 0, 1, 0, 3, .epoch, [(.plain, 0, 64)]⟩
  | .embTblSeed => ⟨9, 6, 0, 1, 0, 64, .epoch, [(.plain, 0, 64)]⟩
  | .embTblFirstStep => ⟨9, 7, 0, 1, 0, 32, .epoch, [(.plain, 0, 64)]⟩
  | .embTblHp => ⟨9, 8, 0, 1, 0, 32, .live, [(.plain, 0, 64), (.plain, 0, 6)]⟩
  | .embTblCmd => ⟨9, 9, 0, 1, 0, 2, .live, [(.plain, 0, 64)]⟩
  | .embTblCstep => ⟨9, 10, 0, 1, 0, 32, .epoch, [(.plain, 0, 64)]⟩
  | .embTblStep => ⟨9, 11, 0, 1, 0, 32, .ro, [(.plain, 0, 64)]⟩
  | .embTblState => ⟨9, 12, 0, 1, 0, 3, .ro, [(.plain, 0, 64)]⟩
  | .embTblCg => ⟨9, 13, 0, 1, 0, 5, .ro, [(.plain, 0, 64)]⟩
  | .embTblBankState => ⟨9, 14, 0, 1, 0, 3, .ro, [(.plain, 0, 64), (.plain, 0, 2)]⟩
  | .embTblBankStep => ⟨9, 15, 0, 1, 0, 32, .ro, [(.plain, 0, 64), (.plain, 0, 2)]⟩
  | .embTblBankClap => ⟨9, 16, 0, 1, 0, 54, .ro, [(.plain, 0, 64), (.plain, 0, 2)]⟩
  | .embTblBankEntries => ⟨9, 17, 0, 1, 0, 22, .ro, [(.plain, 0, 64), (.plain, 0, 2), (.half, 0, 2)]⟩
  | .embTblGathers => ⟨9, 18, 0, 2, 0, 48, .ro, [(.plain, 0, 64)]⟩
  | .embTblUpdates => ⟨9, 18, 1, 2, 0, 48, .ro, [(.plain, 0, 64)]⟩
  | .embTblGatherErr => ⟨9, 19, 0, 1, 0, 32, .ro, [(.plain, 0, 64), (.plain, 1, 7)]⟩
  | .embTblUpdRefused => ⟨9, 20, 0, 1, 0, 32, .ro, [(.plain, 0, 64), (.plain, 1, 8)]⟩
  | .embMapCtrl => ⟨9, 21, 0, 1, 0, 3, .epoch, [(.plain, 0, 65536)]⟩
  | .embMapTable => ⟨9, 22, 0, 1, 0, 6, .epoch, [(.plain, 0, 65536)]⟩
  | .embMapRepl => ⟨9, 23, 0, 1, 0, 1, .epoch, [(.plain, 0, 65536)]⟩
  | .embMapRowLo => ⟨9, 24, 0, 2, 0, 48, .epoch, [(.plain, 0, 65536)]⟩
  | .embMapRowHi => ⟨9, 24, 1, 2, 0, 48, .epoch, [(.plain, 0, 65536)]⟩
  | .embMapBaseN => ⟨9, 25, 0, 2, 0, 38, .epoch, [(.plain, 0, 65536)]⟩
  | .embMapBaseS => ⟨9, 25, 1, 2, 0, 38, .epoch, [(.plain, 0, 65536)]⟩
  | .embMapStateN => ⟨9, 26, 0, 2, 0, 38, .epoch, [(.plain, 0, 65536)]⟩
  | .embMapStateS => ⟨9, 26, 1, 2, 0, 38, .epoch, [(.plain, 0, 65536)]⟩
  | .embMapFilled => ⟨9, 27, 0, 1, 0, 38, .ro, [(.plain, 0, 65536), (.half, 0, 2)]⟩
  | .embGatherToUs => ⟨9, 28, 0, 1, 0, 16, .live, []⟩
  | .embStageFreeKib => ⟨9, 29, 0, 1, 0, 22, .ro, [(.half, 0, 2)]⟩
  | .embCrcBad => ⟨9, 30, 0, 2, 0, 48, .ro, []⟩
  | .embRowBad => ⟨9, 30, 1, 2, 0, 48, .ro, []⟩
  | .memRateMax => ⟨10, 0, 0, 1, 0, 2, .quiesced, []⟩
  | .memRate => ⟨10, 1, 0, 1, 0, 2, .ro, [(.half, 0, 2)]⟩
  | .memState => ⟨10, 2, 0, 1, 0, 3, .ro, [(.half, 0, 2)]⟩
  | .memPkgFail => ⟨10, 3, 0, 1, 0, 4, .sticky, [(.half, 0, 2)]⟩
  | .memWinGib => ⟨10, 4, 0, 1, 0, 6, .quiesced, [(.half, 0, 2)]⟩
  | .memScCe => ⟨10, 5, 0, 1, 0, 32, .ro, [(.half, 0, 2), (.plain, 0, 32)]⟩
  | .memScUe => ⟨10, 6, 0, 1, 0, 32, .ro, [(.half, 0, 2), (.plain, 0, 32)]⟩
  | .memScTagErr => ⟨10, 7, 0, 1, 0, 32, .ro, [(.half, 0, 2), (.plain, 0, 32)]⟩
  | .memUeAddr => ⟨10, 8, 0, 1, 0, 64, .ro, [(.half, 0, 2), (.plain, 0, 16)]⟩
  | .memSpillLost => ⟨10, 9, 0, 1, 0, 32, .ro, [(.half, 0, 2)]⟩
  | .memRowCeMax => ⟨10, 10, 0, 1, 0, 8, .live, []⟩
  | .memScrubH => ⟨10, 11, 0, 1, 0, 8, .live, []⟩
  | .memScrubPass => ⟨10, 12, 0, 1, 0, 32, .ro, [(.half, 0, 2)]⟩
  | .memScShadowUsed => ⟨10, 13, 0, 1, 0, 5, .ro, [(.half, 0, 2), (.plain, 0, 32)]⟩
  | .memPprPend => ⟨10, 14, 0, 1, 0, 16, .ro, [(.half, 0, 2)]⟩
  | .memPprEn => ⟨10, 15, 0, 1, 0, 1, .quiesced, []⟩
  | .memBwMinGbps => ⟨10, 16, 0, 1, 0, 10, .live, [(.half, 0, 2), (.plain, 0, 6)]⟩
  | .memBwWeight => ⟨10, 17, 0, 1, 0, 4, .live, [(.half, 0, 2), (.plain, 0, 6)]⟩
  | .memBwUsedGbps => ⟨10, 18, 0, 1, 0, 10, .ro, [(.half, 0, 2), (.plain, 0, 6)]⟩
  | .ddlSharePct => ⟨11, 0, 0, 1, 0, 7, .epoch, [(.plain, 1, 3)]⟩
  | .ddlBudgetGbps => ⟨11, 1, 0, 1, 0, 15, .ro, [(.half, 0, 2), (.plain, 1, 3)]⟩
  | .ddlBundleEn => ⟨11, 2, 0, 1, 0, 8, .live, []⟩
  | .ddlCmd => ⟨11, 3, 0, 1, 0, 1, .live, []⟩
  | .ddlMaskAdv => ⟨11, 4, 0, 1, 0, 64, .ro, [(.half, 0, 2), (.plain, 0, 7)]⟩
  | .ddlMaskAgreed => ⟨11, 5, 0, 1, 0, 64, .ro, [(.plain, 0, 7)]⟩
  | .ddlWidthState => ⟨11, 6, 0, 1, 0, 3, .ro, []⟩
  | .ddlConfirmFail => ⟨11, 7, 0, 1, 0, 2, .ro, []⟩
  | .ddlSafeCnt => ⟨11, 8, 0, 1, 0, 16, .ro, []⟩
  | .ddlHealth => ⟨11, 9, 0, 1, 0, 4, .ro, []⟩
  | .ddlKeymap => ⟨11, 10, 0, 1, 0, 3, .ro, [(.half, 0, 2), (.plain, 0, 64)]⟩
  | .ddlBState => ⟨11, 11, 0, 1, 0, 3, .ro, [(.half, 0, 2), (.plain, 0, 8)]⟩
  | .ddlBSpareUsed => ⟨11, 12, 0, 1, 0, 2, .ro, [(.half, 0, 2), (.plain, 0, 8)]⟩
  | .ddlBMap => ⟨11, 13, 0, 1, 0, 6, .ro, [(.half, 0, 2), (.plain, 0, 8), (.plain, 0, 48)]⟩
  | .ddlBLaneErr => ⟨11, 14, 0, 1, 0, 32, .ro, [(.half, 0, 2), (.plain, 0, 8), (.plain, 0, 51)]⟩
  | .ddlBFlits => ⟨11, 15, 0, 3, 0, 48, .ro, [(.half, 0, 2), (.plain, 0, 8)]⟩
  | .ddlBCrcFail => ⟨11, 15, 1, 3, 0, 48, .ro, [(.half, 0, 2), (.plain, 0, 8)]⟩
  | .ddlBReplays => ⟨11, 15, 2, 3, 0, 48, .ro, [(.half, 0, 2), (.plain, 0, 8)]⟩
  | .ddlLaneErrMax => ⟨11, 16, 0, 1, 0, 16, .live, []⟩
  | .ddlLaneWinMs => ⟨11, 17, 0, 1, 0, 16, .live, []⟩
  | .ddlRetirePpm => ⟨11, 18, 0, 1, 0, 16, .live, []⟩
  | .ddlRetireWin => ⟨11, 19, 0, 1, 0, 8, .live, []⟩
  | .ddlRplMax => ⟨11, 20, 0, 1, 0, 5, .live, []⟩
  | .ddlHoldUs => ⟨11, 21, 0, 1, 0, 16, .live, []⟩
  | .ddlHoldDrop => ⟨11, 22, 0, 1, 0, 32, .ro, [(.half, 0, 2)]⟩
  | .ddlStripeHeld => ⟨11, 23, 0, 1, 0, 16, .ro, []⟩
  | .ddlBridgeCrc => ⟨11, 24, 0, 1, 0, 32, .ro, [(.half, 0, 2), (.plain, 0, 6)]⟩
  | .gstId => ⟨20, 0, 0, 1, 0, 64, .ro, [(.half, 0, 2)]⟩
  | .gstState => ⟨20, 1, 0, 1, 0, 3, .ro, [(.half, 0, 2)]⟩
  | .gstCmd => ⟨20, 2, 0, 1, 0, 2, .live, [(.half, 0, 2)]⟩
  | .gstWinKind => ⟨20, 3, 0, 1, 0, 2, .quiesced, [(.half, 0, 2), (.plain, 0, 8)]⟩
  | .gstWinBase => ⟨20, 4, 0, 1, 0, 48, .quiesced, [(.half, 0, 2), (.plain, 0, 8)]⟩
  | .gstWinSize => ⟨20, 5, 0, 1, 0, 40, .quiesced, [(.half, 0, 2), (.plain, 0, 8)]⟩
  | .gstWinRights => ⟨20, 6, 0, 1, 0, 2, .quiesced, [(.half, 0, 2), (.plain, 0, 8)]⟩
  | .gstWinTag => ⟨20, 7, 0, 1, 0, 8, .quiesced, [(.half, 0, 2), (.plain, 0, 8)]⟩
  | .gstPostq => ⟨20, 8, 0, 1, 0, 11, .quiesced, [(.half, 0, 2), (.plain, 0, 8)]⟩
  | .gstNotifyBase => ⟨20, 9, 0, 1, 0, 48, .quiesced, [(.half, 0, 2)]⟩
  | .gstNotifyLines => ⟨20, 10, 0, 1, 0, 12, .quiesced, [(.half, 0, 2)]⟩
  | .gstRateGbps => ⟨20, 11, 0, 1, 0, 11, .live, [(.half, 0, 2)]⟩
  | .gstPwrMaxW => ⟨20, 12, 0, 1, 0, 7, .live, [(.half, 0, 2)]⟩
  | .gstPwrW => ⟨20, 13, 0, 1, 0, 7, .ro, [(.half, 0, 2)]⟩
  | .gstViol => ⟨20, 14, 0, 1, 0, 32, .ro, [(.half, 0, 2)]⟩
  | .gstViolMax => ⟨20, 15, 0, 1, 0, 8, .live, []⟩
  | .gstFenceCause => ⟨20, 16, 0, 1, 0, 3, .sticky, [(.half, 0, 2)]⟩
  | .prtMode => ⟨0, 28, 0, 1, 0, 2, .quiesced, [(.plain, 0, 128)]⟩
  | .mbxBrdSlot => ⟨12, 0, 0, 1, 0, 2, .ro, []⟩
  | .mbxBrdLink => ⟨12, 1, 0, 1, 0, 8, .quiesced, [(.plain, 0, 4)]⟩
  | .mbxBrdMac => ⟨12, 2, 0, 1, 0, 48, .ro, [(.plain, 0, 4)]⟩
  | .mbxBrdPlid => ⟨12, 3, 0, 1, 0, 32, .ro, [(.plain, 0, 4)]⟩
  | .mbxBrdRateMbps => ⟨12, 4, 0, 1, 0, 14, .live, []⟩
  | .mbxBrdDrop => ⟨12, 5, 0, 1, 0, 32, .ro, []⟩
  | .mbxOmpPort => ⟨12, 6, 0, 1, 0, 16, .quiesced, []⟩
  | .mbxOmpIdleS => ⟨12, 7, 0, 1, 0, 8, .live, []⟩
  | .mbxOmpDrop => ⟨12, 8, 0, 1, 0, 32, .ro, [(.plain, 1, 5)]⟩
  | .mbxSessState => ⟨12, 9, 0, 1, 0, 2, .ro, [(.plain, 0, 16)]⟩
  | .mbxSessSrcid => ⟨12, 10, 0, 1, 0, 16, .ro, [(.plain, 0, 16)]⟩
  | .mbxSessPeerIp6 => ⟨12, 11, 0, 1, 0, 128, .ro, [(.plain, 0, 16)]⟩
  | .mbxSessRole => ⟨12, 12, 0, 1, 0, 8, .ro, [(.plain, 0, 16)]⟩
  | .mbxData => ⟨12, 13, 0, 1, 0, 64, .live, [(.plain, 0, 32)]⟩
  | .mbxFull => ⟨12, 14, 0, 1, 0, 1, .ro, [(.plain, 0, 32)]⟩
  | .mbxSrcid => ⟨12, 15, 0, 1, 0, 16, .ro, [(.plain, 0, 32)]⟩
  | .mbxRdata => ⟨12, 16, 0, 1, 0, 64, .live, [(.plain, 0, 32)]⟩
  | .mbxRfull => ⟨12, 17, 0, 1, 0, 1, .ro, [(.plain, 0, 32)]⟩
  | .mbxBuf => ⟨12, 18, 0, 1, 0, 64, .live, [(.plain, 0, 32), (.plain, 0, 512)]⟩
  | .mbxDoorbell => ⟨12, 19, 0, 1, 0, 1, .live, [(.plain, 0, 32)]⟩
  | .mbxReady => ⟨12, 20, 0, 1, 0, 1, .ro, [(.plain, 0, 32)]⟩
  | .mbxLock => ⟨12, 21, 0, 1, 0, 16, .live, [(.plain, 0, 32)]⟩
  | .mbxKs7 => ⟨12, 22, 0, 1, 0, 1, .quiesced, [(.plain, 0, 32)]⟩
  | .mbxWfull => ⟨12, 23, 0, 1, 0, 32, .ro, [(.plain, 0, 32)]⟩
  | .mbxRcv => ⟨12, 24, 0, 1, 0, 4, .ro, [(.plain, 0, 32)]⟩
  | .mbxLease => ⟨12, 25, 0, 1, 0, 64, .live, []⟩
  | .mbxLeaseState => ⟨12, 26, 0, 1, 0, 3, .ro, []⟩
  | .mbxLeaseSrcid => ⟨12, 27, 0, 1, 0, 16, .ro, []⟩
  | .mbxLeaseAgeMs => ⟨12, 28, 0, 1, 0, 11, .ro, []⟩
  | .mbxLeaseEnds => ⟨12, 29, 0, 1, 0, 32, .ro, []⟩
  | .fwmCoreState => ⟨13, 0, 0, 1, 0, 3, .ro, [(.plain, 0, 10)]⟩
  | .fwmCoreCmd => ⟨13, 1, 0, 1, 0, 2, .live, [(.plain, 0, 10)]⟩
  | .fwmCoreWd => ⟨13, 2, 0, 1, 0, 1, .live, [(.plain, 0, 10)]⟩
  | .fwmCoreWdMs => ⟨13, 3, 0, 1, 0, 12, .live, [(.plain, 0, 10)]⟩
  | .fwmCoreRestarts => ⟨13, 4, 0, 1, 0, 32, .ro, [(.plain, 0, 10)]⟩
  | .fwmCoreLogbuf => ⟨13, 5, 0, 1, 0, 64, .live, [(.plain, 0, 10), (.plain, 0, 6)]⟩
  | .fwmCoreLogcmd => ⟨13, 6, 0, 1, 0, 20, .live, [(.plain, 0, 10)]⟩
  | .fwmCoreTrace => ⟨13, 7, 0, 1, 0, 64, .live, [(.plain, 0, 10)]⟩
  | .fwmCoreTpEn => ⟨13, 8, 0, 1, 0, 64, .live, [(.plain, 0, 10)]⟩
  | .fwmBootToMs => ⟨13, 9, 0, 1, 0, 12, .live, []⟩
  | .fwmRoleCore => ⟨13, 10, 0, 1, 0, 4, .ro, [(.plain, 0, 5)]⟩
  | .fwmRoleCmd => ⟨13, 11, 0, 1, 0, 1, .live, [(.plain, 0, 5)]⟩
  | .fwmLogWr => ⟨13, 12, 0, 1, 0, 25, .ro, [(.half, 0, 2)]⟩
  | .fwmLogWrap => ⟨13, 13, 0, 3, 0, 32, .ro, [(.half, 0, 2)]⟩
  | .fwmLogDrop => ⟨13, 13, 1, 3, 0, 32, .ro, [(.half, 0, 2)]⟩
  | .fwmTraceDrop => ⟨13, 13, 2, 3, 0, 32, .ro, [(.half, 0, 2)]⟩
  | .fwmImgState => ⟨13, 14, 0, 1, 0, 4, .ro, [(.plain, 0, 10)]⟩
  | .fwmImgVer => ⟨13, 15, 0, 1, 0, 32, .ro, [(.plain, 0, 10)]⟩
  | .fwmImgDigest => ⟨13, 16, 0, 1, 0, 64, .ro, [(.plain, 0, 10), (.plain, 0, 4)]⟩
  | .fwmImgActLap => ⟨13, 17, 0, 1, 0, 54, .live, [(.plain, 0, 10)]⟩
  | .fwmImgCmd => ⟨13, 18, 0, 1, 0, 3, .live, [(.plain, 0, 10)]⟩
  | .fwmEmerg => ⟨13, 19, 0, 1, 0, 2, .ro, []⟩
  | .fwmActCancel => ⟨13, 20, 0, 1, 0, 16, .ro, []⟩
  | .grdLock => ⟨14, 0, 0, 1, 0, 1, .ro, []⟩
  | .grdEnvFibDbm => ⟨14, 1, 0, 1, 0, 8, .ro, []⟩
  | .grdEnvCombMa => ⟨14, 2, 0, 2, 0, 12, .ro, []⟩
  | .grdEnvTuneMa => ⟨14, 2, 1, 2, 0, 12, .ro, []⟩
  | .grdEnvRingMw => ⟨14, 3, 0, 1, 0, 8, .ro, []⟩
  | .grdEnvHeatW => ⟨14, 4, 0, 1, 0, 8, .ro, []⟩
  | .grdEnvModW => ⟨14, 5, 0, 1, 0, 10, .ro, []⟩
  | .grdEnvTripC => ⟨14, 6, 0, 1, 0, 8, .ro, []⟩
  | .grdEnvGstW => ⟨14, 7, 0, 1, 0, 7, .ro, []⟩
  | .grdEnvMgmtMbps => ⟨14, 8, 0, 1, 0, 14, .ro, []⟩
  | .grdBypPermit => ⟨14, 9, 0, 1, 0, 128, .ro, [(.plain, 0, 8)]⟩
  | .grdFlashWin => ⟨14, 10, 0, 1, 0, 8, .ro, [(.plain, 0, 10)]⟩
  | .grdEvent => ⟨14, 11, 0, 1, 0, 11, .sticky, []⟩
  | .grdEventCnt => ⟨14, 12, 0, 1, 0, 32, .ro, [(.plain, 0, 11)]⟩
  | .secBootstat => ⟨15, 0, 0, 1, 0, 16, .ro, [(.half, 0, 2)]⟩
  | .secIdPkDigest => ⟨15, 1, 0, 1, 0, 64, .ro, [(.half, 0, 2), (.plain, 0, 4)]⟩
  | .secMeas => ⟨15, 2, 0, 1, 0, 64, .ro, [(.half, 0, 2), (.plain, 0, 8), (.plain, 0, 4)]⟩
  | .secLogCnt => ⟨15, 3, 0, 1, 0, 32, .ro, [(.half, 0, 2)]⟩
  | .secRecGen => ⟨15, 4, 0, 1, 0, 64, .ro, [(.plain, 1, 6)]⟩
  | .secFloor => ⟨15, 5, 0, 1, 0, 32, .ro, [(.plain, 0, 5)]⟩
  | .secFloorBoot => ⟨15, 6, 0, 2, 0, 32, .ro, []⟩
  | .secFloorManifest => ⟨15, 6, 1, 2, 0, 32, .ro, []⟩
  | .secOpkeyCnt => ⟨15, 7, 0, 1, 0, 6, .ro, []⟩
  | .secHuCapUf => ⟨15, 8, 0, 1, 0, 16, .ro, []⟩
  | .secHuAvailMj => ⟨15, 9, 0, 1, 0, 16, .ro, []⟩
  | .secHuRefuse => ⟨15, 10, 0, 1, 0, 32, .ro, []⟩
  | .pwrVinMv => ⟨16, 0, 0, 1, 0, 16, .ro, []⟩
  | .pwrPinW => ⟨16, 1, 0, 1, 0, 13, .ro, []⟩
  | .pwrLoss => ⟨16, 2, 0, 1, 0, 1, .sticky, []⟩
  | .pwrLossCnt => ⟨16, 3, 0, 1, 0, 16, .ro, []⟩
  | .pwrPsReq => ⟨16, 4, 0, 1, 0, 3, .live, []⟩
  | .pwrPsLap => ⟨16, 5, 0, 1, 0, 54, .live, []⟩
  | .pwrPsState => ⟨16, 6, 0, 1, 0, 4, .ro, []⟩
  | .pwrPsForced => ⟨16, 7, 0, 1, 0, 3, .ro, []⟩
  | .pwrForceCause => ⟨16, 8, 0, 1, 0, 3, .ro, []⟩
  | .pwrRailMv => ⟨16, 9, 0, 1, 0, 16, .ro, [(.half, 0, 2), (.plain, 0, 11)]⟩
  | .pwrRailMa => ⟨16, 10, 0, 1, 0, 20, .ro, [(.half, 0, 2), (.plain, 0, 11)]⟩
  | .pwrRailFault => ⟨16, 11, 0, 1, 0, 11, .sticky, [(.half, 0, 2)]⟩
  | .pwrRegionTj => ⟨16, 12, 0, 1, 0, 12, .ro, [(.half, 0, 2), (.plain, 0, 64)]⟩
  | .pwrRegionRate => ⟨16, 13, 0, 1, 0, 16, .ro, [(.half, 0, 2), (.plain, 0, 64)]⟩
  | .pwrRegionTjLim => ⟨16, 14, 0, 1, 0, 12, .ro, [(.half, 0, 2), (.plain, 0, 64)]⟩
  | .pwrTjLim => ⟨16, 15, 0, 1, 0, 8, .live, []⟩
  | .pwrFfsafe => ⟨16, 16, 0, 1, 0, 1, .live, [(.half, 0, 2)]⟩
  | .pwrDieCeilMhz => ⟨16, 17, 0, 1, 0, 12, .live, [(.die, 0, 4)]⟩
  | .pwrDieThrEvents => ⟨16, 18, 0, 1, 0, 32, .ro, [(.die, 0, 4)]⟩
  | .pwrDieDroopCnt => ⟨16, 19, 0, 1, 0, 32, .ro, [(.die, 0, 4)]⟩
  | .pwrCoolInC => ⟨16, 20, 0, 2, 0, 12, .ro, []⟩
  | .pwrCoolOutC => ⟨16, 20, 1, 2, 0, 12, .ro, []⟩
  | .pwrCoolMaxC => ⟨16, 21, 0, 1, 0, 8, .live, []⟩
  | .pwrEmergClrMs => ⟨16, 22, 0, 1, 0, 16, .live, []⟩
  | .pwrEmergP1Ms => ⟨16, 23, 0, 1, 0, 16, .live, []⟩
  | .pwrEmergSrc => ⟨16, 24, 0, 1, 0, 8, .ro, [(.half, 0, 2)]⟩
  | .marErrq => ⟨19, 0, 0, 1, 0, 1024, .ro, [(.plain, 0, 256)]⟩
  | .marErrqCnt => ⟨19, 1, 0, 1, 0, 9, .ro, []⟩
  | .marErrAck => ⟨19, 2, 0, 1, 0, 8, .live, []⟩
  | .marStorm => ⟨19, 3, 0, 1, 0, 1, .sticky, []⟩
  | .marStormTbl => ⟨19, 4, 0, 1, 0, 1024, .ro, [(.plain, 0, 64)]⟩
  | .marStormLost => ⟨19, 5, 0, 1, 0, 32, .ro, [(.plain, 1, 4)]⟩
  | .marRstCmd => ⟨19, 6, 0, 1, 0, 14, .live, []⟩
  | .marRstDrop => ⟨19, 7, 0, 1, 0, 48, .ro, []⟩
  | .marPsFence => ⟨19, 8, 0, 1, 0, 1, .sticky, [(.plain, 0, 512)]⟩
  | .marPsFenceDrop => ⟨19, 9, 0, 1, 0, 32, .ro, [(.plain, 0, 512)]⟩
  | .marPts => ⟨19, 10, 0, 1, 0, 8, .live, [(.plain, 0, 8)]⟩
  | .marBerSym => ⟨19, 11, 0, 1, 0, 24, .live, []⟩
  | .marLagUs => ⟨19, 12, 0, 1, 0, 16, .live, []⟩
  | .marWinUs => ⟨19, 13, 0, 1, 0, 12, .live, []⟩
  | .marSuspect => ⟨19, 14, 0, 1, 0, 12, .live, []⟩
  | .marPsScore => ⟨19, 15, 0, 2, 0, 16, .ro, [(.plain, 0, 512)]⟩
  | .marLnScore => ⟨19, 15, 1, 2, 0, 16, .ro, [(.lane, 0, 1024)]⟩
  | .marAgreeUs => ⟨19, 16, 0, 1, 0, 12, .live, []⟩
  | .marMemberPlid => ⟨19, 17, 0, 2, 0, 32, .epoch, [(.plain, 0, 64)]⟩
  | .marMemberFeid => ⟨19, 17, 1, 2, 0, 32, .epoch, [(.plain, 0, 64)]⟩
  | .marMemberN => ⟨19, 18, 0, 1, 0, 7, .epoch, []⟩
  | .marQuorum => ⟨19, 19, 0, 1, 0, 4, .epoch, []⟩
  | .marCaseMs => ⟨19, 20, 0, 1, 0, 12, .epoch, []⟩
  | .marReportGapUs => ⟨19, 21, 0, 1, 0, 16, .epoch, []⟩
  | .marVerdictUs => ⟨19, 22, 0, 1, 0, 12, .epoch, []⟩
  | .marBudget => ⟨19, 23, 0, 1, 0, 8, .epoch, []⟩
  | .marBudgetS => ⟨19, 24, 0, 1, 0, 16, .epoch, []⟩
  | .marDerateC => ⟨19, 25, 0, 1, 0, 2, .epoch, []⟩
  | .marSpareSubj => ⟨19, 26, 0, 3, 0, 32, .epoch, [(.plain, 0, 256)]⟩
  | .marSpareSparePlid => ⟨19, 26, 1, 3, 0, 32, .epoch, [(.plain, 0, 256)]⟩
  | .marSpareSpareFeid => ⟨19, 26, 2, 3, 0, 32, .epoch, [(.plain, 0, 256)]⟩
  | .marSpareFeidLo => ⟨19, 27, 0, 1, 0, 32, .epoch, [(.plain, 0, 256)]⟩
  | .marSpareFeidCnt => ⟨19, 28, 0, 1, 0, 13, .epoch, [(.plain, 0, 256)]⟩
  | .marSpareNhs => ⟨19, 29, 0, 1, 0, 12, .epoch, [(.plain, 0, 256)]⟩
  | .marSpareUsed => ⟨19, 30, 0, 1, 0, 1, .ro, [(.plain, 0, 256)]⟩
  | .marCaseSubj => ⟨19, 31, 0, 1, 0, 32, .ro, [(.plain, 0, 64)]⟩
  | .marCaseCount => ⟨19, 32, 0, 1, 0, 32, .ro, [(.plain, 0, 64)]⟩
  | .marCaseObs => ⟨19, 33, 0, 1, 0, 4, .ro, [(.plain, 0, 64)]⟩
  | .marCaseState => ⟨19, 34, 0, 1, 0, 3, .ro, [(.plain, 0, 64)]⟩
  | .marCaseLost => ⟨19, 35, 0, 1, 0, 32, .ro, []⟩
  | .marCaseCloseMs => ⟨19, 36, 0, 1, 0, 16, .live, []⟩
  | .marSummaryMs => ⟨19, 37, 0, 1, 0, 16, .live, []⟩
  | .marLedger => ⟨19, 38, 0, 1, 0, 96, .ro, [(.plain, 0, 64)]⟩
  | .marSelfState => ⟨19, 39, 0, 1, 0, 3, .ro, []⟩
  | .marSelfDrop => ⟨19, 40, 0, 1, 0, 48, .ro, []⟩
  | .marHealth => ⟨19, 41, 0, 1, 0, 32, .ro, []⟩
  | .marStatusUs => ⟨19, 42, 0, 1, 0, 16, .live, []⟩
  | .marProbeMs => ⟨19, 43, 0, 1, 0, 16, .live, []⟩
  | .marSlowUs => ⟨19, 44, 0, 1, 0, 16, .live, []⟩
  | .marSlowCnt => ⟨19, 45, 0, 1, 0, 16, .live, []⟩
  | .marFmFeid => ⟨19, 46, 0, 1, 0, 32, .live, []⟩
  | .marFmIp6 => ⟨19, 47, 0, 1, 0, 128, .live, []⟩
  | .marEgrMbps => ⟨19, 48, 0, 1, 0, 14, .live, []⟩
  | .marEgrDrop => ⟨19, 49, 0, 1, 0, 48, .ro, [(.plain, 0, 3)]⟩
  | .telCntSel => ⟨18, 0, 0, 1, 0, 28, .epoch, [(.half, 0, 2), (.plain, 0, 21), (.plain, 0, 64)]⟩
  | .telCntCmp => ⟨18, 1, 0, 1, 0, 64, .epoch, [(.half, 0, 2), (.plain, 0, 21), (.plain, 0, 64)]⟩
  | .telCntVal => ⟨18, 2, 0, 1, 0, 48, .ro, [(.half, 0, 2), (.plain, 0, 21), (.plain, 0, 64)]⟩
  | .telCntOvf => ⟨18, 3, 0, 1, 0, 1, .sticky, [(.half, 0, 2), (.plain, 0, 21), (.plain, 0, 64)]⟩
  | .telClr => ⟨18, 4, 0, 1, 0, 1, .live, [(.half, 0, 2), (.plain, 0, 21)]⟩
  | .telDumpRangeBase => ⟨18, 5, 0, 1, 0, 48, .live, [(.plain, 0, 16), (.plain, 0, 64)]⟩
  | .telDumpRangeWords => ⟨18, 6, 0, 1, 0, 16, .live, [(.plain, 0, 16), (.plain, 0, 64)]⟩
  | .telDumpProg => ⟨18, 7, 0, 1, 0, 21, .live, [(.plain, 0, 16)]⟩
  | .telDumpPeriodLaps => ⟨18, 8, 0, 1, 0, 16, .live, [(.plain, 0, 16)]⟩
  | .telDumpTarget => ⟨18, 9, 0, 1, 0, 2, .live, [(.plain, 0, 16)]⟩
  | .telDumpExportDiv => ⟨18, 10, 0, 1, 0, 8, .live, [(.plain, 0, 16)]⟩
  | .telDumpSkip => ⟨18, 11, 0, 1, 0, 32, .ro, [(.plain, 0, 16)]⟩
  | .telDumpWr => ⟨18, 12, 0, 1, 0, 30, .ro, [(.half, 0, 2)]⟩
  | .telDumpSeq => ⟨18, 13, 0, 1, 0, 32, .ro, [(.half, 0, 2)]⟩
  | .telSmpSeed => ⟨18, 14, 0, 1, 0, 32, .live, []⟩
  | .telSmpEn => ⟨18, 15, 0, 1, 0, 1, .live, [(.half, 0, 2), (.plain, 0, 8)]⟩
  | .telSmpLane => ⟨18, 16, 0, 1, 0, 11, .live, [(.half, 0, 2), (.plain, 0, 8)]⟩
  | .telSmpRungs => ⟨18, 17, 0, 1, 0, 4, .live, [(.half, 0, 2), (.plain, 0, 8)]⟩
  | .telSmpEvent => ⟨18, 18, 0, 1, 0, 2, .live, [(.half, 0, 2), (.plain, 0, 8)]⟩
  | .telSmpRateLog => ⟨18, 19, 0, 1, 0, 5, .live, [(.half, 0, 2), (.plain, 0, 8)]⟩
  | .telSmpSojMinNs => ⟨18, 20, 0, 1, 0, 24, .live, [(.half, 0, 2), (.plain, 0, 8)]⟩
  | .telSmpTaken => ⟨18, 21, 0, 1, 0, 48, .ro, [(.half, 0, 2), (.plain, 0, 8)]⟩
  | .telSbuf => ⟨18, 22, 0, 1, 0, 1024, .ro, [(.half, 0, 2), (.plain, 0, 4096)]⟩
  | .telSbufMode => ⟨18, 23, 0, 1, 0, 1, .live, [(.half, 0, 2)]⟩
  | .telSbufWr => ⟨18, 24, 0, 2, 0, 12, .ro, [(.half, 0, 2)]⟩
  | .telSbufRd => ⟨18, 24, 1, 2, 0, 12, .live, [(.half, 0, 2)]⟩
  | .telSbufExport => ⟨18, 25, 0, 1, 0, 1, .live, [(.half, 0, 2)]⟩
  | .telSbufLost => ⟨18, 26, 0, 1, 0, 32, .ro, [(.half, 0, 2)]⟩
  | .telMonKind => ⟨18, 27, 0, 1, 0, 2, .epoch, [(.half, 0, 2), (.plain, 0, 32)]⟩
  | .telMonSrc => ⟨18, 28, 0, 1, 0, 48, .epoch, [(.half, 0, 2), (.plain, 0, 32)]⟩
  | .telMonArg => ⟨18, 29, 0, 1, 0, 16, .epoch, [(.half, 0, 2), (.plain, 0, 32)]⟩
  | .telMonSampleUs => ⟨18, 30, 0, 1, 0, 24, .live, [(.half, 0, 2), (.plain, 0, 32)]⟩
  | .telMonBase => ⟨18, 31, 0, 2, 0, 32, .epoch, [(.half, 0, 2), (.plain, 0, 32)]⟩
  | .telMonWidth => ⟨18, 31, 1, 2, 0, 32, .epoch, [(.half, 0, 2), (.plain, 0, 32)]⟩
  | .telMonScale => ⟨18, 32, 0, 1, 0, 1, .epoch, [(.half, 0, 2), (.plain, 0, 32)]⟩
  | .telMonMin => ⟨18, 33, 0, 2, 0, 32, .ro, [(.half, 0, 2), (.plain, 0, 32)]⟩
  | .telMonMax => ⟨18, 33, 1, 2, 0, 32, .ro, [(.half, 0, 2), (.plain, 0, 32)]⟩
  | .telMonCnt => ⟨18, 34, 0, 1, 0, 48, .ro, [(.half, 0, 2), (.plain, 0, 32)]⟩
  | .telMonBin => ⟨18, 35, 0, 1, 0, 32, .ro, [(.half, 0, 2), (.plain, 0, 32), (.plain, 0, 32)]⟩
  | .telMonClrOnDump => ⟨18, 36, 0, 1, 0, 1, .live, [(.half, 0, 2), (.plain, 0, 32)]⟩
  | .telMonCmd => ⟨18, 37, 0, 1, 0, 1, .live, [(.half, 0, 2), (.plain, 0, 32)]⟩
  | .telMonAlarmHi => ⟨18, 38, 0, 2, 0, 32, .live, [(.half, 0, 2), (.plain, 0, 32)]⟩
  | .telMonAlarmLo => ⟨18, 38, 1, 2, 0, 32, .live, [(.half, 0, 2), (.plain, 0, 32)]⟩
  | .telMonAlarmCnt => ⟨18, 39, 0, 1, 0, 32, .ro, [(.half, 0, 2), (.plain, 0, 32)]⟩
  | .telPermDefault => ⟨18, 40, 0, 1, 0, 24, .live, []⟩
  | .telPermBlocks => ⟨18, 41, 0, 1, 0, 24, .live, [(.plain, 0, 16)]⟩
  | .telPermGrpLo => ⟨18, 42, 0, 2, 0, 14, .live, [(.plain, 0, 16)]⟩
  | .telPermGrpHi => ⟨18, 42, 1, 2, 0, 14, .live, [(.plain, 0, 16)]⟩
  | .fwmStartStep => ⟨13, 21, 0, 1, 0, 4, .ro, []⟩
  | .fwmStartFail => ⟨13, 22, 0, 1, 1, 11, .sticky, []⟩
  | .fwmStartMs => ⟨13, 23, 0, 1, 0, 20, .ro, [(.plain, 1, 11)]⟩
  | .timPulseNs => ⟨17, 27, 0, 1, 0, 64, .ro, []⟩
  | .timPulseFrac => ⟨17, 28, 0, 1, 0, 16, .ro, []⟩
  | .timPulseCnt => ⟨17, 29, 0, 1, 0, 32, .ro, []⟩
  | .timPulseBad => ⟨17, 30, 0, 1, 0, 32, .ro, []⟩
  | .optBayPres => ⟨1, 16, 0, 1, 0, 18, .ro, []⟩
  | .optBayId => ⟨1, 17, 0, 1, 0, 64, .ro, [(.plain, 0, 18)]⟩
  | .optBayWrong => ⟨1, 18, 0, 1, 0, 18, .sticky, []⟩

/-- Every register field, block by block and row by row. -/
def Reg.ofPrt : List Reg :=
  [.prtPfRole, .prtLanePfLinkdly, .prtLanePfRxdly, .prtLanePfTxdly, .prtWidth, .prtBond, .prtCrouterN,
    .prtCrouterPos, .prtStripeSkew, .prtLaneCmd, .prtLaneState, .prtLaneFecReq, .prtLaneFecMode,
    .prtLaneFecCorr, .prtLaneFecUncorr, .prtLanePeerCap, .prtLaneLogicalW, .prtLaneLolDbm, .prtLaneLol,
    .prtLaneRipSeen, .prtLaneOsRx, .prtLaneTrainFail, .prtLaneRplEn, .prtLaneRplToUs, .prtLaneRplMax,
    .prtLaneRplNakTx, .prtLaneRplNakRx, .prtLaneRplReplays, .prtLaneRxBad, .prtLanePauseWd, .prtMode]

def Reg.ofOpt : List Reg :=
  [.optSelSrc, .optSelHoldNs, .optCombState, .optCombLinePwr, .optCombLineRef, .optTuneLaserCh,
    .optTuneLaserPwr, .optTuneLaserRef, .optFadeWarnDb, .optFadePlanDb, .optFadeCritDb, .optFadeLossDb,
    .optSpareOmaDbm, .optSparePend, .optCalPeriodS, .optFfRefitS, .optCtrlAutoBench, .optCtrlAutoCal,
    .optBypPass, .optBayPres, .optBayId, .optBayWrong]

def Reg.ofLck : List Reg :=
  [.lckRingState, .lckRingTlock, .lckRingLowTlock, .lckRingDetune, .lckRingHeat, .lckRingErrPm,
    .lckDitherPm, .lckFfEn, .lckFf, .lckHrMin, .lckUnlockCnt]

def Reg.ofFwd : List Reg :=
  [.fwdCtrlDirectEn, .fwdMtu, .fwdKfhEtype, .fwdKfhUdp, .fwdModMac, .fwdModIp4, .fwdModIp6, .fwdSvcFeid,
    .fwdSvcFeidEn, .fwdDscpRung, .fwdPortPeerMac, .fwdPortLearnNhs, .fwdHseed0, .fwdHseed1, .fwdHseed2,
    .fwdHseed3, .fwdEmKicks, .fwdFlowletGapNs, .fwdCmScale, .fwdSweepUs, .fwdAgePass, .fwdLearnMax,
    .fwdCmpPeriodMs, .fwdNhsMode, .fwdNhsMember, .fwdTcmd, .fwdTcmdStat, .fwdDrop, .fwdLpmUsed, .fwdEmUsed,
    .fwdStashUsed, .fwdLearnFail, .fwdLearnMove, .fwdLearnEvict, .fwdAgedOut, .fwdHintIgnored, .fwdCmAllsat,
    .fwdXhalfFallback, .fwdPinFallback, .fwdEccCorr, .fwdEccUncorr, .fwdWdig, .fwdMdig, .fwdCmpStat]

def Reg.ofBuf : List Reg :=
  [.bufCellsFree, .bufSharedFree, .bufFenced, .bufFenceCmd, .bufPtrErr, .bufRefErr, .bufLadderErr,
    .bufRsvIng, .bufRsvEgr, .bufAlphaIng, .bufAlphaEgr, .bufIqAlpha, .bufEqAlpha, .bufIqDepth, .bufEqDepth,
    .bufIqDropThr, .bufEqDropThr, .bufHdrmPool, .bufHdrmLane, .bufXonGap, .bufPauseWdUs, .bufColourDscp,
    .bufRedMin, .bufRedMax, .bufRedPmax, .bufRedW, .bufEqDropRed, .bufAgeLimitUs, .bufEqAged, .bufSpillEn,
    .bufSpillWrGbps, .bufSpillRdGbps, .bufEqState, .bufEqSpillBytes, .bufEqSpillDrop]

def Reg.ofPac : List Reg :=
  [.pacQRate, .pacQBurst, .pacQCredit, .pacLaneRate, .pacLaneBurst, .pacLaneCredit, .pacLaneOverhead,
    .pacPortRate, .pacPortBurst, .pacSampleNs, .pacEwmaW, .pacQDepthS, .pacQSojS, .pacQSojLast, .pacCmT,
    .pacCmPausePct, .pacCmNow, .pacCmLap, .pacCmExportLaps, .pacCmDstFeid, .pacCmDstIp6, .pacCmExportCnt,
    .pacCmExportDrop, .pacMarkNs, .pacQMarked]

def Reg.ofRly : List Reg :=
  [.rlyKriVer, .rlyDieClkMhz, .rlyHoldMaxUs, .rlySteer, .rlyState, .rlySubst, .rlyWqBundle, .rlyWqDepth,
    .rlyWqFullCnt, .rlyTState, .rlyTPc, .rlyTCmd, .rlyTFault, .rlyIstore, .rlyScrUsed, .rlyIssueV,
    .rlyIssueO, .rlyDbDrop, .rlyBundleState, .rlyBundleRun, .rlyBundleId, .rlyBundleVer, .rlyBundleDigest,
    .rlyBundleErr]

def Reg.ofCol : List Reg :=
  [.colGrpCtrl, .colGrpKind, .colGrpOp, .colGrpFmtIn, .colGrpAcc, .colGrpFmtOut, .colGrpGen, .colGrpRanks,
    .colGrpFirstSeq, .colGrpSeed, .colGrpRfeid, .colGrpAxG, .colGrpAxI, .colGrpAxP, .colGrpOrder,
    .colGrpQuotaKib, .colGrpSpillMaxMib, .colGrpTimeoutUs, .colGrpTopk, .colGrpRsDiv, .colGrpWq,
    .colGrpMirrorExp, .colXholdNs, .colXhalfIn, .colXhalfOut, .colDropNogrp, .colDieRsvMaxKib,
    .colDieSharedFreeKib, .colDieMirrorRuns, .colSpillWrGbps, .colSpillRdGbps, .colSpillUsedMib, .colGrpBase,
    .colGrpSlotState, .colGrpSlotSeq, .colGrpSlotDoneChunks, .colGrpQuotaUsedKib, .colGrpSpillUsedMib,
    .colGrpSeqDone, .colGrpChunkDone, .colGrpAborted, .colGrpGenDiscard, .colGrpCrcBad, .colGrpNotMember,
    .colGrpGenDrop, .colGrpLate, .colGrpWindow, .colGrpHdrBad, .colGrpFmtBad, .colGrpSpanBad, .colGrpAddBad,
    .colGrpSpanOvl, .colGrpCopyDrop, .colSuspect, .colQuarCmd, .colQuarCause, .colHeatProg, .colHeatTemp,
    .colHeatLoad, .colHeatDurMs, .colHeatCmd, .colHeatResult]

def Reg.ofSpr : List Reg :=
  [.sprGrpCtrl, .sprGrpOp, .sprGrpFmt, .sprGrpAcc, .sprGrpNelemMax, .sprGrpGen, .sprGrpRanks,
    .sprGrpFirstSeq, .sprGrpAxG, .sprGrpAxI, .sprGrpAxP, .sprGrpOrder, .sprGrpRfeid, .sprGrpLines,
    .sprGrpTimeoutUs, .sprGrpSelfRank, .sprGrpSelfPort, .sprGrpBase, .sprGrpSlotState, .sprGrpDone,
    .sprGrpAborted, .sprGrpGenDiscard, .sprGrpDrop, .sprGrpCopyDrop, .sprLinesFree, .sprOverrun,
    .sprDropNogrp, .sprXhalfIn, .sprXhalfOut, .sprKaTxNs, .sprKaLossNs, .sprLaneState, .sprLaneKaLost]

def Reg.ofEmb : List Reg :=
  [.embTblCtrl, .embTblFmt, .embTblDim, .embTblHalfBit, .embTblGfrac, .embTblWq, .embTblSeed,
    .embTblFirstStep, .embTblHp, .embTblCmd, .embTblCstep, .embTblStep, .embTblState, .embTblCg,
    .embTblBankState, .embTblBankStep, .embTblBankClap, .embTblBankEntries, .embTblGathers, .embTblUpdates,
    .embTblGatherErr, .embTblUpdRefused, .embMapCtrl, .embMapTable, .embMapRepl, .embMapRowLo, .embMapRowHi,
    .embMapBaseN, .embMapBaseS, .embMapStateN, .embMapStateS, .embMapFilled, .embGatherToUs,
    .embStageFreeKib, .embCrcBad, .embRowBad]

def Reg.ofMem : List Reg :=
  [.memRateMax, .memRate, .memState, .memPkgFail, .memWinGib, .memScCe, .memScUe, .memScTagErr, .memUeAddr,
    .memSpillLost, .memRowCeMax, .memScrubH, .memScrubPass, .memScShadowUsed, .memPprPend, .memPprEn,
    .memBwMinGbps, .memBwWeight, .memBwUsedGbps]

def Reg.ofDdl : List Reg :=
  [.ddlSharePct, .ddlBudgetGbps, .ddlBundleEn, .ddlCmd, .ddlMaskAdv, .ddlMaskAgreed, .ddlWidthState,
    .ddlConfirmFail, .ddlSafeCnt, .ddlHealth, .ddlKeymap, .ddlBState, .ddlBSpareUsed, .ddlBMap, .ddlBLaneErr,
    .ddlBFlits, .ddlBCrcFail, .ddlBReplays, .ddlLaneErrMax, .ddlLaneWinMs, .ddlRetirePpm, .ddlRetireWin,
    .ddlRplMax, .ddlHoldUs, .ddlHoldDrop, .ddlStripeHeld, .ddlBridgeCrc]

def Reg.ofMbx : List Reg :=
  [.mbxBrdSlot, .mbxBrdLink, .mbxBrdMac, .mbxBrdPlid, .mbxBrdRateMbps, .mbxBrdDrop, .mbxOmpPort,
    .mbxOmpIdleS, .mbxOmpDrop, .mbxSessState, .mbxSessSrcid, .mbxSessPeerIp6, .mbxSessRole, .mbxData,
    .mbxFull, .mbxSrcid, .mbxRdata, .mbxRfull, .mbxBuf, .mbxDoorbell, .mbxReady, .mbxLock, .mbxKs7,
    .mbxWfull, .mbxRcv, .mbxLease, .mbxLeaseState, .mbxLeaseSrcid, .mbxLeaseAgeMs, .mbxLeaseEnds]

def Reg.ofFwm : List Reg :=
  [.fwmCoreState, .fwmCoreCmd, .fwmCoreWd, .fwmCoreWdMs, .fwmCoreRestarts, .fwmCoreLogbuf, .fwmCoreLogcmd,
    .fwmCoreTrace, .fwmCoreTpEn, .fwmBootToMs, .fwmRoleCore, .fwmRoleCmd, .fwmLogWr, .fwmLogWrap,
    .fwmLogDrop, .fwmTraceDrop, .fwmImgState, .fwmImgVer, .fwmImgDigest, .fwmImgActLap, .fwmImgCmd,
    .fwmEmerg, .fwmActCancel, .fwmStartStep, .fwmStartFail, .fwmStartMs]

def Reg.ofGrd : List Reg :=
  [.grdLock, .grdEnvFibDbm, .grdEnvCombMa, .grdEnvTuneMa, .grdEnvRingMw, .grdEnvHeatW, .grdEnvModW,
    .grdEnvTripC, .grdEnvGstW, .grdEnvMgmtMbps, .grdBypPermit, .grdFlashWin, .grdEvent, .grdEventCnt]

def Reg.ofSec : List Reg :=
  [.secBootstat, .secIdPkDigest, .secMeas, .secLogCnt, .secRecGen, .secFloor, .secFloorBoot,
    .secFloorManifest, .secOpkeyCnt, .secHuCapUf, .secHuAvailMj, .secHuRefuse]

def Reg.ofPwr : List Reg :=
  [.pwrVinMv, .pwrPinW, .pwrLoss, .pwrLossCnt, .pwrPsReq, .pwrPsLap, .pwrPsState, .pwrPsForced,
    .pwrForceCause, .pwrRailMv, .pwrRailMa, .pwrRailFault, .pwrRegionTj, .pwrRegionRate, .pwrRegionTjLim,
    .pwrTjLim, .pwrFfsafe, .pwrDieCeilMhz, .pwrDieThrEvents, .pwrDieDroopCnt, .pwrCoolInC, .pwrCoolOutC,
    .pwrCoolMaxC, .pwrEmergClrMs, .pwrEmergP1Ms, .pwrEmergSrc]

def Reg.ofTim : List Reg :=
  [.timNowNs, .timNowFrac, .timIncr, .timStep, .timSetNs, .timCtrlAcquired, .timStatusRefLost, .timLapExp,
    .timLapNow, .timVoteCloseNs, .timCalLap, .timCalAction, .timCalArg, .timCalState, .timCalLog,
    .timCalLateCnt, .timCgCmd, .timCgCommitLap, .timCgVoteGrp, .timCgStageAddr, .timCgStageData, .timCgState,
    .timCgWrites, .timCgBytes, .timCgErr, .timVoteLog, .timVoteLogLost, .timPulseNs, .timPulseFrac,
    .timPulseCnt, .timPulseBad]

def Reg.ofTel : List Reg :=
  [.telCntSel, .telCntCmp, .telCntVal, .telCntOvf, .telClr, .telDumpRangeBase, .telDumpRangeWords,
    .telDumpProg, .telDumpPeriodLaps, .telDumpTarget, .telDumpExportDiv, .telDumpSkip, .telDumpWr,
    .telDumpSeq, .telSmpSeed, .telSmpEn, .telSmpLane, .telSmpRungs, .telSmpEvent, .telSmpRateLog,
    .telSmpSojMinNs, .telSmpTaken, .telSbuf, .telSbufMode, .telSbufWr, .telSbufRd, .telSbufExport,
    .telSbufLost, .telMonKind, .telMonSrc, .telMonArg, .telMonSampleUs, .telMonBase, .telMonWidth,
    .telMonScale, .telMonMin, .telMonMax, .telMonCnt, .telMonBin, .telMonClrOnDump, .telMonCmd,
    .telMonAlarmHi, .telMonAlarmLo, .telMonAlarmCnt, .telPermDefault, .telPermBlocks, .telPermGrpLo,
    .telPermGrpHi]

def Reg.ofMar : List Reg :=
  [.marErrq, .marErrqCnt, .marErrAck, .marStorm, .marStormTbl, .marStormLost, .marRstCmd, .marRstDrop,
    .marPsFence, .marPsFenceDrop, .marPts, .marBerSym, .marLagUs, .marWinUs, .marSuspect, .marPsScore,
    .marLnScore, .marAgreeUs, .marMemberPlid, .marMemberFeid, .marMemberN, .marQuorum, .marCaseMs,
    .marReportGapUs, .marVerdictUs, .marBudget, .marBudgetS, .marDerateC, .marSpareSubj, .marSpareSparePlid,
    .marSpareSpareFeid, .marSpareFeidLo, .marSpareFeidCnt, .marSpareNhs, .marSpareUsed, .marCaseSubj,
    .marCaseCount, .marCaseObs, .marCaseState, .marCaseLost, .marCaseCloseMs, .marSummaryMs, .marLedger,
    .marSelfState, .marSelfDrop, .marHealth, .marStatusUs, .marProbeMs, .marSlowUs, .marSlowCnt, .marFmFeid,
    .marFmIp6, .marEgrMbps, .marEgrDrop]

def Reg.ofGst : List Reg :=
  [.gstId, .gstState, .gstCmd, .gstWinKind, .gstWinBase, .gstWinSize, .gstWinRights, .gstWinTag, .gstPostq,
    .gstNotifyBase, .gstNotifyLines, .gstRateGbps, .gstPwrMaxW, .gstPwrW, .gstViol, .gstViolMax,
    .gstFenceCause]

/-- The fields of the block with code `b` (R580). -/
def Reg.ofBlock : Nat → List Reg
  | 0 => Reg.ofPrt
  | 1 => Reg.ofOpt
  | 2 => Reg.ofLck
  | 3 => Reg.ofFwd
  | 4 => Reg.ofBuf
  | 5 => Reg.ofPac
  | 6 => Reg.ofRly
  | 7 => Reg.ofCol
  | 8 => Reg.ofSpr
  | 9 => Reg.ofEmb
  | 10 => Reg.ofMem
  | 11 => Reg.ofDdl
  | 12 => Reg.ofMbx
  | 13 => Reg.ofFwm
  | 14 => Reg.ofGrd
  | 15 => Reg.ofSec
  | 16 => Reg.ofPwr
  | 17 => Reg.ofTim
  | 18 => Reg.ofTel
  | 19 => Reg.ofMar
  | 20 => Reg.ofGst
  | _ => []

/-- The entry of a short table of reset values, 0 past its end. -/
def pick (l : List Nat) (i : Nat) : Nat := (l[i]?).getD 0

/-- The reset value of an instance (the Reset column of the register tables). Fields the tables mark "Calibrated",
"From flash", "From straps" or "From manufacture record" have no stated number: 0 here, and 140 °C for TLOCK
(DESIGN CHOICE, log 3). -/
def Reg.resetAt (r : Reg) (i j k : Nat) : Nat :=
  match r with
  | .timIncr => 0xCCCCCCCCCD
  | .timLapExp => 14
  | .timVoteCloseNs => 4000
  | .timCgVoteGrp => 0xFFFF
  | .prtLaneFecReq => 1
  | .prtLaneLogicalW => if j ≤ 7 then j else 0xF
  | .prtLaneLolDbm => 0xC8
  | .lckRingTlock => 2240
  | .lckDitherPm => 2
  | .lckFfEn => 1
  | .lckHrMin => 0xFFF
  | .optSelSrc => i
  | .optSelHoldNs => 40000
  | .optTuneLaserCh => 0xF
  | .optFadeWarnDb => 10
  | .optFadePlanDb => 20
  | .optFadeCritDb => 30
  | .optFadeLossDb => 100
  | .optSpareOmaDbm => 18
  | .optCalPeriodS => 86400
  | .optFfRefitS => 600
  | .optCtrlAutoBench => 1
  | .optCtrlAutoCal => 1
  | .fwdCtrlDirectEn => 1
  | .fwdMtu => 9216
  | .fwdKfhEtype => 0x88B5
  | .fwdKfhUdp => 0x4B46
  | .fwdDscpRung => if i = 48 ∨ i = 56 then 3 else 0
  | .fwdPortLearnNhs => 0xFFF
  | .fwdHseed0 => 0x1F2E3D4C
  | .fwdHseed1 => 0x5B6A7988
  | .fwdHseed2 => 0x9C8D7E6F
  | .fwdHseed3 => 0xA5B4C3D2
  | .fwdEmKicks => 32
  | .fwdFlowletGapNs => 4000
  | .fwdCmScale => pick [8, 4, 2, 0] i
  | .fwdSweepUs => 1000
  | .fwdAgePass => if i = 2 ∨ i = 4 then 150000 else if i = 3 then 1 else 0
  | .fwdLearnMax => 4
  | .fwdCmpPeriodMs => 100
  | .bufCellsFree => 655360
  | .bufSharedFree => 483328
  | .bufRsvIng => pick [0, 40, 40, 8] i
  | .bufRsvEgr => pick [36, 36, 40, 8] i
  | .bufAlphaIng => pick [15, 1, 1, 14] i
  | .bufAlphaEgr => pick [15, 1, 1, 14] i
  | .bufIqAlpha => 8
  | .bufEqAlpha => 8
  | .bufHdrmPool => 65536
  | .bufHdrmLane => 512
  | .bufXonGap => 72
  | .bufPauseWdUs => 1000
  | .bufColourDscp => if i ∈ [12, 20, 28, 36] then 1 else if i ∈ [14, 22, 30, 38] then 2 else 0
  | .bufRedMin => pick [12, 8, 4] i
  | .bufRedMax => pick [16, 12, 8] i
  | .bufRedPmax => pick [5, 3, 1] i
  | .bufRedW => 6
  | .bufAgeLimitUs => if i = 0 then 10000 else 1000
  | .bufSpillEn => 1
  | .bufSpillWrGbps => 160
  | .bufSpillRdGbps => 160
  | .prtLaneRplEn => 1
  | .prtLaneRplToUs => 20
  | .prtLaneRplMax => 8
  | .pacQRate => if j = 3 then 20000 else 0xFFFFF
  | .pacQBurst => 16384
  | .pacLaneRate => 0xFFFFF
  | .pacLaneBurst => 16384
  | .pacLaneOverhead => 20
  | .pacPortRate => 0x1FFFFF
  | .pacPortBurst => 32768
  | .pacSampleNs => 256
  | .pacEwmaW => 3
  | .pacCmT => pick [0, 1000, 4000, 16000] i
  | .pacCmPausePct => 25
  | .pacCmExportLaps => 64
  | .pacMarkNs => 2000
  | .rlyKriVer => 1
  | .rlyDieClkMhz => 2000
  | .rlyHoldMaxUs => 500
  | .rlySteer => 64 * i + j % 64
  | .rlySubst => i
  | .rlyWqBundle => 0x1F
  | .colGrpCtrl => 0x02
  | .colGrpAxG => 0x010
  | .colGrpAxI => 0x010
  | .colGrpAxP => 0x010
  | .colGrpOrder => 0x24
  | .colGrpTimeoutUs => 50000
  | .colGrpTopk => 1
  | .colGrpRsDiv => 1
  | .colGrpMirrorExp => 8
  | .colXholdNs => 2000
  | .colDieRsvMaxKib => 40960
  | .colDieSharedFreeKib => 8192
  | .colSpillWrGbps => 40
  | .colSpillRdGbps => 40
  | .colHeatTemp => 85
  | .colHeatLoad => 2
  | .colHeatDurMs => 1000
  | .sprGrpNelemMax => 1
  | .sprGrpAxG => 0x010
  | .sprGrpAxI => 0x010
  | .sprGrpAxP => 0x010
  | .sprGrpOrder => 0x24
  | .sprGrpTimeoutUs => 20
  | .sprLinesFree => 8192
  | .sprKaTxNs => 1000
  | .sprKaLossNs => 3000
  | .sprLaneState => 1
  | .embTblDim => 128
  | .embTblHalfBit => 12
  | .embTblGfrac => 32
  | .embTblWq => 1
  | .embTblCg => 0x1F
  | .embGatherToUs => 1000
  | .embStageFreeKib => 2064384
  | .memRateMax => 2
  | .memRowCeMax => 4
  | .memScrubH => 24
  | .memPprEn => 1
  | .memBwMinGbps => pick [8, 40, 40, 160, 40, 1] j
  | .memBwWeight => pick [1, 4, 4, 8, 2, 1] j
  | .ddlSharePct => pick [0, 50, 25, 25] i
  | .ddlBudgetGbps => pick [0, 11264, 5632, 5632] j
  | .ddlBundleEn => 0xFF
  | .ddlKeymap => j % 8
  | .ddlBMap => k
  | .ddlLaneErrMax => 64
  | .ddlLaneWinMs => 100
  | .ddlRetirePpm => 100
  | .ddlRetireWin => 8
  | .ddlRplMax => 16
  | .ddlHoldUs => 500
  | .gstRateGbps => 800
  | .gstPwrMaxW => 100
  | .gstViolMax => 16
  | .mbxBrdLink => 0xFF
  | .mbxBrdRateMbps => 10000
  | .mbxOmpPort => 19283
  | .mbxOmpIdleS => 30
  | .mbxRcv => if i < 16 then 0 else if i < 20 then 1 else if i < 24 then 2 else if i < 26 then 3 else if i < 28 then 8 else if i < 30 then 4 else 9
  | .fwmCoreWdMs => 100
  | .fwmBootToMs => 500
  | .fwmRoleCore => i
  | .grdEnvFibDbm => 150
  | .grdEnvRingMw => 100
  | .grdEnvHeatW => 24
  | .grdEnvModW => 60
  | .grdEnvTripC => 110
  | .grdEnvMgmtMbps => 100
  | .pwrRegionTjLim => 1680
  | .pwrTjLim => 105
  | .pwrDieCeilMhz => 2000
  | .pwrCoolMaxC => 40
  | .pwrEmergClrMs => 1000
  | .pwrEmergP1Ms => 100
  | .marPts => pick [4, 8, 2, 64, 32, 32, 16, 1] i
  | .marBerSym => 4096
  | .marLagUs => 200
  | .marWinUs => 250
  | .marSuspect => 64
  | .marAgreeUs => 200
  | .marQuorum => 3
  | .marCaseMs => 1
  | .marReportGapUs => 1000
  | .marVerdictUs => 100
  | .marBudget => 4
  | .marBudgetS => 600
  | .marDerateC => 2
  | .marCaseCloseMs => 100
  | .marSummaryMs => 10
  | .marStatusUs => 1000
  | .marProbeMs => 1000
  | .marSlowUs => 20
  | .marSlowCnt => 64
  | .marEgrMbps => 2000
  | .telDumpTarget => 1
  | .telDumpExportDiv => 1
  | .telSmpSeed => 0x6A09E667
  | .telSmpLane => 0x7FF
  | .telSmpRungs => 0xF
  | .telSmpRateLog => 16
  | .telMonSampleUs => 100
  | .telMonWidth => 1
  | .telMonMin => 0x7FFFFFFF
  | .telMonMax => 0x80000000
  | .telMonAlarmHi => 0x7FFFFFFF
  | .telMonAlarmLo => 0x80000000
  | .telPermDefault => 0x0C0000
  | .telPermBlocks => 0x0C0000
  | .telPermGrpHi => 16383
  | .fwmStartStep => 1
  | _ => 0

end Sys2Proof.Machine
end

