-- ==== Sys2Proof/Machine/Store.lean ====
section
/-!
DEFINITION. Sparse tables: what a table of the device holds, by number, listed only where something was put.
-/
namespace Sys2Proof.Machine

/-- A sparse table keyed by numbers, kept in ascending order of the key. -/
abbrev Store (α : Type) := List (Nat × α)

/-- The entry at `k`, when there is one. -/
def Store.find {α : Type} : Store α → Nat → Option α
  | [], _ => none
  | (k', v) :: t, k => if k = k' then some v else Store.find t k

/-- The entry at `k`, or `d` when there is none. -/
def Store.at {α : Type} (s : Store α) (k : Nat) (d : α) : α := (Store.find s k).getD d

/-- The table with `v` at `k`. -/
def Store.put {α : Type} : Store α → Nat → α → Store α
  | [], k, v => [(k, v)]
  | (k', v') :: t, k, v =>
    if k = k' then (k, v) :: t
    else if k < k' then (k, v) :: (k', v') :: t
    else (k', v') :: Store.put t k v

/-- The table without an entry at `k`. -/
def Store.del {α : Type} (s : Store α) (k : Nat) : Store α := s.filter (fun e => e.1 != k)

/-- The table with `f` applied to the entry at `k`, `d` standing in for a missing one. -/
def Store.upd {α : Type} (s : Store α) (k : Nat) (d : α) (f : α → α) : Store α := s.put k (f (s.at k d))

/-- The values that registers hold, listed only where they differ from reset. -/
abbrev Regs := List (RegKey × Nat)

/-- The listed value of a register instance. -/
def Regs.find : Regs → RegKey → Option Nat
  | [], _ => none
  | (q', v) :: t, q => if q = q' then some v else Regs.find t q

/-- A number that orders register instances. -/
def RegKey.code (q : RegKey) : Nat := ((q.reg.ctorIdx * 65536 + q.i) * 65536 + q.j) * 65536 + q.k

/-- The list with `v` at `q`. -/
def Regs.put : Regs → RegKey → Nat → Regs
  | [], q, v => [(q, v)]
  | (q', v') :: t, q, v =>
    if q = q' then (q, v) :: t
    else if q.code < q'.code then (q, v) :: (q', v') :: t
    else (q', v') :: Regs.put t q v

/-- The list with no entry at `q`. -/
def Regs.erase (l : Regs) (q : RegKey) : Regs := l.filter (fun e => e.1 ≠ q)

end Sys2Proof.Machine
end

