-- ==== Sys2Proof/Machine/State.lean ====
section
/-!
DEFINITION. The state of the device as plain data: the registers, what each block holds beside its registers, the
addressed memory, what the device has sent, and the queue of commands that wait.
-/
namespace Sys2Proof.Machine

/-- A frame that a half's cell buffer holds, with the metadata of its first cell (R200) and its accounts (R207). -/
structure Held where
  bytes : List Byte
  /-- Receive stamp, or build time of a frame the module built, in 2^-16 ns (R50, R216). -/
  stamp : Nat
  rung : Nat
  colour : Nat
  /-- Ingress logical lane; 1024 for a frame the module built. -/
  lane : Nat
  /-- The allocator code of its cells (R202). -/
  alloc : Nat
  /-- The physical lane it was received on, for PF_LINKDLY and telemetry. -/
  phys : Nat
  /-- Charged to its ingress account: 0 no, 1 the account, 2 the headroom pool (R213). -/
  ing : Nat
  /-- Logical lanes whose egress account of its rung holds a copy (R207). -/
  egr : List Nat
  deriving DecidableEq, Repr

/-- A descriptor: half, cell pointer, the owner tag it expects (R202), and the time it was enqueued in ns. -/
structure Desc where
  half : Nat
  ptr : Nat
  tag : Nat
  enq : Nat
  deriving DecidableEq, Repr

/-- The metadata of one cell (R200). -/
structure CellMeta where
  next : Option Nat
  tag : Nat
  refs : Nat
  fence : Bool
  used : Bool
  deriving DecidableEq, Repr

/-- An error record (R580). -/
structure ErrRec where
  tFirst : Nat
  tLast : Nat
  count : Nat
  block : Nat
  cause : Nat
  sev : Nat
  contain : Nat
  inst : Nat
  seq : Nat
  payload : Nat
  /-- The half that detected it, which is no field of the record. -/
  half : Nat
  deriving DecidableEq, Repr

/-- A log record (R520). -/
structure LogRec where
  ns : Nat
  frac : Nat
  core : Nat
  kind : Nat
  sev : Nat
  code : Nat
  seq : Nat
  payload : Nat
  deriving DecidableEq, Repr

/-! ### Lanes, retry and light -/

/-- What a physical lane holds beside its registers. -/
structure LaneSt where
  /-- Failed training passes (R99). -/
  fails : Nat := 0
  /-- Waiting for the next pass, 1 s after the last (R99). -/
  retryWait : Bool := false
  /-- Held DARK until TRAIN (R683). -/
  holdDark : Bool := false
  /-- The partner's DRAIN was acted on since the lane came UP (R119, R120). -/
  drained : Bool := false
  /-- The lane was darkened or lost light, and retrains when light returns (R114, R683). -/
  relight : Bool := false
  /-- KL-FEC failed QUAL, so the lane trains in RS(544,514) mode (R101). -/
  rsOnly : Bool := false
  /-- Domain of the RIP whose exclusion is in force; 0 none (R117, R190). -/
  rip : Nat := 0
  /-- Fabric time of the last RIP copy, ns. -/
  ripNs : Option Nat := none
  /-- Held out of own spraying by the marshal (R597, R603). -/
  heldOut : Bool := false
  /-- MAC merge verified (R387). -/
  merge : Bool := false
  /-- Time of the last partner KEEPALIVE, ns, and its STATE (R386). -/
  kaNs : Option Nat := none
  kaState : Nat := 0
  /-- Keepalives sent (R392). -/
  kaSent : Nat := 0
  /-- The lane's own reset is in force (R588). -/
  inReset : Bool := false
  deriving DecidableEq, Repr

/-- Link retry of a physical lane (R229 to R233). -/
structure RetrySt where
  txSeq : Nat := 0
  /-- Unacknowledged tagged frames, oldest first: number, rung, and the descriptor; none where the sprint reducer's
  transmit store holds the frame (R382). -/
  unacked : List (Nat × Nat × Option Desc) := []
  /-- Numbers still to be replayed, in order. -/
  replay : List Nat := []
  replays : Nat := 0
  rxExp : Nat := 0
  rxSince : Nat := 0
  /-- Discarding until the expected number arrives. -/
  rxWait : Bool := false
  deriving DecidableEq, Repr

/-- A colour's spare in one direction of a fibre, by the parity of the colour (R107 to R112, R144 to R146). -/
inductive SparePhase where
  /-- SPARE_PREP sent or answered. -/
  | prep
  /-- Received SPARE_READY (transmit) or sent it (receive). -/
  | ready
  /-- SPARE_GO names this lap. -/
  | go (lap : Nat)
  /-- The alias slot carries the colour. -/
  | active
  /-- Return: SPARE_PREP for the data slot. -/
  | retPrep
  /-- Return: SPARE_READY exchanged. -/
  | retReady
  /-- SPARE_RETURN names this lap. -/
  | ret (lap : Nat)
  /-- Returned at this lap; the alias slot is still to be drained (R146). -/
  | closing (lap : Nat)
  deriving DecidableEq, Repr

/-- Why a spare was started (R144). -/
inductive SpareWhy where
  | fault | calibration
  deriving DecidableEq, Repr

structure Spare where
  w : Nat
  phase : SparePhase
  why : SpareWhy
  /-- The tunable laser of the group that feeds it (transmit only). -/
  laser : Nat
  deriving DecidableEq, Repr

/-- A spare request that OPT holds (R144). -/
structure SpareReq where
  f : Nat
  w : Nat
  why : SpareWhy
  deriving DecidableEq, Repr

/-- Calibration of a channel (R149): waiting for the spare, sweep armed or running, returning. -/
inductive CalPhase where
  | sparing | armed | sweeping | returning
  deriving DecidableEq, Repr

/-- What the light control holds beside its registers. -/
structure OptSt where
  /-- Spares in force or in exchange, by 2·fibre + parity: transmit and receive direction. -/
  spareTx : Store Spare := []
  spareRx : Store Spare := []
  pend : List SpareReq := []
  /-- Channel in calibration per fibre group: fibre, data slot, phase (R148, R149). -/
  cal : Store (Nat × Nat × CalPhase) := []
  /-- Bench switch in progress per group: old bay, and whether the selector has moved (R140). -/
  bench : Store (Nat × Bool) := []
  /-- Planned switch per group: lap at which OPT writes SEL (R137). -/
  plan : Store Nat := []
  /-- State of the tunable bays, coded as OPT.COMB (R136, R670). -/
  tune : Store Nat := []
  /-- Comb bays, then tunable bays (10 + g), that wait in COLD to warm (R671). -/
  warmWait : List Nat := []
  /-- Comb lines whose reference was captured, by 8·bay + line; laser references by 80 + 4·g + j. -/
  refs : List Nat := []
  /-- Fibres the guard holds dark (R157), and whether their bypassed light was dropped. -/
  dark : Store Bool := []
  /-- Aliased logical lanes that return to the data slot at the next lap (R112). -/
  back : List (Nat × Nat) := []
  /-- Last calibration per transmit slot, by 10·fibre + slot: fabric time, ns. -/
  calAt : Store Nat := []
  deriving DecidableEq, Repr

/-! ### Forwarding tables -/

/-- An exact-match entry (R175); a wide entry carries the whole 128-bit key. -/
structure EmEntry where
  typ : Nat
  prog : Bool
  hit : Bool
  aged : Bool
  staged : Bool
  doomed : Bool
  key : Nat
  nhs : Nat
  lane : Nat
  tlast : Nat
  deriving DecidableEq, Repr

/-- A bucket: four ways, a wide entry standing in ways 2m and 2m + 1, and the rotating pointer (R177). -/
structure Bucket where
  ways : List (Option EmEntry) := [none, none, none, none]
  ptr : Nat := 0
  deriving DecidableEq, Repr

/-- One forwarding pipeline's own tables (R175 to R188). -/
structure Pipe where
  em : Store Bucket := []
  stash : List EmEntry := []
  /-- Learn events in the current microsecond, and that microsecond (R181). -/
  learn : Nat := 0
  learnUs : Nat := 0
  /-- Round-robin pointers by rung (R163). -/
  rr : Store Nat := []
  deriving DecidableEq, Repr

/-- A longest-prefix entry (R172, R174). -/
structure LpmEntry where
  typ : Nat
  len : Nat
  key : Nat
  nhs : Nat
  staged : Bool
  doomed : Bool
  deriving DecidableEq, Repr

/-- What the forwarding block holds beside its registers. -/
structure FwdSt where
  pipes : Store Pipe := []
  lpm : List LpmEntry := []
  /-- Number of the last sweep pass started (R184). -/
  pass : Option Nat := none
  /-- Descriptors of admission queues, by 4·lane + rung, oldest first (R163). -/
  adm : Store (List Desc) := []
  /-- Frames whose egress account refused them, by 4·lane + rung: the target logical lane (R211). -/
  wait : Store Nat := []
  deriving DecidableEq, Repr

/-! ### Cell buffers, queues, pacers -/

/-- One half's cell buffer (R200 to R206). -/
structure HalfBuf where
  cells : Store CellMeta := []
  /-- The lowest cell never yet allocated, and the cells returned since, oldest first (DESIGN CHOICE, log 8). -/
  fresh : Nat := 0
  returned : List Nat := []
  /-- Frames held, by their first cell. -/
  frames : Store Held := []
  deriving DecidableEq, Repr

/-- A frame in the rung 0 spill region (R217 to R219). -/
structure Spilled where
  frame : Held
  /-- The half whose share of the region holds it, and the time it was enqueued, ns. -/
  share : Nat
  enq : Nat
  deriving DecidableEq, Repr

/-- What the buffer pool managers hold beside their registers. -/
structure BufSt where
  half : Store HalfBuf := []
  /-- Egress queues by 4·lane + rung, head first. -/
  eq : Store (List Desc) := []
  /-- XOFF in force that the KS9 sent, by 4·lane + rung, and headroom cells charged. -/
  xoff : List Nat := []
  hdrm : Store Nat := []
  /-- Partner's pauses in force, by 4·lane + rung: fabric time at which each began, 2^-16 ns; and those the watchdog ignores. -/
  paused : Store Nat := []
  ignored : List Nat := []
  /-- Times of the watchdog's firings per 400 G port, ns (R583). -/
  wdAt : Store Nat := []
  /-- Average depth of rung 0 accounts per lane, exactly: `n` and `e` stand for `n` over 2^`e` cells (R215). -/
  red : Store (Nat × Nat) := []
  spill : Store (List Spilled) := []
  /-- The 1 µs interval last used and the spill bytes moved in it, by 2·half + (0 write, 1 read) (R219, R448). -/
  spillUse : Store (Nat × Nat) := []
  /-- Copies of frames the module built that wait for their egress account, and their lanes (R211). -/
  copies : List (Desc × Nat) := []
  /-- Cells under a pattern test, per half (R204). -/
  test : Store Nat := []
  deriving DecidableEq, Repr

/-- A pacer's credit, in units of 2^-17 ns · Mb/s, 16000 · 65536 to the byte, and its last update, 2^-16 ns (R237). -/
structure Pacer where
  credit : Int := 0
  upd : Nat := 0
  deriving DecidableEq, Repr

/-- A frame on its way out of a logical lane. -/
structure Sending where
  desc : Desc
  rung : Nat
  /-- Units of charge not yet taken from the lane and port pacers. -/
  left : Nat
  /-- The queue pacer is charged too (R240). -/
  queued : Bool
  /-- The frame carries a link tag and waits for its ACK. -/
  tagged : Bool
  deriving DecidableEq, Repr

/-- What the pacing block holds beside its registers. -/
structure PacSt where
  /-- Pacers: queues by 4·lane + rung, lanes at 4096 + lane, port halves at 8192 + 2·port + half. -/
  pacers : Store Pacer := []
  sending : Store Sending := []
  /-- Peak SOJ_S of the lap per lane, and the lanes whose value is forced to 3 (R246, R247). -/
  peak : Store Nat := []
  forced : List Nat := []
  /-- Time rung 0 was paused within the lap by pauses that have ended, 2^-16 ns, per lane (R247). -/
  pausedNs : Store Nat := []
  /-- Pacers whose RATE or BURST was written while a lane sends: the values in force until the frame boundary (R241). -/
  inForce : Store (Nat × Nat) := []
  /-- Smoothed depth and head sojourn, exactly, by 2·(4·lane + rung) and one more: `n` over 2^`e` (R245). -/
  smooth : Store (Nat × Nat) := []
  /-- Start of the lap for that account, 2^-16 ns. -/
  lapStart : Nat := 0
  deriving DecidableEq, Repr

/-! ### Fabric time and commit groups -/

/-- One staged unit of a commit group: a register write, or 8 bytes of table data (R64). -/
inductive StageUnit where
  | reg (addr data : Nat)
  | tbl (addr data : Nat)
  deriving DecidableEq, Repr

/-- What a commit group holds beside its registers (R63 to R76). -/
structure CgSt where
  /-- COMMIT_LAP and VOTE_GRP as latched at OPEN (R68). -/
  lap : Nat := 0
  grp : Nat := 0xFFFF
  staged : List StageUnit := []
  /-- The vote this module has cast (R69, R71). -/
  cast : Option Bool := none
  /-- The outcome held (R75). -/
  outcome : Option Bool := none
  /-- RESOLVE-COMMIT waits for the next lap boundary (R76). -/
  resolve : Bool := false
  /-- The seal check placed the group's table records (R187). -/
  placed : Bool := false
  /-- The lease ended before the group was VOTED: it aborts at its VOTE_CLOSE (R80). -/
  doomed : Bool := false
  deriving DecidableEq, Repr

/-- What a lap boundary replaced: traffic whose receive stamp lies before it sees these values (R77). -/
structure Undo where
  /-- The boundary, 2^-16 ns. -/
  at_ : Nat
  regs : List (RegKey × Nat)
  pipes : Store Pipe
  lpm : List LpmEntry
  deriving DecidableEq, Repr

structure TimSt where
  /-- Values replaced at lap boundaries, the latest first (R77). -/
  undo : List Undo := []
  /-- Next slots of CAL_LOG and VOTE_LOG (R62, R76). -/
  calPos : Nat := 0
  votePos : Nat := 0
  cg : Store CgSt := []
  /-- An accepted STEP or SET_NS that takes effect at the next tick (R45, R47). -/
  step : Option Int := none
  load : Option Nat := none
  /-- Class E shadows: instance, value, the lap at which it takes effect (R657). -/
  shadow : List (RegKey × Nat × Nat) := []
  /-- Latched multi-word registers per SRCID (R651), and held word writes (word, value). -/
  latch : List ((Nat × RegKey) × Nat) := []
  held : List ((Nat × RegKey × Nat) × Nat) := []
  /-- NOW_FRAC, and the PULSE fraction, latched per SRCID (R81). -/
  frac : Store Nat := []
  /-- The lap whose boundary was last worked through (R61). -/
  lapDone : Nat := 0
  /-- Fabric time of the previous TPULSE rising edge, 2^-16 ns (R675). -/
  pulseAt : Option Nat := none
  deriving DecidableEq, Repr

/-! ### Faults and the marshal protocol -/

/-- A case the keeper keeps (R600 to R604), beside its registers. -/
structure CaseSt where
  subj : Nat
  /-- Distinct observers, up to 8, with the time of each one's last report, ns. -/
  obs : List (Nat × Nat)
  firstObs : Nat
  lastObs : Nat
  summarised : Bool
  deriving DecidableEq, Repr

/-- A lane or fibre under suspicion (R595 to R597): fibre, data colour (8 for the fibre), APPLY_T, agreed. -/
structure LinkCase where
  f : Nat
  w : Nat
  applyT : Nat
  agreed : Bool
  /-- This end suspected first. -/
  ours : Bool
  deriving DecidableEq, Repr

/-- A verdict held for decision (R602). -/
structure Verdict where
  code : Nat
  subj : Nat
  spare : Nat
  applyT : Nat
  deriving DecidableEq, Repr

/-- A reset in force: domain, instance, cause (R587, R588), groups discarded, sequences aborted. -/
structure ResetSt where
  domain : Nat
  inst : Nat
  cause : Nat
  groups : Nat
  seqs : Nat
  /-- Lanes and rungs on which the KS9 held XOFF when it began (R684). -/
  xoff : List Nat
  deriving DecidableEq, Repr

structure MarSt where
  /-- Unretired error records by queue index (R580), and CTL's nested handlers, innermost first (R584). -/
  errq : Store ErrRec := []
  handling : List Nat := []
  /-- Storm entries, oldest first, and whether storm mode is on (R586). -/
  storm : List ErrRec := []
  stormOn : Bool := false
  seq : Store Nat := []
  /-- Points of the open window and of the last closed one, by lane, port (R594), and points by PLID (R597). -/
  lanePts : Store Nat := []
  lanePrev : Store Nat := []
  portPts : Store Nat := []
  portPrev : Store Nat := []
  devPts : Store Nat := []
  devPrev : Store Nat := []
  links : List LinkCase := []
  cases : Store CaseSt := []
  verdicts : List Verdict := []
  /-- Modules that wait for ADMIT (R610). -/
  joins : List Nat := []
  /-- Time of the last report about a subject, ns (R599). -/
  reported : Store Nat := []
  /-- Last STATUS of each sender: time and health word (R599, R606, R611). -/
  status : Store (Nat × Nat) := []
  expelled : List Nat := []
  derated : List Nat := []
  /-- Times of slow sequences of the last 10 ms (R613), and whether SLOW is set. -/
  slowAt : List Nat := []
  slow : Bool := false
  joinSent : Bool := false
  ledgerPos : Nat := 0
  resets : List ResetSt := []
  /-- Management egress of the last 10 µs: bytes, window start ns (R615). -/
  egrBytes : Nat := 0
  egrAt : Nat := 0
  /-- Writes accepted during a reset of their block, which are applied when it ends (R662): requester, address, value. -/
  late : List (Nat × Nat × Nat) := []
  deriving DecidableEq, Repr

/-! ### Mailboxes and sessions -/

/-- What a session slot holds beside its registers (R492 to R495). -/
structure Session where
  /-- Keys of the two directions (R493). -/
  keyIn : Nat
  keyOut : Nat
  /-- H of the handshake, and the client's public key, against which PROVE is checked (R492). -/
  h : Nat
  pk : List Byte
  /-- The operator key that certified the client (R552). -/
  opPk : List Byte
  /-- Highest accepted SEQ, the accepted ones above it minus 64, the RESPONSE messages kept by SEQ, and how many requests
  were accepted (R494, R495). -/
  high : Nat
  accepted : List Nat
  kept : List (Nat × List Byte)
  requests : Nat
  deriving DecidableEq, Repr

structure MbxSt where
  sess : Store Session := []
  /-- Last session number given (R495). -/
  lastNum : Nat := 0
  /-- Times of the handshakes started in the last second, ns (R492). -/
  shakes : List Nat := []
  /-- Management cores whose domain is up (R500), and cores with a LAP_MARK doorbell (R60). -/
  domains : List Nat := []
  marks : List Nat := []
  /-- Channels whose lock north CTL owns, whose SRCID is 0 (R499, R503). -/
  lock0 : List Nat := []
  /-- Fabric time of the last renewal of the lease, ns (R506). -/
  leaseNs : Nat := 0
  /-- Relayed bytes per target fibre in the current window, and its start (R487). -/
  relayBytes : Store Nat := []
  relayAt : Nat := 0
  deriving DecidableEq, Repr

/-! ### Relay cores -/

/-- What an outstanding access of a relay thread does when it is performed (R258, R269, R284). -/
inductive AccOp where
  /-- Scalar load of some bytes. -/
  | load (bytes : Nat)
  /-- 64 bytes into a vector register. -/
  | vload
  /-- Elements of a format into the lanes that the mask governs. -/
  | gather (fmt : Nat)
  /-- 64 bytes of a held frame, from an offset (R263). -/
  | frame (desc : Desc) (off : Nat)
  /-- A scalar atomic: operation, operand bytes, operand, compare value (R284). -/
  | amo (op bytes v cmp : Nat)
  /-- A vector atomic: operation, element bytes, operand elements (R284). -/
  | vamo (op bytes : Nat) (vs : List Nat)
  deriving DecidableEq, Repr

/-- An outstanding access: destination register, byte addresses of its elements, governing mask, owner tag. -/
structure Access where
  op : AccOp
  d : Nat
  addrs : List Nat
  mask : Nat
  tag : Nat
  rel : Bool
  acq : Bool
  deriving DecidableEq, Repr

/-- A held frame: descriptor, and when WAITQ filled the slot, ns (R263, R264). -/
structure HeldSlot where
  desc : Desc
  ns : Nat
  deriving DecidableEq, Repr

/-- Why a thread is IDLE or in WAIT (R255). -/
inductive Waits where
  | none
  | queue (q d : Nat)
  | line (addr : Nat)
  /-- Some outstanding access (R258), or every one (R275). -/
  | access
  | fence
  | yield
  | send (lane : Option Nat) (set : Option Nat) (rung : Nat) (bytes : List Byte)
  deriving DecidableEq, Repr

/-- A relay thread beside its registers of the map (R254, R286). -/
structure Thread where
  x : Store Nat := []
  v : Store Nat := []
  p : Store Nat := []
  slots : Store HeldSlot := []
  workRung : Nat := 0
  status : Nat := 0
  seed : Store Nat := []
  out : List Access := []
  waits : Waits := .none
  /-- Bundle slot and thread group it belongs to. -/
  bundle : Option Nat := none
  group : Nat := 0
  /-- Baton store lines the thread has loaded, and whether each was written since (R285). -/
  lines : Store Bool := []
  deriving DecidableEq, Repr

/-- A work descriptor (R262) with its frame. -/
structure Work where
  /-- The 512-bit image, SLOT not yet filled in. -/
  img : Nat
  /-- The frame that WAITQ places in a slot, when there is one. -/
  desc : Option Desc
  deriving DecidableEq, Repr

/-- A memory window of a loaded bundle (R273): kind, rights, base, size, tag. -/
structure Window where
  kind : Nat
  rights : Nat
  base : Nat
  size : Nat
  tag : Nat
  deriving DecidableEq, Repr

/-- A thread group of a bundle (R287): entry offset, threads per core, priority, queue mask. -/
structure TGroup where
  entry : Nat
  threads : Nat
  prio : Nat
  queues : Nat
  deriving DecidableEq, Repr

/-- What SEC accepted of a bundle, and where CTL placed it (R287 to R289). -/
structure Bundle where
  id : Nat
  ver : Nat
  digest : Nat
  cores : Nat
  threads : Nat
  scratchThr : Nat
  consts : List Byte
  code : List Byte
  baton : Nat
  groups : List TGroup
  windows : List Window
  /-- Flag bit 0: stochastic rounding. -/
  sr : Bool
  /-- Cores it is placed on, with the instruction-store word and scratch offset there. -/
  placed : List (Nat × Nat × Nat) := []
  /-- Baton areas: die, base offset in the die's store. -/
  batonAt : Store Nat := []
  /-- RUN = 0 took effect and threads have still to become FREE (R290). -/
  stopping : Bool := false
  deriving DecidableEq, Repr

structure RlySt where
  th : Store Thread := []
  /-- Work queues by 8·core + queue, head first (R260, R262). -/
  wq : Store (List Work) := []
  /-- Descriptors the dispatcher holds, by the same key (R261). -/
  heldWork : Store (List Work) := []
  /-- Rung 1 frames that the pipelines handed to the dispatcher of each half (R260). -/
  inbox : Store (List Desc) := []
  /-- Relay doorbell queues by core: value, storing thread, bundle slot (R268). -/
  bells : Store (List (Nat × Nat × Nat)) := []
  /-- Bundles accepted or placed, by slot. -/
  bundles : Store Bundle := []
  /-- Halves whose cores are parked (R296, R518, R533). -/
  parked : List Nat := []
  deriving DecidableEq, Repr

/-! ### Collectives and the sprint path -/

/-- A baton (R347, R354): its node, its elements' bits in the accumulation format, ADDSUM, the core that wrote it, the
half that holds it, and where: 0 quota, 1 shared pool, 2 spill. -/
structure Baton where
  b : Nat
  l : Nat
  elems : List Nat
  addsum : Nat
  core : Nat
  half : Nat
  place : Nat
  /-- The die whose quota or pool holds it, or the half whose share of the region does; and its bytes. -/
  where_ : Nat
  bytes : Nat
  deriving DecidableEq, Repr

/-- One chunk of a sequence. -/
structure ChunkSt where
  nelem : Nat
  batons : List Baton := []
  /-- Sum of the ADDSUMs accepted (R360), ranks that the accepted contributions cover, and the stamp of the last (R594). -/
  sum : Nat := 0
  ranks : Nat := 0
  last : Nat := 0
  done : Bool := false
  deriving DecidableEq, Repr

/-- A sequence slot beside its registers (R353). -/
structure SlotSt where
  seq : Nat := 0
  nchunk : Nat := 0
  chunks : Store ChunkSt := []
  /-- Stamp of the first result copy (R613). -/
  first : Option Nat := none
  deriving DecidableEq, Repr

/-- A computed step of a mirrored chunk that waits for its comparison (R361). -/
structure Mirror where
  n : Nat
  j : Nat
  chunk : Nat
  /-- Node, and the step: 0 combine, 1 scale, 2 final conversion, 3 additive check (R363). -/
  b : Nat
  l : Nat
  step : Nat
  core : Nat
  left : List Nat
  right : List Nat
  result : List Nat
  /-- The mirror core's result when it differed. -/
  second : Option (List Nat) := none
  deriving DecidableEq, Repr

/-- A result frame that waits for cells: half, rung, group and ports of its copies, allocator code, bytes. -/
structure ColSend where
  half : Nat
  rung : Nat
  grp : Option Nat
  ports : List Nat
  alloc : Nat
  bytes : List Byte
  deriving DecidableEq, Repr

structure ColSt where
  /-- Slots by 8·group + j. -/
  slots : Store SlotSt := []
  mirrors : List Mirror := []
  /-- Baton bytes in use: quota by (group·4 + die), shared pool by die, spill by (group·2 + half) and by half share. -/
  quota : Store Nat := []
  shared : Store Nat := []
  grpSpill : Store Nat := []
  halfSpill : Store Nat := []
  /-- The 1 µs interval last used and the spill bytes moved in it, by 2·half + (0 write, 1 read) (R355). -/
  use : Store (Nat × Nat) := []
  sends : List ColSend := []
  /-- Aborts whose notices wait for a reset exit: group, sequence, cause + 256 · NCHUNK. -/
  notices : List (Nat × Nat × Nat) := []
  /-- The last mismatch record's operands of each core (R366). -/
  lastMis : Store Mirror := []
  deriving DecidableEq, Repr

/-- A sprint sequence slot beside its registers (R378 to R383). -/
structure SprSlot where
  seq : Nat := 0
  nelem : Nat := 0
  batons : List Baton := []
  deriving DecidableEq, Repr

/-- A sprint result held until its tagged copies are acknowledged (R382): frame bytes, lanes still to acknowledge. -/
structure SprHeld where
  bytes : List Byte
  rung : Nat
  /-- Physical lanes and link sequence numbers not yet acknowledged, and logical lanes on which it waits for XON (R240). -/
  unacked : List (Nat × Nat)
  waiting : List Nat
  deriving DecidableEq, Repr

structure SprSt where
  /-- Slots by 4·group + j. -/
  slots : Store SprSlot := []
  /-- Input queues per half: physical lane, receive stamp, frame (R380). -/
  inq : Store (List (Nat × Nat × List Byte)) := []
  /-- Contributions on the bridge toward a half (R376): slot, sequence, node. -/
  bridge : Store (List (Nat × Nat × Nat × Nat)) := []
  store : List SprHeld := []
  notices : List (Nat × Nat × Nat) := []
  deriving DecidableEq, Repr

/-! ### Embedding service and memory -/

/-- A staged entry of a bank (R415 to R417). -/
structure Staged where
  table : Nat
  bank : Nat
  row : Nat
  half : Nat
  /-- 64-bit accumulators of a gradient entry. -/
  acc : List Nat
  /-- The assigned payload of an assign entry. -/
  assign : Option (List Byte)
  /-- New slot and new external state, once the optimizer pass has replaced the entry. -/
  done : Option (List Byte × List Byte)
  deriving DecidableEq, Repr

/-- A gather that waits for the other half's partial (R410): receiving half, request, receive stamp, STEP of its view,
and the two partials, none where a half owns no row of it. -/
structure Gather where
  half : Nat
  seq : Nat
  rfeid : Nat
  table : Nat
  mode : Nat
  fmt : Nat
  mxs : Bool
  stamp : Nat
  nids : Nat
  step : Nat
  own : Option (List Nat)
  other : Option (List Nat)
  deriving DecidableEq, Repr

/-- A completion that waits until every row is staged (R414). -/
structure EmbDone where
  half : Nat
  rfeid : Nat
  seq : Nat
  cause : Nat
  table : Nat
  rows : Nat
  step : Nat
  deriving DecidableEq, Repr

structure EmbSt where
  staged : List Staged := []
  /-- (table, RFEID, SEQ) applied in the open step (R413). -/
  applied : List (Nat × Nat × Nat) := []
  /-- Hyperparameters latched at CLOSE, by 8·table + j (R417), and the fabric time of the CLOSE, 2^-16 ns (R402). -/
  hp : Store Nat := []
  closeAt : Store Nat := []
  gathers : List Gather := []
  /-- Completions by 8·core + queue of the work that they answer. -/
  comps : Store (List EmbDone) := []
  /-- Built frames that wait for cells: half, rung, bytes. -/
  sends : List (Nat × Nat × List Byte) := []
  /-- Shard entries that are STALE on a half (R427). -/
  stale : List (Nat × Nat) := []
  /-- Last folded step per table (R405). -/
  folded : Store Nat := []
  deriving DecidableEq, Repr

/-- A row of the row shadow or repair list (R445): half, sub-channel, row. -/
structure RowRef where
  half : Nat
  sub : Nat
  row : Nat
  deriving DecidableEq, Repr

structure MemcSt where
  /-- Owner tags of bursts, by relay offset div 32, where they differ from the region's tag (R432, R437). -/
  tags : Store Nat := []
  /-- Bursts that stay uncorrectable (R443). -/
  bad : List Nat := []
  /-- Corrected errors per row in this scrub pass (R442). -/
  rowCe : List (RowRef × Nat) := []
  shadow : List RowRef := []
  repair : List RowRef := []
  /-- Next half offset of the patrol scrub per half (R444), next slot of UE_ADDR per half, failed attempts per package. -/
  scrub : Store Nat := []
  uePos : Store Nat := []
  attempts : Store Nat := []
  /-- Grants of the present interval, by 8·half + class, bytes (R448). -/
  grants : Store Nat := []
  /-- Granted bytes of each interval of the last 1 ms, newest first, by 8·half + class. -/
  meter : Store (List Nat) := []
  deriving DecidableEq, Repr

/-! ### Die links and guest sites -/

/-- One bundle as half `h` sees it (R453 to R464). -/
structure BundSt where
  /-- The number of the flit expected, and whether flits are discarded until it arrives (R455). -/
  rxExp : Nat := 0
  rxWait : Bool := false
  /-- The copy of the expected flit that failed its CRC (R456). -/
  failed : Option Nat := none
  /-- The last ACK seen, and the replays since without a new one (R455, R464). -/
  ack : Nat := 1023
  stuck : Nat := 0
  /-- Messages received whole, modulo 2^16 (R464). -/
  rxMsg : Nat := 0
  /-- Flits and CRC failures of the present 1 ms window, and consecutive windows above RETIRE_PPM (R463). -/
  winFlits : Nat := 0
  winFails : Nat := 0
  badWin : Nat := 0
  /-- Lost at once, or being retired: out of the next advertised mask. -/
  leaving : Bool := false
  deriving DecidableEq, Repr

/-- A cross-half message that waits while an agreement runs (R470): its sending half, the time at which it began to wait
in ns, the lane it goes to, and its frame. -/
structure HeldMsg where
  half : Nat
  ns : Nat
  lane : Nat
  desc : Desc
  deriving DecidableEq, Repr

/-- A bridge message that is not acknowledged (R472): wire group, failed attempts, body. -/
structure BridgeMsg where
  cls : Nat
  fails : Nat
  body : List Byte
  deriving DecidableEq, Repr

/-- A remap agreed (R461): detecting half, bundle, data position, spare position, fabric time in ns. -/
structure Remap where
  half : Nat
  b : Nat
  n : Nat
  spare : Nat
  ns : Nat
  deriving DecidableEq, Repr

structure DdlSt where
  /-- Bundles by 8·half + bundle. -/
  bund : Store BundSt := []
  remaps : List Remap := []
  /-- Masks that each half advertised, and those it received from the other (R467). -/
  adv : Store Nat := []
  got : Store Nat := []
  /-- Fabric time at which ACTIVATE takes effect, ns, and the mask; none for the safe width (R467, R468). -/
  plan : Option (Nat × Option Nat) := none
  /-- The agreement follows a reset's exit (R459, R467). -/
  fromReset : Bool := false
  held : List HeldMsg := []
  /-- Bridge messages not yet acknowledged, by sending half, oldest first; failures of the sprint group's oldest. -/
  bridge : Store (List BridgeMsg) := []
  sprFails : Store Nat := []
  /-- Times (ns) and sizes of the rises of ERR within the window (R461), by 51·(8·half + bundle) + position. -/
  win : Store (List (Nat × Nat)) := []
  /-- Striped ports taken down (R460), by their lowest 400 G port. -/
  stripes : List Nat := []
  deriving DecidableEq, Repr

/-- What a guest site holds beside its registers (R473 to R481). -/
structure GstSt where
  /-- Throttle wire asserted, and guest rail removed by the guard (R479). -/
  throttle : Bool := false
  railOff : Bool := false
  /-- Times of the violations of the last 1 ms, ns (R480). -/
  viol : List Nat := []
  /-- Bytes moved in the present 1 µs bucket, and its start (R478). -/
  moved : Nat := 0
  movedAt : Nat := 0
  deriving DecidableEq, Repr

/-! ### Firmware, records and flash -/

/-- An activation under way: image slot, cores still to write READY (the first restarts now), reverting (R527, R529). -/
structure Activation where
  slot : Nat
  cores : List Nat
  revert : Bool
  deriving DecidableEq, Repr

structure FwmSt where
  /-- Times of unrequested restarts per core, ns (R516), and watchdog restarts since TRIAL (R529). -/
  restarts : Store (List Nat) := []
  trialWd : Store Nat := []
  trialAt : Store Nat := []
  /-- Slot whose image each core runs, by core; its die's SEC started it (R513, R527). -/
  runs : Store Nat := []
  /-- Fabric time of the last checkpoint per role, ns (R512). -/
  checkpoint : Store Nat := []
  acts : List Activation := []
  /-- DEFERRED slots: start of the firing lap in ns; those released at the next boundary (R528). -/
  deferred : Store Nat := []
  released : List Nat := []
  /-- The log writer's queue per half, a write that waits, and the last 128 records, newest first (R521, R562). -/
  logq : Store (List LogRec) := []
  logWait : Store LogRec := []
  tail : Store (List LogRec) := []
  logSeq : Store Nat := []
  /-- Relay cores parked because PWR of their half has FAILED (R518). -/
  pwrPark : List Nat := []
  deriving DecidableEq, Repr

/-- A flash operation accepted but not complete (R553, R554): core, address, and the bytes of a program. -/
structure FlashOp where
  core : Nat
  addr : Nat
  data : Option (List Byte)
  /-- The input voltage that PWR samples at its start, mV. -/
  vMv : Nat
  deriving DecidableEq, Repr

/-- An operator key in force (R551): public key, purpose bits. -/
structure OpKey where
  pk : List Byte
  purpose : Nat
  deriving DecidableEq, Repr

/-- An entry of a measurement log (R544). -/
structure MeasEntry where
  reg : Nat
  digest : Nat
  kind : Nat
  ns : Nat
  deriving DecidableEq, Repr

structure SecSt where
  /-- What the manufacture record in force says (R548; its version is kept and not read, DESIGN CHOICE, log 127): PLID, its
  version, the digests of the identity public keys by
  die; and the payload of a replacement, applied at the next cold reset. -/
  plid : Nat := 0
  mfrVer : Nat := 0
  mfrDigest : Store Nat := []
  mfrNext : Option (List Byte) := none
  /-- HALF_SEL as each die sampled it (R23). -/
  straps : Store Nat := []
  /-- Dies that hold an identity key (R538, R539). -/
  ident : List Nat := []
  /-- Public keys of the key manifest in force, by purpose: 0 firmware, 1 bundle, 2 envelope, 3 device certification; and
  the manifest's version (R536). -/
  keys : Store (List Byte) := []
  manifestVer : Nat := 0
  log : Store (List MeasEntry) := []
  /-- MEAS[0..3] last received from the other die, by 4·half + j (the half that keeps them), and the time of receipt. -/
  peer : Store Nat := []
  peerAt : Store Nat := []
  opKeys : List OpKey := []
  /-- Generations of the authenticated records by type (R546, R547). -/
  gen : Store Nat := []
  /-- Highest operator key statement applied, and the operator root digest (R551). -/
  stmt : Nat := 0
  root : Nat := 0
  /-- Bundle floors: bundle ID and floor (R549). -/
  bfloor : List (Nat × Nat) := []
  /-- Payload of the board record in force, and of one written, applied at the next cold reset (R548). -/
  board : List Byte := []
  boardNext : Option (List Byte) := none
  /-- Flash contents that differ from erased bytes (R523), and operations accepted, the one in progress first. -/
  flash : Store Byte := []
  ops : List FlashOp := []
  /-- Manifest versions that the images staged need, by slot. -/
  manifest : Store Nat := []
  deriving DecidableEq, Repr

/-! ### Power, telemetry, start-up -/

/-- A force of the power state (R567): its cause, and the state's code (R565). -/
structure Force where
  cause : Nat
  code : Nat
  deriving DecidableEq, Repr

structure PwrSt where
  /-- Rails enabled, and rails good for 1 ms, as 16·half + k (R559). -/
  on : List Nat := []
  good : List Nat := []
  /-- Shed after input loss (R561 to R563), VAON off, flush stopped or done. -/
  shed : Bool := false
  vaonOff : Bool := false
  flushed : Bool := false
  /-- An armed request: lap and code (R566). -/
  armed : Option (Nat × Nat) := none
  /-- The requested state in force. -/
  requested : Nat := 0
  forces : List Force := []
  /-- Halves that tripped, and halves whose groups B to F are off by a trip, a rail fault or shedding. -/
  tripped : List Nat := []
  off : List Nat := []
  /-- Ramp limit in force per die, MHz (R572), guard limit, and droop flags (R573). -/
  ramp : Store Nat := []
  ffLim : Store Nat := []
  guardLim : Bool := false
  droop : List Nat := []
  /-- Halved clocks (R573). -/
  halved : List Nat := []
  /-- The last region sensor samples, newest first, at most 20, by 64·half + region (R569). -/
  samples : Store (List Nat) := []
  deriving DecidableEq, Repr

/-- A profile latched in a bank (R622): profile, calendar entry, entries per half (address, value). -/
structure Latched where
  j : Nat
  cal : Bool
  lap : Nat
  ns : Nat
  entries : List (Nat × Nat)
  /-- A counter of the half wrapped since the last dump. -/
  wrap : Bool
  deriving DecidableEq, Repr

structure TelSt where
  /-- Latch banks by 2·half + bank: profiles latched and not yet read out. -/
  banks : Store (List Latched) := []
  /-- Blocks to clear at the next lap, as 32·half + b (R619). -/
  clr : List Nat := []
  /-- Counters that wrapped since the last dump. -/
  wrapped : List (Nat × Nat × Nat) := []
  /-- Dump records written per profile, by 16·half + j (R623). -/
  dumps : Store Nat := []
  /-- The lap, by profile, in which it last fired (R621). -/
  fired : Store Nat := []
  /-- Values at the last tick of the registers that edge counters watch (R618; DEDUCED, log 45). -/
  last : Regs := []
  /-- Previous readings of delta monitors and times of the last alarm record, by 32·half + m (R630, R633). -/
  prev : Store Nat := []
  alarmAt : Store Nat := []
  /-- Sample records that wait in a stopped buffer's count (R628): records not yet read, per half. -/
  unread : Store Nat := []
  /-- Tags of the physical sequence of sample records, per half. -/
  smpSeq : Store Nat := []
  deriving DecidableEq, Repr

structure StartSt where
  /-- Steps complete (R638), and steps entered. -/
  done : List Nat := []
  entered : List Nat := []
  /-- Fabric time of the sequence entry, ns (R642). -/
  at_ : Nat := 0
  /-- Interrupt causes of the board target, offset 0x12 (R677). -/
  causes : Nat := 0
  /-- Halves whose LPDDR6 resumes without retraining at step 5 (R451, R644). -/
  resume : List Nat := []
  /-- Power has been applied (step 1). -/
  powered : Bool := false
  /-- Halves whose management and relay cores are released (step 4). -/
  live : List Nat := []
  deriving DecidableEq, Repr

/-! ### What the device sends -/

/-- Something the device sends or drives, as the environment sees it (DESIGN CHOICE, log 7). -/
inductive Emit where
  /-- Answer to a register access: requester, status of R496, value read. -/
  | answer (src status data : Nat)
  /-- A frame leaves on a logical lane (R239); the link tag of R229 when it carries one. -/
  | frame (lane rung : Nat) (bytes : List Byte) (tag : Option Nat)
  /-- Ordered set on a physical lane: index and arguments (R110, R117, R119). -/
  | os (f s index : Nat) (args : List Nat)
  /-- PFC frame on a logical lane: rung, XOFF (R214). -/
  | pfc (lane rung : Nat) (xoff : Bool)
  | ack (f s seq : Nat)
  | nak (f s seq : Nat)
  /-- Capability message of CAP (R100). -/
  | cap (f s : Nat) (msg : Nat)
  /-- Training sets on a lane, or light of a lane on or off. -/
  | train (f s : Nat)
  | light (f s : Nat) (on : Bool)
  /-- KFH CTRL frame of a record type to a destination (R583): rung, destination FEID, type, payload. -/
  | ctrl (rung dest type_ : Nat) (payload : List Byte)
  /-- A hop-local marshal frame on a physical lane (R595, R609): type, payload. -/
  | marshal (f s type_ : Nat) (payload : Nat)
  /-- A frame delivered to CTL (R165, R487). -/
  | toCtl (bytes : List Byte)
  /-- OMP datagram to a peer. -/
  | omp (peer : Nat) (bytes : List Byte)
  /-- Keepalive on a physical lane (R386). -/
  | keepalive (f s : Nat) (bytes : List Byte)
  /-- Sprint result or vote outcome on a logical lane, ahead of the queues (R240, R382). -/
  | sprint (lane rung : Nat) (bytes : List Byte) (tag : Option Nat)
  | flitAck (h b seq : Nat)
  | flitNak (h b seq : Nat)
  | flitReplay (h b seq : Nat)
  /-- Bridge message of a wire group from a half (R471). -/
  | bridge (h cls : Nat) (body : List Byte)
  | bridgeAck (h cls : Nat)
  /-- Guest answer: operation, tag, cause, address, bytes (R474). -/
  | guest (h op tag cause addr : Nat) (bytes : List Byte)
  | unsupported (h : Nat)
  | throttle (h : Nat) (on : Bool)
  /-- Doorbell or interrupt of a management core; relay doorbell of a thread. -/
  | wakeCore (core : Nat)
  | powerUp (core : Nat)
  /-- In-band interrupt of the board target (R677). -/
  | ibi
  /-- Mailbox buffer answer of SEC: channel, bytes. -/
  | report (m : Nat) (bytes : List Byte)
  /-- The checkpoint of a role crosses to its bench core (R512). -/
  | checkpoint (r : Nat)
  /-- The relay of a board group forwards a frame (R487). -/
  | board (lane : Nat) (bytes : List Byte)
  /-- Payload of a board announce on a fibre (R486). -/
  | announce (f : Nat) (payload : Nat)
  deriving DecidableEq, Repr

/-! ### The state -/

/-- A write to the addressed memory: bytes at an address, or zeros over a range. -/
inductive MemWrite where
  | store (addr : Nat) (bytes : List Byte)
  | zero (addr len : Nat)
  deriving DecidableEq, Repr

/-- Everything but the addressed memory and the queue of commands. -/
structure Box where
  regs : Regs := []
  /-- Fabric time in 2^-40 ns (R40). -/
  now : BitVec 104 := 0
  /-- Free values drawn so far (DESIGN CHOICE, log 5); a field of the model, not of the specification. -/
  free : Nat := 0
  /-- What the device has sent, newest first (DESIGN CHOICE, log 7). -/
  out : List Emit := []
  lanes : Store LaneSt := []
  retry : Store RetrySt := []
  opt : OptSt := {}
  fwd : FwdSt := {}
  buf : BufSt := {}
  pac : PacSt := {}
  tim : TimSt := {}
  mar : MarSt := {}
  mbx : MbxSt := {}
  rly : RlySt := {}
  col : ColSt := {}
  spr : SprSt := {}
  emb : EmbSt := {}
  memc : MemcSt := {}
  ddl : DdlSt := {}
  gst : Store GstSt := []
  fwm : FwmSt := {}
  sec : SecSt := {}
  pwr : PwrSt := {}
  tel : TelSt := {}
  start : StartSt := {}
  /-- Memory writes of the command in progress, in order; empty between commands. -/
  ws : List MemWrite := []
  deriving DecidableEq, Repr

/-- The state of the device: its parts, the addressed memory in canonical form, and the commands that wait. -/
structure State where
  box : Box
  mem : List Host.Cell
  pending : List Instr
  deriving DecidableEq, Repr

/-- Reasons a step could stop with a fault. No command of the specification stops the device: what goes wrong is
answered, counted, recorded or contained. -/
inductive Fault where
  /-- Raised by no command. Safe: nothing is proved to follow it. -/
  | stopped
  deriving DecidableEq, Repr

/-- Reasons a step could be refused. -/
inductive Refusal where
  /-- Raised by the dispatch for a command that has no meaning yet. Safe: nothing is proved to follow it. -/
  | notModelled (mnemonic : String)
  deriving DecidableEq, Repr

/-- The device right after a cold reset: every register at its reset value, nothing held, sent or waiting. -/
def State.reset : State := { box := {}, mem := [], pending := [] }

end Sys2Proof.Machine
end

