-- ==== Sys2Proof/Machine/Memory.lean ====
section
/-!
DEFINITION. The addressed memory: scratch, baton store and LPDDR6 under the relay address map (R34), as a list of the
bytes that differ from 0, which is what a byte nothing has written reads as (DESIGN CHOICE, log 4).
-/
namespace Sys2Proof.Machine

/-- The bytes that differ from 0, addresses rising. -/
abbrev Mem := List Host.Cell

/-- The canonical form: addresses strictly rising, no listed byte 0. -/
abbrev Memory.wf (m : Mem) : Prop := m.Pairwise (fun a b => a.1 < b.1) ∧ ∀ c ∈ m, c.2 ≠ 0

/-- The byte at an address. -/
def Memory.readByte : Mem → Nat → Byte
  | [], _ => 0
  | c :: t, a => if a = c.1 then c.2 else Memory.readByte t a

/-- The memory with a byte written; writing 0 removes the entry. -/
def Memory.writeByte : Mem → Nat → Byte → Mem
  | [], a, v => if v = 0 then [] else [(a, v)]
  | c :: t, a, v =>
    if a < c.1 then (if v = 0 then c :: t else (a, v) :: c :: t)
    else if a = c.1 then (if v = 0 then t else (a, v) :: t)
    else c :: Memory.writeByte t a v

/-- The memory with bytes written from an address on. -/
def Memory.store : Mem → Nat → List Byte → Mem
  | m, _, [] => m
  | m, a, v :: vs => Memory.store (Memory.writeByte m a v) (a + 1) vs

/-- The memory with a range reading 0. -/
def Memory.zero (m : Mem) (a len : Nat) : Mem := m.filter (fun c => !(decide (a ≤ c.1) && decide (c.1 < a + len)))

/-- One write. -/
def Memory.apply1 (m : Mem) : MemWrite → Mem
  | .store a vs => Memory.store m a vs
  | .zero a len => Memory.zero m a len

/-- Writes in order. -/
def Memory.applyWrites (m : Mem) (ws : List MemWrite) : Mem := ws.foldl Memory.apply1 m

/-- The `len` bytes from an address on. -/
def Memory.readBytes (m : Mem) (a : Nat) : Nat → List Byte
  | 0 => []
  | len + 1 => Memory.readByte m a :: Memory.readBytes m (a + 1) len

/-! ### Memory as the command in progress sees it -/

/-- Append a write of the command in progress. -/
def Box.write (b : Box) (w : MemWrite) : Box := { b with ws := b.ws ++ [w] }

/-- The bytes from an address on, after the command's own writes. -/
def Box.peek (b : Box) (m : Mem) (a len : Nat) : List Byte := Memory.readBytes (Memory.applyWrites m b.ws) a len

/-- The little-endian number of `len` bytes (R15). -/
def Box.peekNat (b : Box) (m : Mem) (a len : Nat) : Nat := leNat (b.peek m a len)

/-- Store bytes. -/
def Box.poke (b : Box) (a : Nat) (vs : List Byte) : Box := b.write (.store a vs)

/-! ### The areas of the relay address map (R34) -/

/-- Management of a scratch byte: core `c`'s 256 KiB of scratch have keys of their own, since every core sees its own
scratch at the same relay addresses (DESIGN CHOICE, log 14). -/
def scratchKey (c off : Nat) : Nat := c * 2 ^ 18 + off

/-- First relay address of the baton stores, of one die's store, and of LPDDR6 (R34, R35). -/
def batonAddr : Nat := 0x000100000000
@[inherit_doc batonAddr] def lpddrAddr : Nat := 0x800000000000


end Sys2Proof.Machine
end

