-- ==== Sys2Proof/Machine/Ops.lean ====
section
/-!
DEFINITION. The operations that every block's meaning is built from: reading and writing registers, fabric time, free
values, what the device sends, and the two ways a command ends.
-/
namespace Sys2Proof.Machine

/-! ### Registers -/

/-- The value of a register instance: the listed one, or the reset value (R647 to R650). -/
def Box.get (b : Box) (r : Reg) (i : Nat := 0) (j : Nat := 0) (k : Nat := 0) : Nat :=
  (Regs.find b.regs ⟨r, i, j, k⟩).getD (r.resetAt i j k)

/-- A register list with a value, cut to the field's width, at an instance. -/
def Regs.set (l : Regs) (r : Reg) (i j k v : Nat) : Regs :=
  if v % 2 ^ r.info.width = r.resetAt i j k then l.erase ⟨r, i, j, k⟩
  else l.put ⟨r, i, j, k⟩ (v % 2 ^ r.info.width)

/-- The value `v`, cut to the field's width, in a register instance. -/
def Box.put (b : Box) (r : Reg) (v : Nat) (i : Nat := 0) (j : Nat := 0) (k : Nat := 0) : Box :=
  { b with regs := b.regs.set r i j k v }

/-- The field as a signed number. -/
def Box.getS (b : Box) (r : Reg) (i : Nat := 0) (j : Nat := 0) (k : Nat := 0) : Int :=
  toSigned r.info.width (b.get r i j k)

/-- Whether a bit of a field is set. -/
def Box.bit (b : Box) (r : Reg) (n : Nat) (i : Nat := 0) (j : Nat := 0) (k : Nat := 0) : Bool := bitAt (b.get r i j k) n

/-- Set a bit of a field. -/
def Box.setBit (b : Box) (r : Reg) (n : Nat) (i : Nat := 0) (j : Nat := 0) (k : Nat := 0) : Box :=
  b.put r (Sys2Proof.setBit (b.get r i j k) n) i j k

/-- Clear a bit of a field. -/
def Box.clrBit (b : Box) (r : Reg) (n : Nat) (i : Nat := 0) (j : Nat := 0) (k : Nat := 0) : Box :=
  b.put r (clearBit (b.get r i j k) n) i j k

/-- A free value, and the counter moved on (DESIGN CHOICE, log 5). -/
def Box.fresh (b : Box) : Nat × Box := (Config.free b.free, { b with free := b.free + 1 })

/-- A register instance with a free value. -/
def Box.putFree (b : Box) (r : Reg) (i : Nat := 0) (j : Nat := 0) (k : Nat := 0) : Box :=
  (b.fresh.2).put r b.fresh.1 i j k

/-- A count field raised; past its width its value is free (DESIGN CHOICE, log 9). -/
def Box.bump (b : Box) (r : Reg) (i : Nat := 0) (j : Nat := 0) (k : Nat := 0) (by_ : Nat := 1) : Box :=
  if b.get r i j k + by_ < 2 ^ r.info.width then b.put r (b.get r i j k + by_) i j k else b.putFree r i j k

/-- A level field moved by a signed amount, never below 0. -/
def Box.move (b : Box) (r : Reg) (d : Int) (i : Nat := 0) (j : Nat := 0) (k : Nat := 0) : Box :=
  b.put r (((b.get r i j k : Int) + d).toNat) i j k

/-- A field where a condition holds. -/
def Box.putIf (b : Box) (c : Bool) (r : Reg) (v : Nat) (i : Nat := 0) (j : Nat := 0) (k : Nat := 0) : Box :=
  if c then b.put r v i j k else b

/-- Apply an operation where a condition holds. -/
def Box.when (b : Box) (c : Bool) (f : Box → Box) : Box := if c then f b else b

/-- Apply an operation for each entry of a list, in order. -/
def Box.each {α : Type} (b : Box) (l : List α) (f : Box → α → Box) : Box := l.foldl f b

/-- Something sent. -/
def Box.emit (b : Box) (e : Emit) : Box := { b with out := e :: b.out }

/-! ### Fabric time (R40 to R46) -/

/-- Fabric time in integer ns. -/
def Box.ns (b : Box) : Nat := b.now.toNat / 2 ^ 40

/-- Fabric time in 2^-16 ns, the resolution of stamps (R50). -/
def Box.stamp (b : Box) : Nat := b.now.toNat / 2 ^ 24

/-- The length of a lap, ns (R52). -/
def Box.lapLen (b : Box) : Nat := 2 ^ b.get .timLapExp

/-- The lap of the present time (R52). -/
def Box.lap (b : Box) : Nat := b.ns / b.lapLen

/-- The first instant of a lap, ns. -/
def Box.lapStart (b : Box) (l : Nat) : Nat := l * b.lapLen

/-- Whether the clock of the module has been acquired. -/
def Box.acquired (b : Box) : Bool := b.get .timCtrlAcquired == 1

/-! ### How a command ends -/

/-- The next state that a command's effect on the parts of the device makes: its parts, and memory after the writes
it collected. -/
def act (f : Box → Box) (s : State) : Host.Outcome State Fault Refusal :=
  .next { s with box := { f s.box with ws := [] }, mem := Memory.applyWrites s.mem (f s.box).ws }

/-- Answer a register access (R496): status 0 done, 1 error response, 2 bus error, 3 domain off, 4 not permitted,
5 unmapped (DESIGN CHOICE, log 10). -/
def Box.reply (b : Box) (src : Src) (status : Nat) (data : Nat := 0) : Box := b.emit (.answer src.toNat status data)

/-! ### Numbers of the module (R6, R8, R9) -/

/-- The half a colour or data slot belongs to: even north (0), odd south (1). -/
def halfOf (w : Nat) : Nat := w % 2

/-- The logical lane of fibre `f`, colour `w`, and back. -/
def laneOf (f w : Nat) : Nat := 8 * f + w
@[inherit_doc laneOf] def fibreOf (l : Nat) : Nat := l / 8
@[inherit_doc laneOf] def colourOf (l : Nat) : Nat := l % 8

/-- Key of a physical lane in the tables. -/
def phys (f s : Nat) : Nat := 10 * f + s

/-- The compute die of a relay core, the half of a die and of a core (R8). -/
def dieOf (c : Nat) : Nat := c / 32
@[inherit_doc dieOf] def halfOfDie (d : Nat) : Nat := d / 2
@[inherit_doc dieOf] def halfOfCore (c : Nat) : Nat := c / 64

/-- The numbers from `a` up to but not including `a + n`. -/
def range' (a : Nat) : Nat → List Nat
  | 0 => []
  | n + 1 => a :: range' (a + 1) n

/-- The numbers below `n`. -/
def upTo (n : Nat) : List Nat := range' 0 n

/-- The first entry of a list that satisfies a test. -/
def firstWhere {α : Type} (l : List α) (p : α → Bool) : Option α := l.find? p

/-- The list without the first entry equal to `a`. -/
def without {α : Type} [DecidableEq α] (l : List α) (a : α) : List α := l.erase a

/-- Put an entry in a list that has no repeats. -/
def with_ {α : Type} [DecidableEq α] (l : List α) (a : α) : List α := if a ∈ l then l else l ++ [a]

/-- Lane state, or the one after reset. -/
def Box.lane (b : Box) (f s : Nat) : LaneSt := b.lanes.at (phys f s) {}

/-- Change a lane's state. -/
def Box.setLane (b : Box) (f s : Nat) (g : LaneSt → LaneSt) : Box := { b with lanes := b.lanes.upd (phys f s) {} g }

end Sys2Proof.Machine
end

