-- ==== Sys2Proof/Machine/Errors.lean ====
section
/-!
DEFINITION. Error records, storm mode, log records and the management egress budget (R580 to R587, R520, R521, R615,
R616): what every block does when it detects an error.
-/
namespace Sys2Proof.Machine

/-- Severities (R581). -/
def sevNotice : Nat := 1
@[inherit_doc sevNotice] def sevError : Nat := 2
@[inherit_doc sevNotice] def sevAlarm : Nat := 3
@[inherit_doc sevNotice] def sevFatal : Nat := 4

/-- The image of an error record, bit 0 least (R580). -/
def ErrRec.image (e : ErrRec) : Nat :=
  e.tFirst * 2 ^ 960 + e.tLast * 2 ^ 896 + e.count * 2 ^ 864 + e.block * 2 ^ 856 + e.cause * 2 ^ 848
    + e.sev * 2 ^ 844 + e.contain * 2 ^ 840 + e.inst * 2 ^ 824 + e.seq * 2 ^ 808 + e.payload % 2 ^ 768

/-- The image of a log record (R520). -/
def LogRec.image (l : LogRec) : Nat :=
  l.ns % 2 ^ 64 * 2 ^ 448 + l.frac * 2 ^ 432 + l.core * 2 ^ 428 + l.kind * 2 ^ 424 + l.sev * 2 ^ 420 + l.code * 2 ^ 400
    + l.seq * 2 ^ 384 + l.payload % 2 ^ 384

/-- Add a record to the log writer's queue of a half, stamped with the present time (R520, R521). -/
def Box.logPush (b : Box) (h core kind sev code seq payload : Nat) : Box :=
  let r : LogRec := ⟨b.ns, b.stamp % 65536, core, kind, sev, code, seq, payload⟩
  { b with fwm := { b.fwm with logq := b.fwm.logq.upd h [] (· ++ [r]) } }

/-- The next log sequence number of a source (R520). -/
def Box.nextLogSeq (b : Box) (k : Nat) : Nat × Box :=
  (b.fwm.logSeq.at k 0, { b with fwm := { b.fwm with logSeq := b.fwm.logSeq.put k ((b.fwm.logSeq.at k 0 + 1) % 65536) } })

/-- The three kind 2 copies of an error record (R585). Core number and event code are the log writer's own, which the
specification does not name: free values (DEDUCED, log 124). -/
def Box.logCopy (b : Box) (e : ErrRec) : Box :=
  let (n, b) := b.fresh
  let (q, b) := b.nextLogSeq (16 + e.half)
  let rec_ (b : Box) (lo len : Nat) : Box :=
    b.logPush e.half (n % 16) 2 e.sev (n / 16 % 65536) q (e.image / 2 ^ (8 * lo) % 2 ^ (8 * len))
  rec_ (rec_ (rec_ b 0 48) 48 48) 96 32

/-- Bytes that the management egress may send in 10 µs: the lower of budget and guard ceiling (R615, R533). -/
def Box.egressRoom (b : Box) : Nat := min (b.get .marEgrMbps) (b.get .grdEnvMgmtMbps) * 10 / 8

/-- Send a payload to the fabric manager as a KFH CTRL record type at a priority (0 alarm, 1 log, 2 trace), or count
it as held back (R615, R616). A zero address turns exports off. The charge is the payload's bytes (DEDUCED, log 11). -/
def Box.exportRec (b : Box) (prio type_ : Nat) (payload : List Byte) : Box :=
  if b.get .marFmIp6 = 0 then b
  else
    let used := if b.mar.egrAt + 10000 ≤ b.ns then 0 else b.mar.egrBytes
    let at_ := if b.mar.egrAt + 10000 ≤ b.ns then b.ns else b.mar.egrAt
    if used + payload.length ≤ b.egressRoom then
      ({ b with mar := { b.mar with egrBytes := used + payload.length, egrAt := at_ } }).emit
        (.ctrl 3 (b.get .marFmFeid) type_ payload)
    else ({ b with mar := { b.mar with egrBytes := used, egrAt := at_ } }).bump .marEgrDrop prio

/-- An interrupt cause of the board target becomes 1 (R677). -/
def Box.irq (b : Box) (n : Nat) : Box :=
  if bitAt b.start.causes n then b
  else ({ b with start := { b.start with causes := Sys2Proof.setBit b.start.causes n } }).emit .ibi

/-- The lowest free index of the error queue. -/
def Box.errSlot (b : Box) : Option Nat := (upTo 256).find? (fun m => (b.mar.errq.find m).isNone)

/-- Whether the acting CTL core runs (R512, R514). -/
def Box.ctlRuns (b : Box) : Bool := b.get .fwmCoreState (b.get .fwmRoleCore 0) == 2

/-- CTL, where it runs, starts handling a record: none is handled, or the record is of higher severity than the one
handled (R514, R584). -/
def Box.ctlTake (b : Box) (m sev : Nat) : Box :=
  match b.mar.handling with
  | [] => if b.ctlRuns then { b with mar := { b.mar with handling := [m] } } else b
  | n :: _ =>
    if b.ctlRuns = false then b
    else if sev > ((b.mar.errq.find n).map (·.sev)).getD 0 then { b with mar := { b.mar with handling := m :: b.mar.handling } }
    else b

/-- Place a record in the queue at an index (R580, R584, R585, R616). -/
def Box.errPlace (b : Box) (m : Nat) (e : ErrRec) : Box :=
  let b := { b with mar := { b.mar with errq := b.mar.errq.put m e } }
  (b.put .marErrqCnt b.mar.errq.length).ctlTake m e.sev

/-- Index of the oldest NOTICE or ERROR record of the queue (R586). -/
def oldestMinor : Store ErrRec → Option (Nat × ErrRec)
  | [] => none
  | (m, e) :: t =>
    match oldestMinor t with
    | none => if e.sev ≤ 2 then some (m, e) else none
    | some (m', e') => if e.sev ≤ 2 ∧ e.tFirst ≤ e'.tFirst then some (m, e) else some (m', e')

/-- Whether two records coalesce (R586). -/
def ErrRec.same (a e : ErrRec) : Bool := a.block == e.block && a.cause == e.cause

/-- A record that arrives in storm mode (R586). -/
def Box.storm (b : Box) (e : ErrRec) : Box :=
  if b.mar.storm.any (·.same e) then
    { b with mar := { b.mar with storm := b.mar.storm.map (fun a =>
        if a.same e then { a with count := min (a.count + e.count) (2 ^ 32 - 1), tLast := e.tLast } else a) } }
  else if b.mar.storm.length < 64 then
    ({ b with mar := { b.mar with storm := b.mar.storm ++ [e] } }).logCopy e
  else if e.sev ≥ sevAlarm then
    match oldestMinor b.mar.errq with
    | some (m, old) =>
      (({ b with mar := { b.mar with handling := b.mar.handling.erase m } }).bump .marStormLost old.sev).errPlace m e
        |>.logCopy e
    | none => b.bump .marStormLost e.sev
  else b.bump .marStormLost e.sev

/-- A block's record reaches the error queue (R580, R586). -/
def Box.raiseRec (b : Box) (e : ErrRec) : Box :=
  let b := if e.sev = sevFatal then b.irq 1 else b
  let b := if e.sev ≥ sevAlarm then b.exportRec 0 0x04 (leBytes 128 e.image) else b
  if b.mar.stormOn then b.storm e
  else match b.errSlot with
    | some m => (b.errPlace m e).logCopy e
    | none => (({ b with mar := { b.mar with stormOn := true } }).put .marStorm 1).storm e

/-- Raise an error record: detecting half, the register row it names, instance, severity, containment, payload
(DEDUCED, log 133). Where the rules name what a payload holds and not its bits, the callers choose them (DESIGN CHOICE,
log 137). -/
def Box.raise (b : Box) (h : Nat) (r : Reg) (inst sev contain : Nat) (payload : Nat := 0) : Box :=
  let n := b.mar.seq.at h 0
  ({ b with mar := { b.mar with seq := b.mar.seq.put h ((n + 1) % 65536) } }).raiseRec
    ⟨b.ns, b.ns, 1, r.info.block, r.info.row, sev, contain, inst % 65536, n, payload, h⟩

/-- The record CTL takes next: highest severity, then earliest (R584). -/
def bestErr : Store ErrRec → Option (Nat × ErrRec)
  | [] => none
  | (m, e) :: t =>
    match bestErr t with
    | none => some (m, e)
    | some (m', e') => if e.sev > e'.sev ∨ (e.sev = e'.sev ∧ e.tFirst ≤ e'.tFirst) then some (m, e) else some (m', e')

/-- CTL goes on with the best record that is not being handled, when it is of higher severity (R584). -/
def Box.ctlNext (b : Box) : Box :=
  match bestErr (b.mar.errq.filter (fun p => !b.mar.handling.contains p.1)) with
  | some (m, e) => b.ctlTake m e.sev
  | none => b

/-- CTL retires the record at an index: its place takes the oldest storm entry, and storm mode ends at 64 records and
an empty table (R584, R586). An index that holds no record changes nothing (DESIGN CHOICE, log 12). -/
def Box.retire (b : Box) (m : Nat) : Box :=
  match b.mar.errq.find m with
  | none => b
  | some e =>
    let b := if b.mar.stormOn ∧ e.count > 1 then b.logCopy e else b
    let b := { b with mar := { b.mar with errq := b.mar.errq.del m, handling := b.mar.handling.erase m } }
    let b := match b.mar.storm with
      | [] => b.put .marErrqCnt b.mar.errq.length
      | e' :: t => ({ b with mar := { b.mar with storm := t } }).errPlace m e'
    let b := if b.mar.stormOn ∧ b.mar.errq.length ≤ 64 ∧ b.mar.storm = [] then
      { b with mar := { b.mar with stormOn := false } } else b
    b.ctlNext

/-- A guard action: its bit, its count, an alarm record (of a trip a fatal one, R581) and a kind 3 log record (R533). -/
def Box.guardAct (b : Box) (h bit : Nat) (contain : Nat := 0) (sev : Nat := sevAlarm) : Box :=
  let b := (b.setBit .grdEvent bit).bump .grdEventCnt bit
  let b := b.raise h .grdEvent bit sev contain
  let (n, b) := b.fresh
  let (q, b) := b.nextLogSeq (16 + h)
  b.logPush h (n % 16) 3 sev (n / 16 % 65536) q bit

end Sys2Proof.Machine
end

