-- ==== Sys2Proof/Machine/RegMap.lean ====
section
/-!
DEFINITION. The management address space: which register instance a word of a block's window belongs to (R646 to R650).
-/
namespace Sys2Proof.Machine

/-- The least power of two that is at least `n`, up to 2^24 (R650). -/
def pow2Up (n : Nat) : Nat := (((upTo 25).find? (fun e => n ≤ 2 ^ e)).map (2 ^ ·)).getD 0

/-- 64-bit words of a register's value, and of its place (R650). -/
def Reg.words (r : Reg) : Nat := (r.info.lo + r.info.width + 63) / 64
@[inherit_doc Reg.words] def Reg.span (r : Reg) : Nat := pow2Up r.words

/-- Split a linear index into the instance's indices, innermost first (R650). -/
def splitIndex : List (Ix × Nat × Nat) → Nat → Option (List Nat)
  | [], n => if n = 0 then some [] else none
  | (_, lo, cnt) :: t, n =>
    if n % pow2Up cnt < cnt then (splitIndex t (n / pow2Up cnt)).map ((n % pow2Up cnt + lo) :: ·) else none

/-- The instance's indices joined to a linear index, outermost first (R650). -/
def joinIndex : List (Ix × Nat × Nat) → List Nat → Nat → Nat
  | (_, lo, cnt) :: t, i :: is, acc => joinIndex t is (acc * pow2Up cnt + (i - lo))
  | _, _, acc => acc

/-- The window of LPDDR6, the table window, and the size of each (R646). -/
def tableWindow : Nat := 0x004000000000

/-- The row window whose address a register's fields share: that of the first row naming it (R649). -/
def Reg.homeRow : Reg → Nat
  | .optCtrlAutoCal => Reg.optCtrlAutoBench.info.row
  | r => r.info.row

/-- A register instance hit by an address: the fields at that address, the indices, and the word. -/
structure Hit where
  regs : List Reg
  i : Nat
  j : Nat
  k : Nat
  word : Nat
  deriving DecidableEq, Repr

/-- The register word at a management address, none where it is unmapped (R646 to R650). -/
def locate (addr : Nat) : Option Hit :=
  let cands := (Reg.ofBlock (addr / 2 ^ 32)).filter (fun r => r.homeRow == addr / 2 ^ 24 % 256)
  match cands with
  | [] => none
  | r0 :: _ =>
    let slot := addr % 2 ^ 24 / 8
    let n := pow2Up r0.info.names
    let regs := cands.filter (fun r => r.info.pos == slot / r0.span % n)
    match regs with
    | [] => none
    | r :: _ =>
      if addr % 8 ≠ 0 ∨ slot % r0.span ≥ r.words then none
      else match splitIndex r.info.dims.reverse (slot / (r0.span * n)) with
        | none => none
        | some ix =>
          let ix := ix.reverse
          some ⟨regs, ix.getD 0 0, ix.getD 1 0, ix.getD 2 0, slot % r0.span⟩

/-- The management address of word 0 of a register instance (R647, R650). -/
def Reg.addr (r : Reg) (i : Nat := 0) (j : Nat := 0) (k : Nat := 0) : Nat :=
  r.info.block * 2 ^ 32 + r.homeRow * 2 ^ 24
    + 8 * r.span * (joinIndex r.info.dims [i, j, k] 0 * pow2Up r.info.names + r.info.pos)

/-- The half an instance of a register belongs to, where an index places it on one (R69). -/
def ownerHalf : List (Ix × Nat × Nat) → List Nat → Option Nat
  | (.half, _, _) :: _, i :: _ => some (i % 2)
  | (.die, _, _) :: _, i :: _ => some (halfOfDie i)
  | (.core, _, _) :: _, i :: _ => some (halfOfCore i)
  | (.pipe, _, _) :: _, i :: _ => some (i / 8)
  | (.slot, _, _) :: _, i :: _ => some (halfOf i)
  | (.lane, _, _) :: _, i :: _ => some (halfOf i)
  | _ :: t, _ :: is => ownerHalf t is
  | _, _ => none

/-- The half of a register instance; north when it has none of its own (R69). -/
def Reg.half (r : Reg) (i : Nat := 0) (j : Nat := 0) (k : Nat := 0) : Nat := (ownerHalf r.info.dims [i, j, k]).getD 0

end Sys2Proof.Machine
end

