-- ==== Sys2Proof/Machine/Time.lean ====
section
/-!
DEFINITION. Fabric time and the lap calendar (R40 to R62, R674, R675), and who may write registers (R497).
-/
namespace Sys2Proof.Machine

/-! ### Who asks -/

/-- Whether a requester holds the agent lease (R506). -/
def Box.isAgent (b : Box) (src : Nat) : Bool :=
  b.get .mbxLeaseState == 1 && b.get .mbxLeaseSrcid == src

/-- Whether a requester is a management core: its number is its SRCID (R499; DEDUCED, log 17). -/
def isCore (src : Nat) : Bool := decide (src < 10)

/-- A register write by a core or by the lease holder (R497): the effect's status is answered, any other requester
gets status 4. -/
def Box.regWrite (b : Box) (src : Src) (f : Box → Nat × Box) : Box :=
  if isCore src.toNat || b.isAgent src.toNat then (f b).2.reply src (f b).1 else b.reply src 4

/-! ### The calendar -/

/-- The acting core of a role (R512). -/
def Box.acting (b : Box) (r : Nat) : Nat := b.get .fwmRoleCore r

/-- Whether a requester may arm an action with an argument (R60). -/
def Box.mayArm (b : Box) (src action arg : Nat) : Bool :=
  match action with
  | 3 | 4 => src == (if halfOf (arg % 10) = 0 then 3 else 8)
  | 5 => src == b.acting 1
  | 6 => src == 2 || src == 7 || b.isAgent src
  | 7 => isCore src || b.isAgent src
  | _ => false

/-- Arm an entry of the calendar, whatever was written to it before (R59). -/
def Box.calSet (b : Box) (n lap action arg : Nat) : Box :=
  (((b.put .timCalLap lap n).put .timCalArg arg n).put .timCalAction action n).put .timCalState 1 n

/-- The EMPTY entries, in ascending order (R59). -/
def Box.calFree (b : Box) : List Nat := (upTo 64).filter (fun n => b.get .timCalState n == 0)

/-- The device arms the EMPTY entry of lowest index; none is left: nothing is armed (R59). -/
def Box.calArm (b : Box) (lap action arg : Nat) : Option Box :=
  match b.calFree with
  | [] => none
  | n :: _ => some (b.calSet n lap action arg)

/-- The ARMED entries of an action and argument. -/
def Box.calArmed (b : Box) (action arg : Nat) : List Nat :=
  (upTo 64).filter (fun n => b.get .timCalState n == 1 && b.get .timCalAction n == action && b.get .timCalArg n == arg)

/-- Return the ARMED entries of an action and argument to EMPTY. -/
def Box.calDrop (b : Box) (action arg : Nat) : Box := b.each (b.calArmed action arg) (fun b n => b.put .timCalState 0 n)

/-- A write to TIM.CAL[n].ACTION (R59, R60): status and effect. -/
def Box.writeCalAction (b : Box) (src n v : Nat) : Nat × Box :=
  if b.get .timCalState n = 1 then
    if v = 0 ∧ b.mayArm src (b.get .timCalAction n) (b.get .timCalArg n) then
      (0, (b.put .timCalAction 0 n).put .timCalState 0 n)
    else (1, b)
  else if v = 0 then (0, b.put .timCalAction 0 n)
  else if b.get .timCalLap n ≤ b.lap ∨ b.mayArm src v (b.get .timCalArg n) = false then (1, b)
  else (0, (b.put .timCalAction v n).put .timCalState 1 n)

/-- An entry has fired: it returns to EMPTY and its lap, action, argument and outcome are logged (R62). -/
def Box.calLog (b : Box) (n outcome : Nat) : Box :=
  let v := b.get .timCalLap n + b.get .timCalAction n * 2 ^ 56 + b.get .timCalArg n * 2 ^ 64 + outcome * 2 ^ 80
  let b := (b.put .timCalState 0 n).put .timCalLog v b.tim.calPos
  { b with tim := { b.tim with calPos := (b.tim.calPos + 1) % 64 } }

/-- `TIM.CAL[n].ACTION` written with a nonzero value. -/
def execCalArm (src : Src) (n : Fin 64) (action : BitVec 4) (s : State) : Host.Outcome State Fault Refusal :=
  act (fun b => b.regWrite src (fun b => b.writeCalAction src.toNat n action.toNat)) s

/-- `TIM.CAL[n].ACTION` written with 0. -/
def execCalDisarm (src : Src) (n : Fin 64) (s : State) : Host.Outcome State Fault Refusal :=
  act (fun b => b.regWrite src (fun b => b.writeCalAction src.toNat n 0)) s

/-- The lap at whose start a direct class E write made now takes effect (R657). -/
def Box.dueLap (b : Box) : Nat :=
  if b.now.toNat + 256 * 2 ^ 40 ≤ b.lapStart (b.lap + 1) * 2 ^ 40 then b.lap + 1 else b.lap + 2

/-- A direct write to a class E field, placed in its shadow (R657). -/
def Box.shadowPut (b : Box) (r : Reg) (v : Nat) (i : Nat := 0) (j : Nat := 0) (k : Nat := 0) : Box :=
  { b with tim := { b.tim with shadow := b.tim.shadow ++ [(⟨r, i, j, k⟩, v, b.dueLap)] } }

/-! ### The counter -/

/-- States of the commit groups (R67, R81). -/
def cgFree : Nat := 0
@[inherit_doc cgFree] def cgOpen : Nat := 1
@[inherit_doc cgFree] def cgBroken : Nat := 2
@[inherit_doc cgFree] def cgSealed : Nat := 3
@[inherit_doc cgFree] def cgVoted : Nat := 4
@[inherit_doc cgFree] def cgInDoubt : Nat := 5
@[inherit_doc cgFree] def cgCommitted : Nat := 6
@[inherit_doc cgFree] def cgAborted : Nat := 7

/-- The state of a commit group. -/
def Box.cgState (b : Box) (n : Nat) : Nat := b.get .timCgState n

/-- Whether some commit group is in one of the states. -/
def Box.cgAny (b : Box) (l : List Nat) : Bool := (upTo 16).any (fun n => l.contains (b.cgState n))

/-- A write to TIM.INCR: within 500 ppm of 0.8 ns it holds from the next tick (R43). -/
def Box.writeIncr (b : Box) (v : Nat) : Nat × Box :=
  if 7996 * 2 ^ 40 ≤ v * 10000 ∧ v * 10000 ≤ 8004 * 2 ^ 40 then (0, b.put .timIncr v) else (1, b)

/-- A write to TIM.STEP: refused while a group is SEALED, VOTED or IN_DOUBT, else added at the next tick (R45). -/
def Box.writeStep (b : Box) (v : Nat) : Nat × Box :=
  if b.cgAny [cgSealed, cgVoted, cgInDoubt] then (1, b)
  else (0, { b.put .timStep v with tim := { b.tim with step := some (toSigned 48 v) } })

/-- A write to TIM.SET_NS: accepted while ACQUIRED is 0, loaded at the next tick (R47). -/
def Box.writeSetNs (b : Box) (v : Nat) : Nat × Box :=
  if b.acquired then (1, b) else (0, { b.put .timSetNs v with tim := { b.tim with load := some v } })

/-- A write to TIM.CTRL.ACQUIRED: cleared only while every group is FREE (R47). -/
def Box.writeAcquired (b : Box) (v : Nat) : Nat × Box :=
  if v = 0 ∧ b.acquired ∧ (upTo 16).any (fun n => b.cgState n != cgFree) then (1, b) else (0, b.put .timCtrlAcquired v)

/-- `TIM.INCR` written. -/
def execTimIncrWrite (src : Src) (v : BitVec 40) (s : State) : Host.Outcome State Fault Refusal :=
  act (fun b => b.regWrite src (fun b => b.writeIncr v.toNat)) s

/-- `TIM.STEP` written. -/
def execTimStepWrite (src : Src) (v : BitVec 48) (s : State) : Host.Outcome State Fault Refusal :=
  act (fun b => b.regWrite src (fun b => b.writeStep v.toNat)) s

/-- `TIM.SET_NS` written. -/
def execTimSetNsWrite (src : Src) (v : BitVec 64) (s : State) : Host.Outcome State Fault Refusal :=
  act (fun b => b.regWrite src (fun b => b.writeSetNs v.toNat)) s

/-- `TIM.CTRL.ACQUIRED` written. -/
def execAcquiredWrite (src : Src) (v : BitVec 1) (s : State) : Host.Outcome State Fault Refusal :=
  act (fun b => b.regWrite src (fun b => b.writeAcquired v.toNat)) s

/-- A rising edge of the board time pulse, with its high time (R675). -/
def Box.tpulse (b : Box) (highNs : Nat) : Box :=
  let late := match b.tim.pulseAt with
    | none => true
    | some t => decide (t + 1000000 * 65536 ≤ b.stamp)
  let b' := { b with tim := { b.tim with pulseAt := some b.stamp } }
  if 100 ≤ highNs ∧ highNs ≤ 10000 ∧ late = true then
    ((b'.put .timPulseNs b.ns).put .timPulseFrac (b.stamp % 65536)).bump .timPulseCnt
  else b'.bump .timPulseBad

/-- The board time pulse rises. -/
def execTpulse (highNs : BitVec 32) (s : State) : Host.Outcome State Fault Refusal :=
  act (fun b => b.tpulse highNs.toNat) s

/-- One tick of the time base: a load or a step that waits takes effect, else the increment is added (R42, R45, R47).
A load takes the place of the tick's increment; a step is added beside it (DEDUCED, log 48). -/
def Box.tickTime (b : Box) : Box :=
  match b.tim.load with
  | some v => { b with now := BitVec.ofNat 104 (v * 2 ^ 40), tim := { b.tim with load := none, step := none } }
  | none =>
    { b with
      now := BitVec.ofInt 104 ((b.now.toNat : Int) + (b.get .timIncr : Int) + (b.tim.step.getD 0) * (2 ^ 40 : Nat))
      tim := { b.tim with step := none } }

/-- Ticks of the plain increment that bring the counter to an instant in ns. -/
def Box.ticksTo (b : Box) (t : Nat) : Nat := (t * 2 ^ 40 - b.now.toNat + b.get .timIncr - 1) / b.get .timIncr

/-- Time runs to the first tick at or after an instant in ns; an instant that has passed changes nothing. -/
def Box.runTo (b : Box) (t : Nat) : Box :=
  if t * 2 ^ 40 ≤ b.now.toNat then b
  else { b with now := BitVec.ofNat 104 (b.now.toNat + b.ticksTo t * b.get .timIncr) }

end Sys2Proof.Machine
end

