-- ==== Sys2Proof/Machine/Instruments.lean ====
section
/-!
DEFINITION. What blocks hand to the instruments as they work: values of monitors, and frames that samplers consider (R626
to R633).
-/
namespace Sys2Proof.Machine

/-! ### Monitors (R630 to R633) -/

/-- A monitor is cleared. -/
def Box.monClear (b : Box) (h m : Nat) : Box :=
  let mine (q : RegKey) : Bool := q.i == h && q.j == m && [Reg.telMonMin, .telMonMax, .telMonCnt, .telMonBin].contains q.reg
  { b with regs := b.regs.filter (fun e => !mine e.1) }

/-- The bin of a value: origin, width, scale. -/
def monBin (base width scale : Nat) (x : Int) : Nat :=
  if x < base then 0
  else
    let n := x.toNat
    if scale = 0 then (if base + 30 * width ≤ n then 31 else 1 + (n - base) / width)
    else if base * 2 ^ 30 ≤ n then 31 else 1 + Nat.log2 (n / base)

/-- A value crosses an alarm limit: counted, and recorded at most once in 1 ms. -/
def Box.monAlarm (b : Box) (h m : Nat) (x : Int) : Box :=
  if x ≤ b.getS .telMonAlarmHi h m ∧ b.getS .telMonAlarmLo h m ≤ x then b
  else
    let b := b.bump .telMonAlarmCnt h m
    if (b.tel.alarmAt.find (32 * h + m)).any (fun t => decide (b.ns < t + 1000000)) then b
    else
      ({ b with tel := { b.tel with alarmAt := b.tel.alarmAt.put (32 * h + m) b.ns } }).raise h .telMonAlarmHi m sevError 0
        (ofSigned 32 x * 2 ^ 736)

/-- A monitor takes a value, a signed 32-bit integer (DEDUCED, log 43). -/
def Box.monTake (b : Box) (h m : Nat) (x : Int) : Box :=
  let x := toSigned 32 (ofSigned 32 x)
  let q := monBin (b.get .telMonBase h m) (b.get .telMonWidth h m) (b.get .telMonScale h m) x
  let b := b.put .telMonBin (min (b.get .telMonBin h m q + 1) (2 ^ 32 - 1)) h m q
  let b := if x < b.getS .telMonMin h m then b.put .telMonMin (ofSigned 32 x) h m else b
  let b := if b.getS .telMonMax h m < x then b.put .telMonMax (ofSigned 32 x) h m else b
  (b.bump .telMonCnt h m).monAlarm h m x

/-- An event of a source with an argument gives a value to the monitors of a half that watch it. -/
def Box.monEvent (b : Box) (h source arg : Nat) (x : Int) : Box :=
  let l := (upTo 32).filter (fun m =>
    b.get .telMonKind h m == 3 && b.get .telMonSrc h m % 16 == source && b.get .telMonArg h m == arg)
  b.each l (fun b m => b.monTake h m x)

/-! ### Samplers (R626 to R629) -/

/-- What became of a frame: departed, dropped, discarded by age. -/
structure Sample where
  /-- Outcome of R628, drop cause, departure with a pace mark set. -/
  outcome : Nat
  cause : Nat
  marked : Bool
  /-- Egress lane, none when none was chosen; sojourn in ns, none when never enqueued; depth of the queue in cells. -/
  egress : Option Nat
  soj : Option Nat
  depth : Nat
  deriving DecidableEq, Repr

/-- The lane that decides: the egress lane, or the ingress lane for a drop before enqueue; and the half. -/
def Sample.lane (x : Sample) (fr : Held) : Nat := if x.soj.isNone then fr.lane else x.egress.getD fr.lane

/-- Whether a sampler considers a frame. -/
def Box.considers (b : Box) (h s : Nat) (fr : Held) (x : Sample) : Bool :=
  let ev := b.get .telSmpEvent h s
  let sojOk := decide (b.get .telSmpSojMinNs h s ≤ x.soj.getD 0)
  b.get .telSmpEn h s == 1 && (b.get .telSmpLane h s == 0x7FF || b.get .telSmpLane h s == x.lane fr)
    && b.bit .telSmpRungs fr.rung h s
    && (match ev with
      | 0 => x.outcome == 0 && sojOk
      | 1 => x.outcome != 0
      | 2 => x.outcome == 0 && x.marked && sojOk
      | _ => false)

/-- Each sampler that considers the frame draws; those that take it are counted. A draw is the sampler's own: a free value,
but at probability 1. -/
def Box.draws (b : Box) (h : Nat) (fr : Held) (x : Sample) : Nat × Box :=
  (upTo 8).foldl (fun (a : Nat × Box) s =>
    if a.2.considers h s fr x = false then a
    else
      let r := a.2.get .telSmpRateLog h s
      let (v, b) : Nat × Box := if r = 0 then (0, a.2) else (a.2.fresh.1 % 2 ^ r, a.2.fresh.2)
      if v = 0 then (a.1 + 2 ^ s, b.bump .telSmpTaken h s) else (a.1, b)) (0, b)

/-- The bytes of a sample record (R628). -/
def Box.sampleRec (b : Box) (h mask : Nat) (fr : Held) (x : Sample) : List Byte :=
  (fr.bytes.take 64 ++ List.replicate (64 - fr.bytes.length) 0) ++ leBytes 8 (fr.stamp / 65536) ++ leBytes 2 (fr.stamp % 65536)
    ++ leBytes 2 fr.lane ++ leBytes 2 (x.egress.getD 0xFFFF) ++ leBytes 1 fr.rung ++ leBytes 1 x.outcome ++ leBytes 1 x.cause
    ++ leBytes 1 mask ++ leBytes 2 fr.bytes.length ++ leBytes 4 (x.soj.elim 0xFFFFFFFF (min 0xFFFFFFFE)) ++ leBytes 8 b.ns
    ++ leBytes 4 x.depth ++ leBytes 4 (b.tel.smpSeq.at h 0) ++ List.replicate 24 0

/-- A frame's outcome is shown to the samplers of the half that owns its lane. -/
def Box.sample (b : Box) (fr : Held) (x : Sample) : Box :=
  let h := halfOf (x.lane fr)
  let (mask, b) := b.draws h fr x
  if mask = 0 then b
  else if b.get .telSbufMode h = 1 ∧ 4096 ≤ b.tel.unread.at h 0 then b.bump .telSbufLost h
  else
    let bytes := b.sampleRec h mask fr x
    let w := b.get .telSbufWr h
    let b := (b.put .telSbuf (leNat bytes) h w).put .telSbufWr ((w + 1) % 4096) h
    let b := { b with tel := { b.tel with
      unread := b.tel.unread.put h (min 4096 (b.tel.unread.at h 0 + 1))
      smpSeq := b.tel.smpSeq.put h ((b.tel.smpSeq.at h 0 + 1) % 2 ^ 32) } }
    if b.get .telSbufExport h = 1 then b.exportRec 2 0x06 bytes else b

/-- `SBUF_RD` names the last record read: those after it wait. -/
def Box.sbufRead (b : Box) (h v : Nat) : Box :=
  let n := (b.get .telSbufWr h + 4096 - (v + 1) % 4096) % 4096
  { b.put .telSbufRd v h with tel := { b.tel with unread := b.tel.unread.put h n } }

end Sys2Proof.Machine
end

