-- ==== Sys2Proof/Machine/Lanes.lean ====
section
/-!
DEFINITION. Fibre ports and lanes: widths, training, ordered sets, loss of light and the exchange that moves a colour
to an alias slot and back (R82 to R122, R144 to R147, R683), and the scores that lane events count in (R594).
-/
namespace Sys2Proof.Machine

/-! ### Lanes -/

/-- States of a lane (R98). -/
def lnDark : Nat := 0
@[inherit_doc lnDark] def lnDetect : Nat := 1
@[inherit_doc lnDark] def lnEq : Nat := 2
@[inherit_doc lnDark] def lnCap : Nat := 3
@[inherit_doc lnDark] def lnQual : Nat := 4
@[inherit_doc lnDark] def lnUp : Nat := 5
@[inherit_doc lnDark] def lnDraining : Nat := 6
@[inherit_doc lnDark] def lnFault : Nat := 7

/-- The state of a physical lane. -/
def Box.lnState (b : Box) (f s : Nat) : Nat := b.get .prtLaneState f s

/-- Whether a physical lane is UP. -/
def Box.laneUp (b : Box) (f s : Nat) : Bool := b.lnState f s == lnUp

/-- Whether frames can still arrive on a physical lane: it is UP, or it drains and the partner's light has not gone (R98,
R119). -/
def Box.lnRx (b : Box) (f s : Nat) : Bool := b.laneUp f s || b.lnState f s == lnDraining

/-- The lane and its electronics are idle: DARK or FAULT (R94, R122, R659). -/
def Box.laneIdle (b : Box) (f s : Nat) : Bool := b.lnState f s == lnDark || b.lnState f s == lnFault

/-- Halves that a power state holds dark, or whose rails are off (R560, R565, R574). -/
def Box.darkHalf (b : Box) (h : Nat) : Bool :=
  let c := b.get .pwrPsState % 8
  c == 4 || (c == 2 && h == 1) || (c == 3 && h == 0) || b.pwr.off.contains h

/-- Whether a reset of a half or of the module is in force (R588). -/
def Box.halfReset (b : Box) (h : Nat) : Bool :=
  b.mar.resets.any (fun r => decide (6 ≤ r.domain) || (r.domain == 5 && r.inst == h))

/-- A colour whose transmit slot a bypass circuit occupies, and one that a bypass passes on arrival (R151). -/
def Box.bypassOut (b : Box) (f w : Nat) : Bool :=
  b.bit .optBypPass w (f / 16) ((f % 16 + 16 - (w + 1) % 16) % 16)
@[inherit_doc Box.bypassOut] def Box.bypassIn (b : Box) (f w : Nat) : Bool := b.bit .optBypPass w (f / 16) (f % 16)

/-- Whether a lane's electronics and light may run (R153, R157, R565). -/
def Box.laneMay (b : Box) (f s : Nat) : Bool :=
  !(b.darkHalf (halfOf s)) && !(b.halfReset (halfOf s)) && !(b.opt.dark.find f).isSome && !(b.lane f s).inReset
    && !(decide (s < 8) && (b.bypassOut f s || b.bypassIn f s))

/-- The transmitting spare of a colour in force: the alias slot carries it (R110). -/
def Spare.inForce (sp : Spare) : Bool :=
  match sp.phase with
  | .active | .retPrep | .retReady | .ret _ => true
  | _ => false

/-- Key of a fibre's spare of the parity of a colour. -/
def spareKey (f w : Nat) : Nat := 2 * f + w % 2

/-- The alias slot of a colour (R9). -/
def aliasSlot (w : Nat) : Nat := 8 + w % 2

/-- The physical slot on which a logical lane sends (R10, R110). -/
def Box.txSlot (b : Box) (f w : Nat) : Nat :=
  match b.opt.spareTx.find (spareKey f w) with
  | some sp => if sp.w = w ∧ sp.inForce then aliasSlot w else w
  | none => w

/-- The physical slot on which a logical lane arrives (R110). -/
def Box.rxSlot (b : Box) (f w : Nat) : Nat :=
  match b.opt.spareRx.find (spareKey f w) with
  | some sp => if sp.w = w ∧ sp.inForce then aliasSlot w else w
  | none => w

/-- The colour that frames on a physical slot belong to, none for an alias slot in no use: a spare in either
direction names it (R110, R113). Around a switch both slots are accepted. -/
def Box.rxColour (b : Box) (f s : Nat) : Option Nat :=
  if s < 8 then some s
  else match b.opt.spareRx.find (spareKey f (s % 2)) with
    | some sp =>
      match sp.phase with
      | .go l => if l ≤ b.lap + 1 then some sp.w else none
      | .closing l => if b.lap ≤ l then some sp.w else none
      | .prep | .ready => none
      | _ => some sp.w
    | none => none

/-- The data colour a slot trains for (R106): its own, or that of the spare on it. -/
def Box.slotColour (b : Box) (f s : Nat) : Nat :=
  if s < 8 then s
  else match b.opt.spareTx.find (spareKey f (s % 2)), b.opt.spareRx.find (spareKey f (s % 2)) with
    | some sp, _ => sp.w
    | none, some sp => sp.w
    | none, none => s % 2

/-- LOGICAL_W of an alias slot: the transmit colour, else the receive colour, else none (R113). -/
def Box.showAlias (b : Box) (f par : Nat) : Box :=
  let inF (sp : Option Spare) := match sp with | some sp => if sp.inForce then some sp.w else none | none => none
  b.put .prtLaneLogicalW
    ((((inF (b.opt.spareTx.find (2 * f + par))).orElse fun _ => inF (b.opt.spareRx.find (2 * f + par))).getD 15))
    f (8 + par)

/-- An UP slot of a fibre on which an ordered set can be sent (R108). -/
def Box.anyUp (b : Box) (f : Nat) : Option Nat := (upTo 10).find? (fun s => b.laneUp f s)

/-- Send an ordered set on a lane. -/
def Box.os (b : Box) (f s type_ index arg : Nat) : Box := b.emit (.os f s (type_ * 16 + index) [arg])

/-- Record the ordered set a lane acted on (R96). -/
def Box.osRx (b : Box) (f s type_ index arg : Nat) : Box :=
  b.put .prtLaneOsRx ((type_ * 16 + index) * 65536 + arg) f s

/-! ### Ports -/

/-- The 400 G port of a logical lane, and its two lanes, even colour first (R8). -/
def portOf (l : Nat) : Nat := fibreOf l * 4 + colourOf l / 2
@[inherit_doc portOf] def portLanes (n : Nat) : List Nat := [2 * n, 2 * n + 1]

/-- The 400 G ports of the logical port that contains port `n` (R88). -/
def Box.portSpan (b : Box) (n : Nat) : List Nat :=
  match b.get .prtWidth (n / 4) (n % 4 / 2) with
  | 0 => [n]
  | 1 => [n / 2 * 2, n / 2 * 2 + 1]
  | _ => range' (n / 4 * 4) 4

/-- Whether the port is striped (R89). -/
def Box.striped (b : Box) (n : Nat) : Bool := b.get .prtBond (n / 4) (n % 4 / 2) == 1

/-- A logical lane's congestion value is 3 for this lap (R247). -/
def Box.cmForce (b : Box) (l : Nat) : Box := { b with pac := { b.pac with forced := with_ b.pac.forced l } }

/-- Fence ports (R583). -/
def Box.fencePorts (b : Box) (l : List Nat) : Box :=
  b.each l (fun b n => b.each (portLanes n) Box.cmForce |>.put .marPsFence 1 n)

/-- Points of an event on a port (R594). -/
def Box.scorePort (b : Box) (n e : Nat) : Box :=
  { b with mar := { b.mar with portPts := b.mar.portPts.upd n 0 (· + b.get .marPts e) } }

/-- Points of an event on a logical lane, which count for its port too (R594). -/
def Box.scoreLane (b : Box) (l e : Nat) : Box :=
  ({ b with mar := { b.mar with lanePts := b.mar.lanePts.upd l 0 (· + b.get .marPts e) } }).scorePort (portOf l) e

/-- The PLID that a lane's partner reported; 0 before any (R100, R103). -/
def Box.peerPlid (b : Box) (f s : Nat) : Nat := b.get .prtLanePeerCap f s % 2 ^ 32

/-! ### Training -/

/-- CRC-8 with polynomial 0x07 over a byte, and over seven bytes (R100). -/
def crc8Bit : Nat → Nat → Nat
  | 0, c => c
  | n + 1, c => crc8Bit n (if c ≥ 128 then (c * 2 % 256) ^^^ 0x07 else c * 2)
@[inherit_doc crc8Bit] def crc8 (l : List Nat) : Nat := l.foldl (fun c x => crc8Bit 8 (c ^^^ x)) 0

/-- The check byte of a capability message (R100). -/
def capCrc (m : Nat) : Nat := crc8 ((upTo 7).map (fun i => m / 2 ^ (8 * (6 - i)) % 256))

/-- Whether this end allows KL-FEC on a lane (R89, R101). -/
def Box.klOwn (b : Box) (f s : Nat) : Bool :=
  b.get .prtLaneFecReq f s != 0 && !(b.lane f s).rsOnly && !(b.striped (portOf (laneOf f (b.slotColour f s))))

/-- The module's own capability message on a lane (R100): role spine, alias capable both ways. -/
def Box.ownCap (b : Box) (f s : Nat) : Nat :=
  let m := b.sec.plid + 2 ^ 32 + flag (b.klOwn f s) * 2 ^ 33 + flag (b.klOwn f s) * 2 ^ 34 + 2 ^ 35 + 2 ^ 36 + 2 * 2 ^ 37
    + b.get .prtCrouterN f * 2 ^ 40 + b.get .prtCrouterPos f * 2 ^ 42 + s * 2 ^ 44
  m + capCrc m * 2 ^ 56

/-- Enter a training state. -/
def Box.lnGo (b : Box) (f s st : Nat) : Box :=
  (b.when (st != lnUp) (fun b => b.cmForce (laneOf f (b.slotColour f s)))).put .prtLaneState st f s

/-- Start training from DETECT (R98). -/
def Box.detect (b : Box) (f s : Nat) : Box :=
  (((b.lnGo f s lnDetect).setLane f s (fun x => { x with relight := false, retryWait := false })).emit (.light f s true)).emit
    (.train f s)

/-- A pass failed in a state: DETECT again, or FAULT after three (R99). -/
def Box.passFail (b : Box) (f s : Nat) : Box :=
  let st := b.lnState f s
  let b := b.setBit .prtLaneTrainFail st f s
  let n := (b.lane f s).fails + 1
  if n ≥ 3 then
    (((b.lnGo f s lnFault).setLane f s (fun x => { x with fails := 0, retryWait := false })).emit (.light f s false)).raise
      (halfOf s) .prtLaneTrainFail (phys f s) sevError 0 st
  else (b.lnGo f s lnDetect).setLane f s (fun x => { x with fails := n, retryWait := true })

/-- The lane cannot run as FEC_REQ requires (R101). -/
def Box.fecFault (b : Box) (f s : Nat) : Box :=
  ((b.setBit .prtLaneTrainFail (b.lnState f s) f s).lnGo f s lnFault).emit (.light f s false)
    |>.raise (halfOf s) .prtLaneFecMode (phys f s) sevError 0

/-- The router size code and position a partner must report (R106). -/
def Box.routerOk (b : Box) (f s msg : Nat) : Bool :=
  let n := b.get .prtCrouterN f
  let w := b.slotColour f s
  bits msg 41 40 == n
    && (n == 0 || bits msg 43 42 == (b.get .prtCrouterPos f + w * 2 ^ n / 8) % 2 ^ n)

/-- Without a board record, CTL finds a host-bridge fibre by a partner's role: its lanes go dark, its MODE becomes 1 and
the lanes train again (R548). -/
def Box.hostFound (b : Box) (f : Nat) : Box :=
  let l := (upTo 10).filter (fun s => !b.laneIdle f s)
  let b := b.each l (fun b s => (b.lnGo f s lnDark).emit (.light f s false))
  (b.put .prtMode 1 f).each l (fun b s => if b.laneMay f s then b.detect f s else b)

/-- A capability message in CAP (R100, R101, R106). A message whose CRC fails changes nothing. -/
def Box.capRx (b : Box) (f s msg : Nat) : Box :=
  if b.lnState f s ≠ lnCap ∨ capCrc msg ≠ msg / 2 ^ 56 then b
  else
    let b := b.put .prtLanePeerCap msg f s
    if b.sec.board = [] ∧ b.get .prtMode f = 0 ∧ bits msg 39 37 = 3 ∧ b.ctlRuns = true then b.hostFound f
    else if !b.routerOk f s msg then b.raise (halfOf s) .prtLanePeerCap (phys f s) sevError 0
    else
      let kl := b.klOwn f s && bitAt msg 33
      let want := b.get .prtLaneFecReq f s != 0
      if !kl && b.get .prtLaneFecReq f s == 2 then b.fecFault f s
      else (b.put .prtLaneFecMode (flag kl + 2 * flag (want && !kl)) f s).lnGo f s lnQual

/-- Partners of one logical port that report different PLIDs: every port it contains is fenced (R103, R583). -/
def Box.plidCheck (b : Box) (f s : Nat) : Box :=
  let n := portOf (laneOf f (b.slotColour f s))
  let span := b.portSpan n
  let plids := (span.flatMap portLanes).filterMap (fun l =>
    let s' := b.rxSlot f (colourOf l)
    if b.laneUp f s' ∧ b.peerPlid f s' ≠ 0 then some (b.peerPlid f s') else none)
  match plids.find? (· != b.peerPlid f s) with
  | some p => (b.fencePorts span).raise (halfOf s) .marPsFence n sevError 6 (p * 2 ^ 32 + b.peerPlid f s)
  | none => b

/-- QUAL ends (R98, R101). -/
def Box.qualEnd (b : Box) (f s : Nat) (pass : Bool) : Box :=
  if b.lnState f s ≠ lnQual then b
  else if pass then
    ((b.lnGo f s lnUp).setLane f s (fun x => { x with fails := 0, drained := false, holdDark := false })).plidCheck f s
  else if b.get .prtLaneFecMode f s % 2 = 1 then
    if b.get .prtLaneFecReq f s = 2 then b.fecFault f s
    else (((b.setBit .prtLaneTrainFail lnQual f s).put .prtLaneFecMode 2 f s).setLane f s
      (fun x => { x with rsOnly := true })).lnGo f s lnDetect
  else b.passFail f s

/-- CMD = TRAIN (R98, R683): a DARK, FAULT or DRAINING lane starts training where its light may run; a lane that
trains or is UP goes on (DEDUCED, log 13). -/
def Box.cmdTrain (b : Box) (f s : Nat) : Box :=
  let b := (b.put .prtLaneCmd 1 f s).setLane f s (fun x => { x with holdDark := false, heldOut := false, fails := 0, rsOnly := false })
  if (b.laneIdle f s || b.lnState f s == lnDraining) && b.laneMay f s then b.detect f s else b

/-- CMD = DRAIN or DARK (R683): DRAIN is sent with the argument 2 µs. -/
def Box.cmdDarken (b : Box) (f s cmd : Nat) : Box :=
  let b := b.put .prtLaneCmd cmd f s
  let mark (x : LaneSt) : LaneSt := { x with relight := cmd == 2, holdDark := cmd == 3 }
  if b.lnState f s = lnFault then b
  else if b.lnState f s = lnDark then (if cmd = 3 then b.setLane f s mark else b)
  else ((b.lnGo f s lnDraining).setLane f s mark).os f s 8 s 2

/-! ### Spares -/

/-- Change a transmit spare. -/
def Box.setTx (b : Box) (key : Nat) (sp : Spare) : Box :=
  { b with opt := { b.opt with spareTx := b.opt.spareTx.put key sp } }

/-- Change a receive spare. -/
def Box.setRx (b : Box) (key : Nat) (sp : Spare) : Box :=
  { b with opt := { b.opt with spareRx := b.opt.spareRx.put key sp } }

/-- The laser of a group and parity that is idle and whose bay emits (R124, R144): the lower one first. -/
def Box.freeLaser (b : Box) (g par : Nat) : Option Nat :=
  if b.opt.tune.at g 0 = 4 then [2 * par, 2 * par + 1].find? (fun j => b.get .optTuneLaserCh g j == 15) else none

/-- A laser is tuned to an alias channel; its reference is captured at its first use (R137). -/
def Box.tuneLaser (b : Box) (g j ch : Nat) : Box :=
  let b := b.put .optTuneLaserCh ch g j
  let k := 80 + 4 * g + j
  if ch = 15 ∨ b.opt.refs.contains k then b
  else { b.put .optTuneLaserRef (b.get .optTuneLaserPwr g j) g j with opt := { b.opt with refs := k :: b.opt.refs } }

/-- Rings of an alias slot: the modulator and the spare-feed ring. -/
def Box.aliasRings (b : Box) (f par st : Nat) : Box := (b.put .lckRingState st f (18 + par)).put .lckRingState st f (28 + par)

/-- Show which fibres of a group wait for a spare (R144). -/
def Box.showPend (b : Box) (g : Nat) : Box :=
  b.put .optSparePend ((upTo 16).foldl (fun v i =>
    if b.opt.pend.any (fun r => r.f == 16 * g + i) then v + 2 ^ i else v) 0) g

/-- Whether a colour already has a spare, or a request for one (R144). -/
def Box.hasSpare (b : Box) (f w : Nat) : Bool :=
  (b.opt.spareTx.find (spareKey f w)).any (·.w == w)

/-- Start a spare, or hold the request (R144, R147, R158): it starts only where no bypass occupies the slot, and for
calibration only while no other channel of the group is in calibration (R148; DEDUCED, log 78). -/
def Box.startSpare (b : Box) (f w : Nat) (why : SpareWhy) : Box :=
  let par := w % 2
  let g := f / 16
  let busy := why == .calibration && (b.opt.cal.find g).isSome
  if b.bypassOut f w || b.hasSpare f w then b
  else match (if busy then none else b.freeLaser g par), b.opt.spareTx.find (spareKey f w), b.anyUp f with
    | some j, none, some s =>
      let b := (b.tuneLaser g j (w + 8)).setTx (spareKey f w) ⟨w, .prep, why, j⟩
      let b := if why = .calibration then { b with opt := { b.opt with cal := b.opt.cal.put g (f, w, .sparing) } } else b
      let b := { b with opt := { b.opt with pend := b.opt.pend.filter (fun r => !(r.f == f && r.w == w)) } }
      (((b.aliasRings f par 2).detect f (8 + par)).os f s 3 w (8 + par)).showPend g
    | _, _, _ =>
      if b.opt.pend.any (fun r => r.f == f && r.w == w) then b
      else
        let q : SpareReq := ⟨f, w, why⟩
        let b := ({ b with opt := { b.opt with pend := b.opt.pend ++ [q] } }).showPend g
        if busy then b else b.raise (halfOf w) .optSparePend g sevError 0

/-- The waiting request of a group that starts next: fault triggers before calibration (R144). -/
def Box.nextReq (b : Box) (g par : Nat) : Option SpareReq :=
  let c := b.opt.pend.filter (fun r => r.f / 16 == g && r.w % 2 == par
    && (r.why == .fault || (b.opt.cal.find g).isNone))
  (c.find? (fun r => r.why == .fault)).orElse (fun _ => c.head?)

/-- A slot or laser became free: the next waiting request of the group and parity starts (R144). -/
def Box.spareNext (b : Box) (g par : Nat) : Box :=
  match b.nextReq g par with
  | some r =>
    let b := { b with opt := { b.opt with pend := b.opt.pend.erase r } }
    (b.startSpare r.f r.w r.why).showPend g
  | none => b

/-- A transmit spare ends: its alias slot goes dark, its laser idles, its feed ring parks, the next request starts
(R110, R144, R155). -/
def Box.endTx (b : Box) (f par : Nat) : Box :=
  match b.opt.spareTx.find (2 * f + par) with
  | none => b
  | some sp =>
    let b := { b with opt := { b.opt with
      spareTx := b.opt.spareTx.del (2 * f + par)
      cal := match b.opt.cal.find (f / 16) with
        | some (f', w', _) => if f' = f ∧ w' = sp.w then b.opt.cal.del (f / 16) else b.opt.cal
        | none => b.opt.cal } }
    let b := b.tuneLaser (f / 16) sp.laser 15
    let b := (b.put .lckRingState 0 f (18 + par)).put .lckRingState 4 f (28 + par)
    let b := (b.showAlias f par).calDrop 3 (phys f (8 + par)) |>.calDrop 3 (phys f sp.w)
    ((b.lnGo f (8 + par) lnDark).emit (.light f (8 + par) false)).spareNext (f / 16) par

/-- Every pending switch of a fibre, in both directions, is cancelled (R111): the colour stays where it is. -/
def Box.cancelSwitch (b : Box) (f par : Nat) : Box :=
  let b := match b.opt.spareTx.find (2 * f + par) with
    | some sp =>
      match sp.phase with
      | .go _ => b.endTx f par
      | .ret _ => (b.setTx (2 * f + par) { sp with phase := .active }).calDrop 3 (phys f sp.w)
      | _ => b
    | none => b
  match b.opt.spareRx.find (2 * f + par) with
  | some sp =>
    match sp.phase with
    | .go _ => { b with opt := { b.opt with spareRx := b.opt.spareRx.del (2 * f + par) } }
    | .ret _ => b.setRx (2 * f + par) { sp with phase := .active }
    | _ => b
  | none => b

/-- A received SPARE_PREP (R108, R109, R146, R147): the answer goes out on the lane it came on. -/
def Box.sparePrepRx (b : Box) (f s w al : Nat) (canTune : Bool) : Box :=
  let b := b.osRx f s 3 w al
  let key := spareKey f w
  let nak (c : Nat) := b.os f s 5 w c
  if al ≠ aliasSlot w ∨ b.bypassIn f w then nak 2
  else match b.opt.spareRx.find key with
    | none => if canTune then (b.setRx key ⟨w, .ready, .fault, 0⟩).os f s 4 w al else nak 2
    | some sp =>
      match sp.phase with
      | .go _ | .ret _ | .closing _ => nak 3
      | .active | .retPrep | .retReady =>
        if sp.w ≠ w then nak 1
        else if canTune then (b.setRx key { sp with phase := .retReady }).os f s 4 w al else nak 2
      | .prep | .ready =>
        if canTune then (b.setRx key ⟨w, .ready, .fault, 0⟩).os f s 4 w al else nak 2

/-- A received SPARE_READY (R110, R145): the lap named is 9 ahead, and the switch is armed for it (DEDUCED, log 79). -/
def Box.spareReadyRx (b : Box) (f s w al : Nat) : Box :=
  let b := b.osRx f s 4 w al
  let key := spareKey f w
  let lap := b.lap + 9
  match b.opt.spareTx.find key with
  | some sp =>
    if sp.w ≠ w then b
    else match sp.phase with
      | .prep | .ready =>
        match b.calArm lap 3 (phys f (aliasSlot w)) with
        | some b => (b.setTx key { sp with phase := .go lap }).os f s 6 w (lap % 65536)
        | none => b.setTx key { sp with phase := .ready }
      | .retPrep | .retReady =>
        match b.calArm lap 3 (phys f w) with
        | some b => (b.setTx key { sp with phase := .ret lap }).os f s 7 w (lap % 65536)
        | none => b.setTx key { sp with phase := .retReady }
      | _ => b
  | none => b

/-- A received SPARE_NAK (R109): the colour stays on its slot. -/
def Box.spareNakRx (b : Box) (f s w cause : Nat) : Box :=
  let b := b.osRx f s 5 w cause
  match b.opt.spareTx.find (spareKey f w) with
  | some sp =>
    if sp.w ≠ w then b
    else match sp.phase with
      | .prep | .ready | .go _ => b.endTx f (w % 2)
      | .retPrep | .retReady | .ret _ =>
        (b.setTx (spareKey f w) { sp with phase := .active }).calDrop 3 (phys f w)
      | _ => b
  | none => b

/-- The first lap at or after the present one whose low 16 bits are the argument (R97). -/
def Box.namedLap (b : Box) (arg : Nat) : Nat := b.lap + (arg + 65536 - b.lap % 65536) % 65536

/-- A received SPARE_GO (R97, R110). -/
def Box.spareGoRx (b : Box) (f s w arg : Nat) : Box :=
  let b := b.osRx f s 6 w arg
  let lap := b.namedLap arg
  if lap < b.lap + 2 then b.os f s 5 w 3
  else match b.opt.spareRx.find (spareKey f w) with
    | some sp => if sp.w = w ∧ sp.phase = .ready then b.setRx (spareKey f w) { sp with phase := .go lap } else b
    | none => b

/-- A received SPARE_RETURN (R97, R110). -/
def Box.spareReturnRx (b : Box) (f s w arg : Nat) : Box :=
  let b := b.osRx f s 7 w arg
  let lap := b.namedLap arg
  if lap < b.lap + 2 then b.os f s 5 w 3
  else match b.opt.spareRx.find (spareKey f w) with
    | some sp => if sp.w = w ∧ sp.phase = .retReady then b.setRx (spareKey f w) { sp with phase := .ret lap } else b
    | none => b

/-! ### Light and ordered sets of the partner -/

/-- Whether a lane of the fibre from the same partner saw RIP in the last 10 µs (R591). -/
def Box.ripRecent (b : Box) (f s : Nat) : Bool :=
  (upTo 10).any (fun s' =>
    b.peerPlid f s' == b.peerPlid f s
      && (b.lane f s').ripNs.any (fun t => decide (b.ns ≤ t + 10000)))

/-- What ends with a lane's light or service: MAC merge and the partner's keepalives are no longer known (R386). -/
def Box.laneLost (b : Box) (f s : Nat) : Box :=
  b.setLane f s (fun x => { x with merge := false, kaNs := none, kaState := 0, drained := false })

/-- A drop ring without light holds its heater (R132). -/
def Box.dropHold (b : Box) (f s : Nat) : Box :=
  if b.get .lckRingState f s = 2 then b.put .lckRingState 3 f s else b

/-- The alias slot lost light (R111, R112): a pending switch is cancelled; a colour on it returns to its data slot at
the next lap when that slot is UP, and is down otherwise. -/
def Box.aliasLost (b : Box) (f par : Nat) : Box :=
  let b := b.cancelSwitch f par
  match b.opt.spareRx.find (2 * f + par) with
  | some sp =>
    if sp.inForce then
      if b.laneUp f sp.w then { b with opt := { b.opt with back := (f, sp.w) :: b.opt.back } }
      else { b with opt := { b.opt with spareRx := b.opt.spareRx.del (2 * f + par) } }.showAlias f par
    else b
  | none => b

/-- Loss of light (R114, R119, R120, R591). A lane that is DARK or in FAULT has no light to lose. -/
def Box.lossOfLight (b : Box) (f s : Nat) : Box :=
  if b.laneIdle f s then b
  else
    let quiet := (b.lane f s).drained || b.ripRecent f s
    let l := laneOf f (b.slotColour f s)
    let b := (b.put .prtLaneLol 1 f s).dropHold f s
    let b := if quiet then b else (b.scoreLane l 3).raise (halfOf s) .prtLaneLol (phys f s) sevError 5
    let b := (b.lnGo f s lnDark).setLane f s (fun x => { x with relight := !x.holdDark })
    let b := b.laneLost f s
    if s ≥ 8 then b.aliasLost f (s - 8) else b

/-- Light returns to a DARK lane (R114, R132, R683). -/
def Box.lightReturn (b : Box) (f s : Nat) : Box :=
  let b := if b.get .lckRingState f s = 3 then b.put .lckRingState 1 f s else b
  if b.lnState f s = lnDark ∧ (b.lane f s).relight ∧ !(b.lane f s).holdDark ∧ b.laneMay f s then b.detect f s else b

/-- Data slots whose partner reports the same PLID as that of a slot (R117, R190). -/
def Box.samePartner (b : Box) (f s : Nat) : List (Nat × Nat) :=
  (upTo 128).flatMap (fun f' => (upTo 10).filterMap (fun s' =>
    if b.peerPlid f' s' = b.peerPlid f s then some (f', s') else none))

/-- A RIP set acted on (R111, R117, R247, R590, R591; DEDUCED, log 67). -/
def Box.ripRx (b : Box) (f s index arg : Nat) : Box :=
  let b := (b.osRx f s 2 index arg).put .prtLaneRipSeen 1 f s
  let b := b.setLane f s (fun x => { x with rip := index, ripNs := some b.ns })
  let b := b.each (if 1 ≤ index ∧ index ≤ 4 then b.samePartner f s else [(f, s)])
    (fun b q => b.cmForce (laneOf q.1 (b.slotColour q.1 q.2)))
  (b.cancelSwitch f 0).cancelSwitch f 1

/-- 100 µs after the last copy the lane is eligible again; a retry lane's receiver names what it expects
(R117, R590). -/
def Box.ripEnd (b : Box) (f s : Nat) : Box :=
  let was := (b.lane f s).rip
  let b := b.setLane f s (fun x => { x with rip := 0 })
  if 1 ≤ was ∧ was ≤ 4 ∧ b.laneUp f s ∧ b.get .prtLaneRplEn f s = 1 then
    (b.emit (.nak f s (b.retry.at (phys f s) {}).rxExp)).bump .prtLaneRplNakTx f s
  else b

/-- A DRAIN set acted on: the slot it names goes to DRAINING, out of spraying (R119). -/
def Box.drainRx (b : Box) (f s dark us : Nat) : Box :=
  let b := (b.osRx f s 8 dark us).setLane f dark (fun x => { x with drained := true, relight := true })
  if b.laneIdle f dark then b else b.lnGo f dark lnDraining

/-! ### Widths and bonding (R88 to R94, R105) -/

/-- Half-fibres that are striped, each 800 Gb/s (R91). -/
def Box.stripedHalves (b : Box) : Nat := (b.regs.filter (fun e => e.1.reg == .prtBond && e.2 == 1)).length

/-- Whether a half-fibre is running: a lane of it is in a state other than DARK or FAULT (R94). -/
def Box.halfRunning (b : Box) (f h : Nat) : Bool := (range' (4 * h) 4).any (fun s => !b.laneIdle f s)

/-- Whether some lane of a fibre is in a state other than DARK or FAULT (R659). -/
def Box.fibreRunning (b : Box) (f : Nat) : Bool := (upTo 10).any (fun s => !b.laneIdle f s)

/-- Whether a width fits the router of a fibre (R105): code 1 spans two pairs, code 2 one. -/
def widthFits (n width : Nat) : Bool := decide (n = 0) || decide (n + width ≤ 2)

/-- A write to WIDTH[h] (R88). -/
def Box.writeWidth (b : Box) (f h v : Nat) : Nat × Box :=
  let six := b.get .prtWidth f 0 == 2
  let both := v == 2 || six
  let b' := if v = 2 then (((b.put .prtWidth 2 f 0).put .prtWidth 2 f 1).put .prtBond (b.get .prtBond f 0) f 1)
    else if six then (b.put .prtWidth v f h).put .prtWidth 0 f (1 - h)
    else b.put .prtWidth v f h
  if v > 2 ∨ b.halfRunning f h ∨ (both ∧ b.halfRunning f (1 - h)) ∨ !widthFits (b.get .prtCrouterN f) v
    ∨ b'.stripedHalves > 4 then (1, b)
  else (0, b')

/-- A write to BOND[h] (R89, R91, R94). -/
def Box.writeBond (b : Box) (f h v : Nat) : Nat × Box :=
  let six := b.get .prtWidth f 0 == 2
  let b' := if six then (b.put .prtBond v f 0).put .prtBond v f 1 else b.put .prtBond v f h
  if b.halfRunning f h ∨ (six ∧ b.halfRunning f (1 - h)) ∨ b'.stripedHalves > 4 then (1, b) else (0, b')

/-- A write to CROUTER_N (R105, R659). -/
def Box.writeCrouterN (b : Box) (f v : Nat) : Nat × Box :=
  if v > 2 ∨ b.fibreRunning f ∨ !widthFits v (b.get .prtWidth f 0) ∨ !widthFits v (b.get .prtWidth f 1) then (1, b)
  else (0, b.put .prtCrouterN v f)

/-- A write to FEC_REQ (R122). -/
def Box.writeFecReq (b : Box) (f s v : Nat) : Nat × Box :=
  if v > 2 ∨ !b.laneIdle f s then (1, b) else (0, b.put .prtLaneFecReq v f s)

/-- A write to PRT[f].LANE[s].CMD (R98, R683). -/
def Box.writeLaneCmd (b : Box) (f s v : Nat) : Nat × Box :=
  match v with
  | 0 => (0, b.put .prtLaneCmd 0 f s)
  | 1 => (0, b.cmdTrain f s)
  | _ => (0, b.cmdDarken f s v)

/-! ### The commands -/

/-- `PRT[f].WIDTH[h]` written. -/
def execPortWidthWrite (src : Src) (f : Fibre) (h : Half) (v : BitVec 2) (s : State) : Host.Outcome State Fault Refusal :=
  act (fun b => b.regWrite src (fun b => b.writeWidth f h v.toNat)) s

/-- `PRT[f].BOND[h]` written. -/
def execPortBondWrite (src : Src) (f : Fibre) (h : Half) (v : BitVec 1) (s : State) : Host.Outcome State Fault Refusal :=
  act (fun b => b.regWrite src (fun b => b.writeBond f h v.toNat)) s

/-- `PRT[f].CROUTER_N` written. -/
def execCrouterNWrite (src : Src) (f : Fibre) (v : BitVec 2) (s : State) : Host.Outcome State Fault Refusal :=
  act (fun b => b.regWrite src (fun b => b.writeCrouterN f v.toNat)) s

/-- `PRT[f].LANE[s].FEC_REQ` written. -/
def execFecReqWrite (src : Src) (f : Fibre) (sl : Slot) (v : BitVec 2) (s : State) : Host.Outcome State Fault Refusal :=
  act (fun b => b.regWrite src (fun b => b.writeFecReq f sl v.toNat)) s

/-- Lane CMD = 1. -/
def execLaneTrain (src : Src) (f : Fibre) (sl : Slot) (s : State) : Host.Outcome State Fault Refusal :=
  act (fun b => b.regWrite src (fun b => b.writeLaneCmd f sl 1)) s

/-- Lane CMD = 2. -/
def execLaneDrain (src : Src) (f : Fibre) (sl : Slot) (s : State) : Host.Outcome State Fault Refusal :=
  act (fun b => b.regWrite src (fun b => b.writeLaneCmd f sl 2)) s

/-- Lane CMD = 3. -/
def execLaneDark (src : Src) (f : Fibre) (sl : Slot) (s : State) : Host.Outcome State Fault Refusal :=
  act (fun b => b.regWrite src (fun b => b.writeLaneCmd f sl 3)) s

/-- A power transition ends when no lane drains any longer (R565). -/
def Box.psSettle (b : Box) : Box :=
  if b.regs.any (fun e => e.1.reg == .prtLaneState && e.2 == lnDraining) then b else b.clrBit .pwrPsState 3

/-- The light of a DRAINING lane goes off (R683); an alias slot whose colour has returned is free again (R146). -/
def Box.lightOff (b : Box) (f s : Nat) : Box :=
  if b.lnState f s ≠ lnDraining then b
  else
    let b := (((b.lnGo f s lnDark).laneLost f s).emit (.light f s false)).psSettle
    match b.opt.spareTx.find (2 * f + (s - 8)) with
    | some ⟨_, .closing _, _, _⟩ => if s ≥ 8 then b.endTx f (s - 8) else b
    | _ => b

/-- The announced time of a DRAINING lane has passed. -/
def execLaneLightOff (f : Fibre) (sl : Slot) (s : State) : Host.Outcome State Fault Refusal :=
  act (fun b => b.lightOff f sl) s

/-- DETECT found light and clock. -/
def execLaneDetectDone (f : Fibre) (sl : Slot) (s : State) : Host.Outcome State Fault Refusal :=
  act (fun b => if b.lnState f sl = lnDetect ∧ !(b.lane f sl).retryWait then b.lnGo f sl lnEq else b) s

/-- The equaliser has adapted: CAP begins and the own message is sent. -/
def execLaneEqDone (f : Fibre) (sl : Slot) (s : State) : Host.Outcome State Fault Refusal :=
  act (fun b => if b.lnState f sl = lnEq then (b.lnGo f sl lnCap).emit (.cap f sl (b.ownCap f sl)) else b) s

/-- A partner's capability message, acknowledged both ways. -/
def execCapabilityMessage (f : Fibre) (sl : Slot) (msg : BitVec 64) (s : State) : Host.Outcome State Fault Refusal :=
  act (fun b => b.capRx f sl msg.toNat) s

/-- QUAL's measurement ends. -/
def execLaneQualDone (f : Fibre) (sl : Slot) (pass : Bool) (s : State) : Host.Outcome State Fault Refusal :=
  act (fun b => b.qualEnd f sl pass) s

/-- The MAC merge verify procedure completes on an UP KL-FEC lane (R387). -/
def execMacMergeVerify (f : Fibre) (sl : Slot) (s : State) : Host.Outcome State Fault Refusal :=
  act (fun b => if b.laneUp f sl ∧ b.get .prtLaneFecMode f sl % 2 = 1 then
    b.setLane f sl (fun x => { x with merge := true }) else b) s

/-- A training state's time is over. QUAL in KL-FEC mode that runs out has failed QUAL (R101). -/
def execLaneStateTimeout (f : Fibre) (sl : Slot) (s : State) : Host.Outcome State Fault Refusal :=
  act (fun b => if b.lnState f sl = lnQual then b.qualEnd f sl false
    else if 1 ≤ b.lnState f sl ∧ b.lnState f sl ≤ 3 then b.passFail f sl else b) s

/-- One second after a failed pass the next one starts. -/
def execLaneRetryTimer (f : Fibre) (sl : Slot) (s : State) : Host.Outcome State Fault Refusal :=
  act (fun b => if (b.lane f sl).retryWait then
    (b.setLane f sl (fun x => { x with retryWait := false })).emit (.train f sl) else b) s

/-- Receive power stayed below the threshold for 1 µs. -/
def execLossOfLight (f : Fibre) (sl : Slot) (s : State) : Host.Outcome State Fault Refusal :=
  act (fun b => b.lossOfLight f sl) s

/-- Light is back. -/
def execLightReturn (f : Fibre) (sl : Slot) (s : State) : Host.Outcome State Fault Refusal :=
  act (fun b => b.lightReturn f sl) s

/-- A RIP set is acted on. -/
def execRip (f : Fibre) (sl : Slot) (index : BitVec 4) (arg : BitVec 16) (s : State) : Host.Outcome State Fault Refusal :=
  act (fun b => b.ripRx f sl index.toNat arg.toNat) s

/-- 100 µs have passed since the last RIP copy. -/
def execRipExclusionEnd (f : Fibre) (sl : Slot) (s : State) : Host.Outcome State Fault Refusal :=
  act (fun b => b.ripEnd f sl) s

/-- A DRAIN set is acted on. -/
def execDrain (f : Fibre) (sl : Slot) (dark : Slot) (us : BitVec 16) (s : State) : Host.Outcome State Fault Refusal :=
  act (fun b => b.drainRx f sl dark us.toNat) s

/-- A SPARE_PREP set is acted on; `canTune` says whether the receive ring can be tuned to the slot. -/
def execSparePrep (f : Fibre) (sl : Slot) (w : Colour) (al : BitVec 16) (canTune : Bool) (s : State) :
    Host.Outcome State Fault Refusal :=
  act (fun b => b.sparePrepRx f sl w al.toNat canTune) s

/-- A SPARE_READY set is acted on. -/
def execSpareReady (f : Fibre) (sl : Slot) (w : Colour) (al : BitVec 16) (s : State) : Host.Outcome State Fault Refusal :=
  act (fun b => b.spareReadyRx f sl w al.toNat) s

/-- A SPARE_NAK set is acted on. -/
def execSpareNak (f : Fibre) (sl : Slot) (w : Colour) (cause : BitVec 16) (s : State) : Host.Outcome State Fault Refusal :=
  act (fun b => b.spareNakRx f sl w cause.toNat) s

/-- A SPARE_GO set is acted on. -/
def execSpareGo (f : Fibre) (sl : Slot) (w : Colour) (lap16 : BitVec 16) (s : State) : Host.Outcome State Fault Refusal :=
  act (fun b => b.spareGoRx f sl w lap16.toNat) s

/-- A SPARE_RETURN set is acted on. -/
def execSpareReturn (f : Fibre) (sl : Slot) (w : Colour) (lap16 : BitVec 16) (s : State) :
    Host.Outcome State Fault Refusal :=
  act (fun b => b.spareReturnRx f sl w lap16.toNat) s

end Sys2Proof.Machine
end

