-- ==== Sys2Proof/Machine/Light.lean ====
section
/-!
DEFINITION. Light control: ring lock, comb and tunable cartridges, the switch of a group to a bench comb, calibration
and bypass (R123 to R161, R669 to R671).
-/
namespace Sys2Proof.Machine

/-! ### Rings (R123 to R134) -/

/-- States of a ring (R132). -/
def rgOff : Nat := 0
@[inherit_doc rgOff] def rgSweep : Nat := 1
@[inherit_doc rgOff] def rgLocked : Nat := 2
@[inherit_doc rgOff] def rgHold : Nat := 3
@[inherit_doc rgOff] def rgParked : Nat := 4
@[inherit_doc rgOff] def rgUnlocked : Nat := 5
@[inherit_doc rgOff] def rgFault : Nat := 6

/-- The half of a ring: that of its slot or colour (R123). -/
def ringHalf (j : Nat) : Nat := j % 2

/-- Whether OPT of a half runs (R514, R518): core 3 north, 8 south. -/
def Box.optRuns (b : Box) (h : Nat) : Bool := b.get .fwmCoreState (3 + 5 * h) == 2

/-- Heater power of a half, µW. -/
def Box.heatOf (b : Box) (h : Nat) : Nat :=
  (b.regs.filter (fun e => e.1.reg == .lckRingHeat && ringHalf e.1.j == h)).foldl (fun a e => a + e.2) 0

/-- The lock loop's update of one ring: the error measured and the heater power wanted, clamped by the guard per ring
and held per half (R127, R158, R533). A clamp that begins is an action of the guard (DESIGN CHOICE, log 80). -/
def Box.lockSample (b : Box) (f j err want : Nat) : Box :=
  let st := b.get .lckRingState f j
  if st ≠ rgSweep ∧ st ≠ rgLocked ∧ st ≠ rgHold then b
  else
    let b := if st = rgHold then b else b.put .lckRingErrPm err f j
    let old := b.get .lckRingHeat f j
    let cap := b.get .grdEnvRingMw * 100
    let v := min want cap
    let held := decide (old < v) && decide (b.get .grdEnvHeatW * 1000000 ≤ b.heatOf (ringHalf j))
    let b := if want > cap ∧ old ≠ cap then b.guardAct (ringHalf j) 2 else b
    let b := if held then (if b.bit .grdEvent 3 then b else b.guardAct (ringHalf j) 3) else b.put .lckRingHeat v f j
    let (n, b) := b.fresh
    b.put .lckHrMin (min (b.get .lckHrMin) (n % 4096))

/-- A ring's photocurrent stayed low for ten samples (R133). -/
def Box.ringUnlock (b : Box) (f j : Nat) : Box :=
  if b.get .lckRingState f j = rgLocked then b.put .lckRingState rgUnlocked f j else b

/-- A ring reaches its target (R132). -/
def Box.ringLock (b : Box) (f j : Nat) : Box :=
  if [rgSweep, rgHold, rgUnlocked].contains (b.get .lckRingState f j) then b.put .lckRingState rgLocked f j else b

/-- A ring did not relock within 500 µs (R133, R134; DEDUCED, log 85). -/
def Box.ringFault (b : Box) (f j : Nat) : Box :=
  if b.get .lckRingState f j ≠ rgUnlocked ∧ b.get .lckRingState f j ≠ rgSweep then b
  else
    let b := (b.put .lckRingState rgFault f j).bump .lckUnlockCnt
    let b := b.raise (ringHalf j) .lckRingState (30 * f + j) sevError 0
    if j < 10 then (b.lnGo f j lnFault).emit (.light f j false)
    else if j < 18 then b.when (b.optRuns (j % 2)) (·.startSpare f (j - 10) .fault)
    else if 20 ≤ j ∧ j < 28 then b.when (b.optRuns (j % 2)) (·.startSpare f (j - 20) .fault)
    else b

/-! ### Combs (R135 to R143) -/

/-- States of a bay (R136). -/
def bayAbsent : Nat := 0
@[inherit_doc bayAbsent] def bayCold : Nat := 1
@[inherit_doc bayAbsent] def bayWarming : Nat := 2
@[inherit_doc bayAbsent] def bayHot : Nat := 3
@[inherit_doc bayAbsent] def bayActive : Nat := 4
@[inherit_doc bayAbsent] def bayFaded : Nat := 5
@[inherit_doc bayAbsent] def bayFault : Nat := 6

/-- The state of bay `n`: comb bays 0 to 9, tunable bay `g` as 10 + `g` (R680). -/
def Box.bay (b : Box) (n : Nat) : Nat := if n < 10 then b.get .optCombState n else b.opt.tune.at (n - 10) 0

/-- A bay enters a state. -/
def Box.setBay (b : Box) (n st : Nat) : Box :=
  if n < 10 then b.put .optCombState st n else { b with opt := { b.opt with tune := b.opt.tune.put (n - 10) st } }

/-- The group that a comb bay feeds (R135). -/
def Box.fedBy (b : Box) (bay : Nat) : Option Nat := (upTo 8).find? (fun g => b.get .optSelSrc g == bay)

/-- A comb bay becomes ACTIVE; at the first time its references are captured (R137). -/
def Box.combActive (b : Box) (bay : Nat) : Box :=
  (b.setBay bay bayActive).each (upTo 8) (fun b w =>
    if b.opt.refs.contains (8 * bay + w) then b
    else { b.put .optCombLineRef (b.get .optCombLinePwr bay w) bay w with
           opt := { b.opt with refs := (8 * bay + w) :: b.opt.refs } })

/-- Whether a bay is warming. -/
def Box.warming (b : Box) : List Nat := (upTo 18).filter (fun n => b.bay n == bayWarming)

/-- Whether warming counts as at start-up: step 6 is not complete (R671). -/
def Box.startWarm (b : Box) : Bool := decide (b.get .fwmStartStep ≤ 6)

/-- A COLD bay warms when the power rule of R671 lets it, else it waits: at start-up every bay but the second bench
bay, in service one bay at a time. -/
def Box.warm (b : Box) (n : Nat) : Box :=
  if b.bay n ≠ bayCold then b
  else
    let may := if b.startWarm then !(n == 9 && (b.bay 8 == bayWarming || b.warming.length > 0)) else b.warming.isEmpty
    if may then b.setBay n bayWarming
    else { b with opt := { b.opt with warmWait := with_ b.opt.warmWait n } }

/-- A bay left WARMING: the next held bay warms (R671). -/
def Box.warmNext (b : Box) : Box :=
  match b.opt.warmWait with
  | [] => b
  | n :: t => if b.warming.isEmpty then ({ b with opt := { b.opt with warmWait := t } }).warm n else b

/-- A bay that group `g` can be switched to: HOT_BENCH and feeding no other group (R135). -/
def Box.hotFor (b : Box) (g : Nat) : Option Nat :=
  [8, 9, g].find? (fun n => b.bay n == bayHot && !(b.fedBy n).any (· != g))

/-- The write to SEL that starts a switch (R140): the group's lanes stop accepting frames. -/
def Box.benchStart (b : Box) (g bay : Nat) : Box :=
  let old := b.get .optSelSrc g
  { b.put .optSelSrc bay g with opt := { b.opt with
      bench := b.opt.bench.put g (old, false), plan := b.opt.plan.del g } }

/-- A write to OPT.SEL[g].SRC (R135). -/
def Box.writeSel (b : Box) (g v : Nat) : Nat × Box :=
  if (v ≠ g ∧ v ≠ 8 ∧ v ≠ 9) ∨ b.bay v ≠ bayHot ∨ (b.fedBy v).any (· != g) then (1, b)
  else (0, b.benchStart g v)

/-- 400 ns after the write the selector moves (R140). -/
def Box.selMove (b : Box) (g : Nat) : Box :=
  match b.opt.bench.find g with
  | some (old, false) =>
    { b with opt := { b.opt with bench := b.opt.bench.put g (old, true) } }.combActive (b.get .optSelSrc g)
  | _ => b

/-- Whether a line of a bay has faded to a threshold, in 0.1 dB, below its reference (R137). -/
def Box.faded (b : Box) (bay w thr : Nat) : Bool :=
  decide ((b.getS .optCombLinePwr bay w) + 10 * (thr : Int) ≤ b.getS .optCombLineRef bay w)

/-- The hold after a switch ends (R140, R136): the lanes accept frames, the bay left behind is FADED or HOT_BENCH, and
the other bench bay warms. -/
def Box.benchEnd (b : Box) (g : Nat) : Box :=
  match b.opt.bench.find g with
  | some (old, true) =>
    let b := { b with opt := { b.opt with bench := b.opt.bench.del g } }
    let b := if b.bay old = bayActive ∧ (b.fedBy old).isNone then
      b.setBay old (if (upTo 8).any (fun w => b.faded old w (b.get .optFadePlanDb)) then bayFaded else bayHot) else b
    if [8, 9].any (fun n => b.bay n == bayHot || b.bay n == bayWarming) then b
    else match [8, 9].find? (fun n => b.bay n == bayCold) with
      | some n => b.warm n
      | none => b
  | _ => b

/-- OPT plans a switch of a group at a lap: a LAP_MARK entry with its own core number (R137, R60; DEDUCED, log 81). -/
def Box.planSwitch (b : Box) (g lap : Nat) : Box :=
  if (b.opt.plan.find g).isSome then b
  else
    let b := (b.calArm lap 7 3).getD b
    { b with opt := { b.opt with plan := b.opt.plan.put g lap } }

/-- The planned lap has come: OPT writes SEL when a bench comb is still hot (R137). -/
def Box.planDue (b : Box) (g : Nat) : Box :=
  let b := { b with opt := { b.opt with plan := b.opt.plan.del g } }
  match b.hotFor g with
  | some bay => if b.optRuns 0 then b.benchStart g bay else b
  | none => b

/-- A comb line fades and no bench comb is hot: the worst lanes go to alias spares (R138). -/
def Box.spareWorst (b : Box) (g w : Nat) (worst : List Nat) : Box :=
  let n := ([0, 1].filter (fun q => b.get .optTuneLaserCh g (2 * (w % 2) + q) == 15)).length
  (b.each (worst.take n) (fun b i => b.startSpare (16 * g + i) w .fault)).raise 0 .optCombLinePwr (8 * g + w) sevError 0

/-- A comb line at the PLAN level (R137). -/
def Box.fadePlanAct (b : Box) (bay w : Nat) : Box :=
  let b := b.raise 0 .optCombLinePwr (8 * bay + w) sevNotice 0
  match b.fedBy bay with
  | some g => if b.optRuns 0 ∧ b.get .optCtrlAutoBench = 1 ∧ (b.hotFor g).isSome then b.planSwitch g (b.lap + 64) else b
  | none => b

/-- A comb line at the CRIT level (R137, R138). -/
def Box.fadeCritAct (b : Box) (bay w : Nat) (worst : List Nat) : Box :=
  match b.fedBy bay with
  | some g =>
    if !b.optRuns 0 then b
    else if (b.hotFor g).isSome then
      ({ b with opt := { b.opt with plan := b.opt.plan.del g } }).planSwitch g (b.lap + 1)
    else b.spareWorst g w worst
  | none => b

/-- A comb line at the LOSS level (R137, R143). -/
def Box.fadeLossAct (b : Box) (bay w : Nat) : Box :=
  match b.fedBy bay with
  | some g =>
    if !b.optRuns 0 then b
    else match b.hotFor g with
      | some n => if (b.opt.bench.find g).isSome then b else b.benchStart g n
      | none => b.spareWorst g w []
  | none => b

/-- The fibre whose spare a tunable laser feeds. -/
def Box.laserFibre (b : Box) (g j : Nat) : Option Nat :=
  (range' (16 * g) 16).find? (fun f => (b.opt.spareTx.find (2 * f + j / 2)).any (·.laser == j))

/-- Start the return of a colour to its data slot (R146): SPARE_PREP on the alias slot. -/
def Box.startReturn (b : Box) (f w : Nat) : Box :=
  match b.opt.spareTx.find (spareKey f w) with
  | some sp =>
    if sp.w = w ∧ sp.phase = .active then
      ((b.setTx (spareKey f w) { sp with phase := .retPrep }).emit (.train f w)).os f (aliasSlot w) 3 w (aliasSlot w)
    else b
  | none => b

/-- A tunable laser at CRIT or LOSS (R139): its colour moves to the other laser, or back to its data slot when that
is trained, and is down otherwise. -/
def Box.laserLost (b : Box) (g j : Nat) : Box :=
  match b.laserFibre g j with
  | none => b
  | some f =>
    match b.opt.spareTx.find (2 * f + j / 2) with
    | none => b
    | some sp =>
      let o := if j % 2 = 0 then j + 1 else j - 1
      if b.get .optTuneLaserCh g o = 15 then
        ((b.tuneLaser g o (sp.w + 8)).tuneLaser g j 15).setTx (2 * f + j / 2) { sp with laser := o }
      else if b.laneUp f sp.w ∧ sp.phase = .active then b.startReturn f sp.w
      else b.endTx f (j / 2)

/-! ### Calibration (R148 to R150) -/

/-- CAL_STEP fires for a data slot (R149, R514): skipped while OPT of its half does not run. -/
def Box.calStep (b : Box) (f s : Nat) : Box :=
  match b.opt.cal.find (f / 16) with
  | some (f', w, _) =>
    if f' = f ∧ w = s then
      if b.optRuns (halfOf s) then
        let b := (b.put .lckRingState rgSweep f (10 + s)).put .lckRingState rgSweep f (20 + s)
        { b with opt := { b.opt with cal := b.opt.cal.put (f / 16) (f, s, .sweeping) } }
      else { b with opt := { b.opt with cal := b.opt.cal.del (f / 16) } }
    else b
  | none => b

/-- New lock temperature and detune of a ring, effective at a lap (R149), and the mark of a low one (R126). -/
def Box.calRing (b : Box) (f j tlock : Nat) : Box :=
  let b := (b.shadowPut .lckRingTlock tlock f j).put .lckRingState rgLocked f j
  if tlock < 2240 then b.put .lckRingLowTlock 1 f j else b

/-- The sweep ends (R149, R150). -/
def Box.calDone (b : Box) (f s detune tMod tGate oma : Nat) : Box :=
  match b.opt.cal.find (f / 16) with
  | some (f', w, .sweeping) =>
    if f' ≠ f ∨ w ≠ s then b
    else
      let b := ((b.calRing f (10 + s) tMod).calRing f (20 + s) tGate).shadowPut .lckRingDetune detune f (10 + s)
      let b := { b with opt := { b.opt with calAt := b.opt.calAt.put (phys f s) b.ns } }
      if toSigned 8 oma < b.getS .optSpareOmaDbm then
        (({ b with opt := { b.opt with cal := b.opt.cal.del (f / 16) } }).lnGo f s lnFault).raise (halfOf s)
          .prtLaneState (phys f s) sevError 0
      else ({ b with opt := { b.opt with cal := b.opt.cal.put (f / 16) (f, s, .returning) } }).startReturn f s
  | _ => b

/-! ### Switches at a lap (R110, R112, R145, R146) -/

/-- SPARE_SWITCH fires for the physical lane that carries the colour from this lap: the alias slot takes the colour
over, and a calibration's sweep is armed two laps on, or the colour is back on its data slot. -/
def Box.spareSwitch (b : Box) (lap p : Nat) : Box :=
  let f := p / 10
  let s := p % 10
  match b.opt.spareTx.find (2 * f + s % 2) with
  | some sp =>
    match sp.phase with
    | .go _ =>
      if s ≠ aliasSlot sp.w then b
      else
        let b := ((b.setTx (2 * f + s % 2) { sp with phase := .active }).lnGo f s lnUp).showAlias f (s % 2)
        if sp.why = .calibration then
          let b := { b with opt := { b.opt with cal := b.opt.cal.put (f / 16) (f, sp.w, .armed) } }
          (b.calArm (lap + 2) 4 (phys f sp.w)).getD b
        else b
    | .ret _ => if s ≠ sp.w then b else (b.setTx (2 * f + s % 2) { sp with phase := .closing lap }).showAlias f (s % 2)
    | _ => b
  | none => b

/-- A receive spare at the start of a lap. -/
def Box.rxLap (b : Box) (lap : Nat) (e : Nat × Spare) : Box :=
  let f := e.1 / 2
  let par := e.1 % 2
  let drop (b : Box) : Box :=
    let b := ({ b with opt := { b.opt with spareRx := b.opt.spareRx.del e.1 } }).showAlias f par
    if (b.opt.spareTx.find e.1).isSome then b else b.lnGo f (8 + par) lnDark
  match e.2.phase with
  | .go l => if l ≤ lap then ((b.setRx e.1 { e.2 with phase := .active }).lnGo f (8 + par) lnUp).showAlias f par else b
  | .ret l => if l ≤ lap then (b.setRx e.1 { e.2 with phase := .closing lap }).showAlias f par else b
  | .closing l => if l < lap then drop b else b
  | _ => if b.opt.back.contains (f, e.2.w) then drop b else b

/-- A transmit spare at the start of a lap: the lap after the return the alias slot drains, dark in 10 µs (R146). -/
def Box.txLap (b : Box) (lap : Nat) (e : Nat × Spare) : Box :=
  match e.2.phase with
  | .closing l =>
    if l < lap ∧ b.lnState (e.1 / 2) (8 + e.1 % 2) ≠ lnDraining then
      (b.lnGo (e.1 / 2) (8 + e.1 % 2) lnDraining).os (e.1 / 2) (8 + e.1 % 2) 8 (8 + e.1 % 2) 10
    else b
  | _ => b

/-- Spares and planned comb switches at the start of a lap. -/
def Box.lightLap (b : Box) (lap : Nat) : Box :=
  let b := (b.each b.opt.spareRx (fun b e => b.rxLap lap e)).each b.opt.spareTx (fun b e => b.txLap lap e)
  let b := { b with opt := { b.opt with back := [] } }
  b.each b.opt.plan (fun b e => if e.2 ≤ lap then b.planDue e.1 else b)

/-! ### Guard actions and bays (R157, R669, R670) -/

/-- Fibre power above its cap (R157): every comb-gate and spare-feed ring parks, and the fibre is dark. -/
def Box.fibreOver (b : Box) (f : Nat) : Box :=
  let b := b.each (range' 20 10) (fun b j => b.put .lckRingState rgParked f j)
  let b := { b with opt := { b.opt with dark := b.opt.dark.put f false } }
  let b := b.each (upTo 10) (fun b s => if b.laneIdle f s then b else
    (((b.lnGo f s lnDark).laneLost f s).setLane f s (fun x => { x with relight := false })).emit (.light f s false))
  b.guardAct 0 0

/-- Power still above the cap (R157): the input drop ring of every bypass into the fibre is un-parked. -/
def Box.bypassDrop (b : Box) (f : Nat) : Box :=
  match b.opt.dark.find f with
  | none => b
  | some _ =>
    let b := { b with opt := { b.opt with dark := b.opt.dark.put f true } }
    let b := b.each (upTo 8) (fun b w =>
      if b.bypassOut f w then
        b.put .lckRingState rgSweep (f / 16 * 16 + (f % 16 + 16 - (w + 1) % 16) % 16) w else b)
    b.guardAct 0 0

/-- The presence contact of a bay opens (R670). -/
def Box.bayRemove (b : Box) (n : Nat) : Box :=
  let was := b.bay n
  let b := ((b.clrBit .optBayPres n).put .optBayId 0 n).setBay n bayAbsent
  let b := { b with opt := { b.opt with warmWait := b.opt.warmWait.erase n } }
  let b := if n < 10 then (if was = bayActive then b.fadeLossAct n 0 else b)
    else b.each (upTo 4) (fun b j => if b.get .optTuneLaserCh (n - 10) j = 15 then b else b.laserLost (n - 10) j)
  if was = bayWarming then b.warmNext else b

/-- A cartridge is inserted and its identity read (R669, R670). -/
def Box.bayInsert (b : Box) (n id : Nat) (crcOk : Bool) : Box :=
  let b := (b.setBit .optBayPres n).put .optBayId id n
  if crcOk ∧ Config.kindIsComb (id / 2 ^ 56) = decide (n < 10) then b.setBay n bayCold
  else ((b.setBit .optBayWrong n).setBay n bayFault).raise 0 .optBayWrong n sevError 0

/-- A comb bay leaves WARMING (R136, R643): a group whose own bay is in FAULT goes to a bench bay that became hot. -/
def Box.combWarm (b : Box) (n : Nat) (inTime : Bool) (pwr : List Nat) : Box :=
  if b.bay n ≠ bayWarming then b
  else if !inTime then ((b.setBay n bayFault).raise 0 .optCombState n sevError 0).warmNext
  else
    let b := b.each (upTo 8) (fun b w => b.put .optCombLinePwr (pwr.getD w 0) n w)
    let b := match b.fedBy n with
      | some _ => b.combActive n
      | none =>
        let b := b.setBay n bayHot
        match (upTo 8).find? (fun g => b.bay (b.get .optSelSrc g) == bayFault) with
        | some g => if n ≥ 8 ∧ b.optRuns 0 then b.benchStart g n else b
        | none => b
    b.warmNext

/-! ### The commands -/

/-- One microsecond of a ring's lock loop. -/
def execLockLoopSample (f : Fibre) (j : Ring) (err : BitVec 8) (wantUw : BitVec 16) (s : State) :
    Host.Outcome State Fault Refusal :=
  act (fun b => b.lockSample f j err.toNat wantUw.toNat) s

/-- A ring loses lock. -/
def execRingUnlocked (f : Fibre) (j : Ring) (s : State) : Host.Outcome State Fault Refusal :=
  act (fun b => b.ringUnlock f j) s

/-- A ring locks. -/
def execRingRelocked (f : Fibre) (j : Ring) (s : State) : Host.Outcome State Fault Refusal :=
  act (fun b => b.ringLock f j) s

/-- A ring did not relock. -/
def execRingRelockTimeout (f : Fibre) (j : Ring) (s : State) : Host.Outcome State Fault Refusal :=
  act (fun b => b.ringFault f j) s

/-- OPT writes a refitted feedforward coefficient (R131). -/
def execFfRefit (h : Half) (r : Fin 64) (bin : Fin 16) (coeff : BitVec 16) (s : State) :
    Host.Outcome State Fault Refusal :=
  act (fun b => if b.optRuns h then b.shadowPut .lckFf coeff.toNat h r bin else b) s

/-- `OPT.SEL[g].SRC` written. -/
def execBenchSwitch (src : Src) (g : Group) (bay : BitVec 4) (s : State) : Host.Outcome State Fault Refusal :=
  act (fun b => b.regWrite src (fun b => b.writeSel g bay.toNat)) s

/-- The selector moves. -/
def execSelectorMove (g : Group) (s : State) : Host.Outcome State Fault Refusal := act (fun b => b.selMove g) s

/-- The hold after a comb switch is over. -/
def execBenchHoldExpire (g : Group) (s : State) : Host.Outcome State Fault Refusal := act (fun b => b.benchEnd g) s

/-- A line reads at the WARN level for 1 s. -/
def execFadeWarn (b : Fin 10) (w : Colour) (pwr : BitVec 16) (s : State) : Host.Outcome State Fault Refusal :=
  act (fun x => (x.put .optCombLinePwr pwr.toNat b w).when (x.optRuns 0)
    (·.raise 0 .optCombLinePwr (8 * b + w) sevNotice 0)) s

/-- A line reads at the PLAN level for 1 s. -/
def execFadePlan (b : Fin 10) (w : Colour) (pwr : BitVec 16) (s : State) : Host.Outcome State Fault Refusal :=
  act (fun x => (x.put .optCombLinePwr pwr.toNat b w).fadePlanAct b w) s

/-- A line reads at the CRIT level for 100 µs; the lanes of its colour, worst first. -/
def execFadeCrit (b : Fin 10) (w : Colour) (pwr : BitVec 16) (worst : List (Fin 16)) (s : State) :
    Host.Outcome State Fault Refusal :=
  act (fun x => (x.put .optCombLinePwr pwr.toNat b w).fadeCritAct b w (worst.map (·.val))) s

/-- A line reads at the LOSS level for 2 µs. -/
def execFadeLoss (b : Fin 10) (w : Colour) (pwr : BitVec 16) (s : State) : Host.Outcome State Fault Refusal :=
  act (fun x => (x.put .optCombLinePwr pwr.toNat b w).fadeLossAct b w) s

/-- A tunable laser reads at the CRIT or LOSS level. -/
def execTunableFade (g : Group) (j : Fin 4) (pwr : BitVec 16) (s : State) : Host.Outcome State Fault Refusal :=
  act (fun x => (x.put .optTuneLaserPwr pwr.toNat g j).when (x.optRuns (j / 2)) (·.laserLost g j)) s

/-- A comb bay leaves WARMING, in its time or not; its line outputs. -/
def execCombWarmed (b : Fin 10) (inTime : Bool) (pwr : List (BitVec 16)) (s : State) : Host.Outcome State Fault Refusal :=
  act (fun x => x.combWarm b inTime (pwr.map (·.toNat))) s

/-- The transmit OMA estimate of a lane is below OPT.SPARE_OMA_DBM. -/
def execOmaLow (f : Fibre) (sl : Slot) (s : State) : Host.Outcome State Fault Refusal :=
  act (fun b => b.when (decide (sl.val < 8) && b.optRuns (halfOf sl)) (·.startSpare f sl .fault)) s

/-- The electronics of a lane report a driver fault. -/
def execLaneDriverFault (f : Fibre) (sl : Slot) (s : State) : Host.Outcome State Fault Refusal :=
  act (fun b => b.when (decide (sl.val < 8) && b.optRuns (halfOf sl)) (·.startSpare f sl .fault)) s

/-- A transmit slot's calibration is due. -/
def execCalibrationDue (f : Fibre) (sl : Slot) (s : State) : Host.Outcome State Fault Refusal :=
  act (fun b => b.when (decide (sl.val < 8) && b.optRuns (halfOf sl) && b.get .optCtrlAutoCal == 1)
    (·.startSpare f sl .calibration)) s

/-- A calibration sweep ends with new values and the best OMA found. -/
def execCalStepDone (f : Fibre) (sl : Slot) (detune : BitVec 10) (tlockMod tlockGate : BitVec 12) (oma : BitVec 8)
    (s : State) : Host.Outcome State Fault Refusal :=
  act (fun b => b.calDone f sl detune.toNat tlockMod.toNat tlockGate.toNat oma.toNat) s

/-- A pass staged by a VOTED commit group takes effect in 2 µs: DRAIN on the output lane of each new pass (R153). -/
def execBypassDrain (n : Fin 16) (s : State) : Host.Outcome State Fault Refusal :=
  act (fun b =>
    if b.cgState n ≠ cgVoted then b
    else b.each (b.tim.cg.at n {}).staged (fun b u =>
      match u with
      | .reg a d =>
        match locate a with
        | some ⟨.optBypPass :: _, g, i, _, _⟩ =>
          b.each (upTo 8) (fun b w =>
            if bitAt d w ∧ !b.bit .optBypPass w g i then
              let f := 16 * g + (i + w + 1) % 16
              (if b.laneIdle f w then b else b.lnGo f w lnDraining).os f w 8 w 2
            else b)
        | _ => b
      | .tbl _ _ => b)) s

/-- A fibre's transmit power exceeds its cap for 10 µs. -/
def execFibrePowerOver (f : Fibre) (s : State) : Host.Outcome State Fault Refusal := act (fun b => b.fibreOver f) s

/-- A fibre's transmit power still exceeds its cap 20 µs later. -/
def execBypassLightDrop (f : Fibre) (s : State) : Host.Outcome State Fault Refusal := act (fun b => b.bypassDrop f) s

/-- The presence contact of a bay opens. -/
def execCartridgeRemove (bay : Fin 18) (s : State) : Host.Outcome State Fault Refusal := act (fun b => b.bayRemove bay) s

/-- A cartridge is inserted. -/
def execCartridgeInsert (bay : Fin 18) (id : BitVec 64) (crcOk : Bool) (s : State) : Host.Outcome State Fault Refusal :=
  act (fun b => b.bayInsert bay id.toNat crcOk) s

/-- A presence contact has stayed closed for 1 s. -/
def execCartridgeWarmStart (bay : Fin 18) (s : State) : Host.Outcome State Fault Refusal :=
  act (fun b => if b.bit .optBayPres bay then b.warm bay else b) s

/-- A tunable bay leaves WARMING. -/
def execTunableWarmed (g : Group) (s : State) : Host.Outcome State Fault Refusal :=
  act (fun b => if b.bay (10 + g) = bayWarming then (b.setBay (10 + g) bayActive).warmNext else b) s

end Sys2Proof.Machine
end

