-- ==== Sys2Proof/Machine/Buffers.lean ====
section
/-!
DEFINITION. The cell buffer of each half and its buffer pool manager: cells, owner tags, reference counts, accounts,
headroom and pause (R200 to R213, R684), and fenced cells (R204).
-/
namespace Sys2Proof.Machine

/-! ### Cells (R200 to R206) -/

/-- Cells per half, and cells of a frame of `n` bytes. -/
def cellCount : Nat := 655360
@[inherit_doc cellCount] def cellsOf (n : Nat) : Nat := (n + 255) / 256

/-- Allocator codes of owner tags (R202). -/
def alLane : Nat := 0
@[inherit_doc alLane] def alRelay : Nat := 1
@[inherit_doc alLane] def alSpill : Nat := 2
@[inherit_doc alLane] def alMgmt : Nat := 3
@[inherit_doc alLane] def alMulti : Nat := 4

/-- The ingress lane number of a frame that the module built. -/
def laneSelf : Nat := 1024

/-- A half's buffer. -/
def Box.hb (b : Box) (h : Nat) : HalfBuf := b.buf.half.at h {}
@[inherit_doc Box.hb] def Box.setHb (b : Box) (h : Nat) (g : HalfBuf → HalfBuf) : Box :=
  { b with buf := { b.buf with half := b.buf.half.upd h {} g } }

/-- A cell's metadata. -/
def HalfBuf.cell (x : HalfBuf) (c : Nat) : CellMeta := x.cells.at c ⟨none, 0, 0, false, false⟩

/-- Fenced cells, and cells on the free list (R204, R235). -/
def HalfBuf.fenced (x : HalfBuf) : Nat := (x.cells.filter (fun e => e.2.fence)).length
@[inherit_doc HalfBuf.fenced] def HalfBuf.freeCells (x : HalfBuf) : Nat :=
  cellCount - (x.cells.filter (fun e => e.2.fence || e.2.used)).length

/-- The lowest cell from `c` on that is not fenced, looking at most `n` further. -/
def HalfBuf.skip (x : HalfBuf) : Nat → Nat → Nat
  | 0, c => c
  | n + 1, c => if (x.cell c).fence then x.skip n (c + 1) else c

/-- Take one cell from the free list (DESIGN CHOICE, log 8). -/
def HalfBuf.take (x : HalfBuf) : Option (Nat × HalfBuf) :=
  let c := x.skip (x.fenced + 1) x.fresh
  if c < cellCount then some (c, { x with fresh := c + 1 })
  else (x.returned.find? (fun c => !(x.cell c).fence)).map (fun c => (c, { x with returned := x.returned.erase c }))

/-- Take `n` cells. -/
def HalfBuf.takeN : Nat → HalfBuf → Option (List Nat × HalfBuf)
  | 0, x => some ([], x)
  | n + 1, x =>
    match x.take with
    | none => none
    | some (c, x) => (HalfBuf.takeN n x).map (fun p => (c :: p.1, p.2))

/-- Write the metadata of a chain of cells (R200, R202, R205). -/
def HalfBuf.chain (x : HalfBuf) (alloc rung refs : Nat) : List Nat → HalfBuf
  | [] => x
  | c :: t =>
    let m : CellMeta := ⟨t.head?, alloc * 32 + rung * 8 + (x.cell c).tag % 8, refs, false, true⟩
    HalfBuf.chain { x with cells := x.cells.put c m } alloc rung refs t

/-- The buffer pool manager of a half is held: a forwarding-core reset or a reset of the half is in force, or the half is
dark (R565, R588). -/
def Box.bpmHeld (b : Box) (h : Nat) : Bool := b.mar.resets.any (fun r => r.domain == 4) || b.halfReset h || b.darkHalf h

/-- Allocate the cells of a frame; none when the free list is too short or its manager is held (R201, R202). -/
def Box.allocFrame (b : Box) (h : Nat) (fr : Held) (refs : Nat) : Option (Desc × Box) :=
  if b.bpmHeld h then none else
  match HalfBuf.takeN (cellsOf fr.bytes.length) (b.hb h) with
  | some (c :: t, x) =>
    let x := x.chain fr.alloc fr.rung refs (c :: t)
    some (⟨h, 256 * c, (x.cell c).tag, b.ns⟩, b.setHb h (fun _ => { x with frames := x.frames.put c fr }))
  | _ => none

/-- Whether a descriptor passes the check of R203. -/
def Box.ptrOk (b : Box) (d : Desc) : Bool :=
  d.ptr % 256 == 0 && decide (d.ptr / 256 < cellCount) && ((b.hb d.half).cell (d.ptr / 256)).tag == d.tag

/-- The frame a descriptor names. -/
def Box.frameOf (b : Box) (d : Desc) : Option Held :=
  if b.ptrOk d then (b.hb d.half).frames.find (d.ptr / 256) else none

/-- Change the frame a descriptor names. -/
def Box.setFrame (b : Box) (d : Desc) (g : Held → Held) : Box :=
  match b.frameOf d with
  | some fr => b.setHb d.half (fun x => { x with frames := x.frames.put (d.ptr / 256) (g fr) })
  | none => b

/-- A failed check (R203, R206): pointer, expected tag and found tag are recorded. -/
def Box.checkFail (b : Box) (d : Desc) : Box :=
  let c := d.ptr / 256
  let found := ((b.hb d.half).cell c).tag
  let b := if d.ptr % 256 = 0 ∧ c < cellCount then
    b.setHb d.half (fun x => { x with cells := x.cells.put c { x.cell c with fence := true } }) else b
  let inRange := decide (d.ptr % 256 = 0 ∧ c < cellCount)
  (b.bump .bufPtrErr d.half).raise d.half .bufPtrErr d.half sevError (1 + flag inRange)
    (d.ptr * 65536 + d.tag * 256 + found)

/-- The cells of a chain, at most `n`. -/
def HalfBuf.walk (x : HalfBuf) : Nat → Nat → List Nat
  | 0, _ => []
  | n + 1, c => c :: (match (x.cell c).next with | some c' => x.walk n c' | none => [])

/-- One decrement of a cell; at 0 the cell returns to the free list, its generation moved on, unless it is fenced
(R202, R204, R205). -/
def HalfBuf.unref1 (x : HalfBuf) (c : Nat) : HalfBuf :=
  let m := x.cell c
  if m.refs ≤ 1 then
    let m' : CellMeta := ⟨none, m.tag / 8 * 8 + (m.tag + 1) % 8, 0, m.fence, false⟩
    { x with
      cells := x.cells.put c m'
      returned := if m.fence then x.returned else x.returned ++ [c]
      frames := x.frames.del c }
  else { x with cells := x.cells.put c { m with refs := m.refs - 1 } }

/-- A descriptor of a frame is no longer needed: the reference counts of its cells fall (R205, R206). -/
def Box.unref (b : Box) (d : Desc) : Box :=
  if !b.ptrOk d then b.checkFail d
  else
    let x := b.hb d.half
    if (x.cell (d.ptr / 256)).refs = 0 then (b.bump .bufRefErr d.half).checkFail d
    else b.setHb d.half (fun x => (x.walk (x.cells.length) (d.ptr / 256)).foldl HalfBuf.unref1 x)

/-! ### Accounts (R207 to R210) -/

/-- Key of a lane and rung. -/
def lr (l r : Nat) : Nat := 4 * l + r

/-- Shared cells held by the accounts of a register on a half. -/
def Box.sharedHeld (b : Box) (h : Nat) (reg rsv : Reg) : Nat :=
  (b.regs.map (fun e => if e.1.reg = reg ∧ halfOf e.1.i = h then e.2 - b.get rsv e.1.j else 0)).sum

/-- Size of the shared pool of a half (R208). -/
def Box.sharedSize (b : Box) (h : Nat) : Nat :=
  cellCount - 512 * ((upTo 4).map (fun r => b.get .bufRsvIng r + b.get .bufRsvEgr r)).sum - b.get .bufHdrmPool
    - (b.hb h).fenced

/-- F, the free cells of the shared pool (R209). -/
def Box.sharedFree (b : Box) (h : Nat) : Nat :=
  b.sharedSize h - b.sharedHeld h .bufIqDepth .bufRsvIng - b.sharedHeld h .bufEqDepth .bufRsvEgr

/-- α·F for a 4-bit signed exponent, truncated (R209). -/
def alphaF (a F : Nat) : Nat := if a < 8 then F * 2 ^ a else F / 2 ^ (16 - a)

/-- The exponent of an account (R210). -/
def Box.alphaOf (b : Box) (own dflt : Reg) (l r : Nat) : Nat := if b.get own l r = 8 then b.get dflt r else b.get own l r

/-- α·F of an ingress and of an egress account. -/
def Box.ingAlpha (b : Box) (l r : Nat) : Nat := alphaF (b.alphaOf .bufIqAlpha .bufAlphaIng l r) (b.sharedFree (halfOf l))
@[inherit_doc Box.ingAlpha] def Box.egrAlpha (b : Box) (l r : Nat) : Nat :=
  alphaF (b.alphaOf .bufEqAlpha .bufAlphaEgr l r) (b.sharedFree (halfOf l))

/-- The admission test of R209: depth, reserve, α·F, cells of the frame. -/
def admits (depth rsv aF n : Nat) : Bool := decide (depth + n ≤ rsv) || decide (depth - rsv < aF)

/-- Whether an account admits `n` cells. -/
def Box.ingAdmits (b : Box) (l r n : Nat) : Bool := admits (b.get .bufIqDepth l r) (b.get .bufRsvIng r) (b.ingAlpha l r) n
@[inherit_doc Box.ingAdmits] def Box.egrAdmits (b : Box) (l r n : Nat) : Bool :=
  admits (b.get .bufEqDepth l r) (b.get .bufRsvEgr r) (b.egrAlpha l r) n

/-- Headroom cells of a lane, and of a half (R213). -/
def Box.hdrmLane (b : Box) (l : Nat) : Nat := ((upTo 4).map (fun r => b.buf.hdrm.at (lr l r) 0)).sum
@[inherit_doc Box.hdrmLane] def Box.hdrmHalf (b : Box) (h : Nat) : Nat :=
  (b.buf.hdrm.map (fun e => if halfOf (e.1 / 4) = h then e.2 else 0)).sum

/-! ### Pause (R212, R213) -/

/-- Send XOFF for a rung of a lane. -/
def Box.xoff (b : Box) (l r : Nat) : Box :=
  if b.buf.xoff.contains (lr l r) then b
  else ({ b with buf := { b.buf with xoff := b.buf.xoff ++ [lr l r] } }).emit (.pfc l r true)

/-- XON for every account of a half that has fallen to its limit less the gap (R213). -/
def Box.xonCheck (b : Box) (h : Nat) : Box :=
  b.each b.buf.xoff (fun b k =>
    let l := k / 4
    let r := k % 4
    if halfOf l = h ∧ b.get .bufIqDepth l r + b.get .bufXonGap ≤ b.get .bufRsvIng r + b.ingAlpha l r then
      ({ b with buf := { b.buf with xoff := b.buf.xoff.erase k } }).emit (.pfc l r false)
    else b)

/-- How a frame's cells are charged on arrival: account (1), headroom (2), or not admitted (R209, R213). A rung 1, 2
or 3 frame that its account refuses makes the device send XOFF and is charged to headroom (DEDUCED, log 18). -/
def Box.ingCharge (b : Box) (l r n : Nat) : Option (Nat × Box) :=
  let hdrm (b : Box) : Option (Nat × Box) :=
    if b.hdrmLane l + n ≤ b.get .bufHdrmLane ∧ b.hdrmHalf (halfOf l) + n ≤ b.get .bufHdrmPool then
      some (2, { b with buf := { b.buf with hdrm := b.buf.hdrm.upd (lr l r) 0 (· + n) } })
    else none
  let xoff (b : Box) : Box := if b.striped (portOf l) then b else b.xoff l r
  if r ≠ 0 ∧ b.buf.xoff.contains (lr l r) then hdrm b
  else if b.ingAdmits l r n then
    let b := b.move .bufIqDepth n l r
    some (1, if r ≠ 0 ∧ b.get .bufRsvIng r + b.ingAlpha l r ≤ b.get .bufIqDepth l r then xoff b else b)
  else if r = 0 then none
  else hdrm (xoff b)

/-- The ingress charge of a frame ends (R207). -/
def Box.dropIng (b : Box) (d : Desc) : Box :=
  match b.frameOf d with
  | none => b
  | some fr =>
    let n := cellsOf fr.bytes.length
    let b := b.setFrame d (fun x => { x with ing := 0 })
    match fr.ing with
    | 0 => b
    | 1 => (b.move .bufIqDepth (-n) fr.lane fr.rung).xonCheck (halfOf fr.lane)
    | _ => ({ b with buf := { b.buf with hdrm := b.buf.hdrm.upd (lr fr.lane fr.rung) 0 (· - n) } }).xonCheck (halfOf fr.lane)

/-- The egress charge of a frame to a lane ends (R207; held until the copy's reference ends, DEDUCED, log 19). -/
def Box.dropEgr (b : Box) (d : Desc) (l : Nat) : Box :=
  match b.frameOf d with
  | none => b
  | some fr =>
    if fr.egr.contains l then
      ((b.setFrame d (fun x => { x with egr := x.egr.erase l })).move .bufEqDepth (-(cellsOf fr.bytes.length)) l fr.rung).xonCheck
        (halfOf l)
    else b

/-- A consumer releases a frame, or it is discarded before it was enqueued (R205, R207). -/
def Box.release (b : Box) (d : Desc) : Box := (b.dropIng d).unref d

/-- A copy on a lane has left or is discarded (R205, R207). -/
def Box.dropCopy (b : Box) (d : Desc) (l : Nat) : Box := (b.dropEgr d l).unref d

/-- Build a frame in a half's buffer on behalf of a frame of a rung (R222): none when the ladder forbids it, the count
is above 4095 (R206), or no cell is free. -/
def Box.build (b : Box) (h : Nat) (fr : Held) (refs : Nat) (forRung : Option Nat) : Option Desc × Box :=
  if forRung.any (fun k => decide (fr.rung ≤ k) && !(fr.rung == 3 && k == 3)) then
    (none, (b.bump .bufLadderErr h).raise h .bufLadderErr h sevError 1)
  else if refs > 4095 then
    (none, ((b.bump .bufRefErr h).bump .bufPtrErr h).raise h .bufRefErr h sevError 1)
  else match b.allocFrame h fr refs with
    | some (d, b) => (some d, b)
    | none => (none, b)

/-! ### Fenced cells (R204) -/

/-- A write to FENCE_CMD: the pattern test of a fenced cell starts; one test runs at a time, and a write while it runs
is refused (class Q, R659). -/
def Box.fenceCmd (b : Box) (h ptr : Nat) : Nat × Box :=
  if (b.buf.test.find h).isSome then (1, b)
  else
    let b := b.put .bufFenceCmd ptr h
    if ptr % 256 = 0 ∧ ptr / 256 < cellCount ∧ ((b.hb h).cell (ptr / 256)).fence = true then
      (0, { b with buf := { b.buf with test := b.buf.test.put h (ptr / 256) } })
    else (0, b)

/-- The pattern test ends: a cell that passes returns to the free list, its contents and generation moved on. -/
def Box.fenceDone (b : Box) (h : Nat) (pass : Bool) : Box :=
  match b.buf.test.find h with
  | none => b
  | some c =>
    let b := { b with buf := { b.buf with test := b.buf.test.del h } }
    if pass then
      b.setHb h (fun x =>
        let m := x.cell c
        let m' : CellMeta := ⟨none, m.tag / 8 * 8 + (m.tag + 1) % 8, 0, false, false⟩
        { x with
          cells := x.cells.put c m'
          returned := if c < x.fresh then with_ x.returned c else x.returned
          frames := x.frames.del c })
    else b

/-- `BUF[h].FENCE_CMD` written. -/
def execFenceCmd (src : Src) (h : Half) (ptr : BitVec 28) (s : State) : Host.Outcome State Fault Refusal :=
  act (fun b => b.regWrite src (fun b => b.fenceCmd h ptr.toNat)) s

/-- The pattern test of a fenced cell ends. -/
def execFenceTestDone (h : Half) (pass : Bool) (s : State) : Host.Outcome State Fault Refusal :=
  act (fun b => b.fenceDone h pass) s

end Sys2Proof.Machine
end

