-- ==== Sys2Proof/Machine/Parse.lean ====
section
/-!
DEFINITION. Checksums of frames (R86, R229, R681), the headers of R165 and R167, and the changes that a frame takes on
its way out (R56, R198).
-/
namespace Sys2Proof.Machine

/-! ### Checksums -/

/-- One byte through a reflected CRC register: polynomial, and bits still to shift. -/
def crcBits (poly : Nat) : Nat → Nat → Nat
  | 0, c => c
  | n + 1, c => crcBits poly n (if c % 2 = 1 then (c / 2) ^^^ poly else c / 2)

/-- A reflected 32-bit CRC over bytes, from an initial remainder, with the final XOR of all ones. -/
def crcRefl (poly init : Nat) (l : List Byte) : Nat :=
  (l.foldl (fun c x => crcBits poly 8 (c ^^^ x.toNat)) init) ^^^ 0xFFFFFFFF

/-- The CRC-32C of R681, and the frame check sequence of Ethernet. -/
def crc32c (l : List Byte) (init : Nat := 0xFFFFFFFF) : Nat := crcRefl 0x82F63B78 init l
@[inherit_doc crc32c] def fcs (l : List Byte) : List Byte := leBytes 4 (crcRefl 0xEDB88320 0xFFFFFFFF l)

/-- A CRC whose bits enter most significant first: polynomial, width, value and its bits. -/
def crcMsb (poly width v : Nat) : Nat → Nat → Nat
  | 0, c => c
  | n + 1, c =>
    let top := flag (bitAt c (width - 1) != bitAt v n)
    crcMsb poly width v n ((c * 2 % 2 ^ width) ^^^ (if top = 1 then poly else 0))

/-- The link tag of a rung and link sequence number (R229). -/
def linkTag (rung seq : Nat) : Nat :=
  let v := (0xA * 4 + rung) * 4096 + seq
  (0xA * 4 + rung) * 2 ^ 18 + crcMsb 0x03 6 v 18 0 * 4096 + seq

/-- Whether a link tag has its marker and passes its CRC-6 (R229, R231). -/
def tagOk (t : Nat) : Bool := linkTag (bits t 19 18) (bits t 11 0) == t

/-! ### Bytes of a frame -/

/-- The number at an offset, most significant byte first (R15). -/
def at_ (fr : List Byte) (off len : Nat) : Nat := beNat ((fr.drop off).take len)

/-- The frame with bytes put at an offset. -/
def putAt (fr : List Byte) (off : Nat) (v : List Byte) : List Byte := fr.take off ++ v ++ fr.drop (off + v.length)

/-- The frame with its FCS computed anew (R56). -/
def withFcs (fr : List Byte) : List Byte := fr.take (fr.length - 4) ++ fcs (fr.take (fr.length - 4))

/-- Bytes of the frame before its FCS. -/
def endOf (fr : List Byte) : Nat := fr.length - 4

/-- The one's complement sum of 16-bit words, folded. -/
def fold16 (n : Nat) : Nat := if n < 65536 then n else let m := n % 65536 + n / 65536; m % 65536 + m / 65536

/-- The Internet checksum sum over bytes. -/
def sum16 : List Byte → Nat
  | [] => 0
  | [a] => a.toNat * 256
  | a :: b :: t => a.toNat * 256 + b.toNat + sum16 t

/-- A checksum updated for one 16-bit word that changed. -/
def csumUpd (hc old new : Nat) : Nat := 65535 - fold16 (fold16 ((65535 - hc) + (65535 - old) + new))

/-! ### Headers (R165, R167) -/

/-- What the parser reads from a frame. -/
structure Parsed where
  da : Nat := 0
  sa : Nat := 0
  etype : Nat := 0
  l3 : Nat := 14
  /-- 4, 6 or 0 without an IP header. -/
  ip : Nat := 0
  src : Nat := 0
  dst : Nat := 0
  dscp : Nat := 0
  ttl : Nat := 0
  proto : Nat := 0
  flow : Nat := 0
  ports : Option (Nat × Nat) := none
  /-- Offset of the UDP header, of KFH, and of a PTP message. -/
  udp : Option Nat := none
  kfh : Option Nat := none
  /-- The KFH of R167 as a number. -/
  k : Nat := 0
  ptp : Option Nat := none
  /-- To be delivered to CTL whatever follows (R165). -/
  ctl : Bool := false
  /-- Cause of R166 found by the parser. -/
  bad : Option Nat := none
  deriving DecidableEq, Repr

/-- The header bytes that the parser may read (R162). -/
def parseLimit : Nat := 256

/-- Fields of KFH (R167). -/
def Parsed.hasK (p : Parsed) : Bool := p.kfh.isSome
@[inherit_doc Parsed.hasK] def Parsed.ver (p : Parsed) : Nat := bits p.k 127 124
@[inherit_doc Parsed.hasK] def Parsed.kRung (p : Parsed) : Nat := bits p.k 123 122
@[inherit_doc Parsed.hasK] def Parsed.op (p : Parsed) : Nat := bits p.k 121 118
@[inherit_doc Parsed.hasK] def Parsed.group (p : Parsed) : Nat := bits p.k 117 104
@[inherit_doc Parsed.hasK] def Parsed.seq (p : Parsed) : Nat := bits p.k 103 72
@[inherit_doc Parsed.hasK] def Parsed.chunk (p : Parsed) : Nat := bits p.k 71 56
@[inherit_doc Parsed.hasK] def Parsed.feid (p : Parsed) : Nat := bits p.k 55 24
@[inherit_doc Parsed.hasK] def Parsed.pairs (p : Parsed) : Nat := bits p.k 23 20
@[inherit_doc Parsed.hasK] def Parsed.entropy (p : Parsed) : Nat := bits p.k 15 0

/-- A KFH of R167 from its fields. -/
def kfhOf (rung op group seq chunk feid pairs entropy : Nat) : Nat :=
  2 ^ 124 + rung * 2 ^ 122 + op * 2 ^ 118 + group * 2 ^ 104 + seq % 2 ^ 32 * 2 ^ 72 + chunk * 2 ^ 56 + feid * 2 ^ 24
    + pairs * 2 ^ 20 + entropy

/-- Opcodes of KFH (R168). -/
def opData : Nat := 0
@[inherit_doc opData] def opContrib : Nat := 1
@[inherit_doc opData] def opResult : Nat := 2
@[inherit_doc opData] def opGatherReq : Nat := 3
@[inherit_doc opData] def opGatherRsp : Nat := 4
@[inherit_doc opData] def opScatter : Nat := 5
@[inherit_doc opData] def opSprint : Nat := 6
@[inherit_doc opData] def opSprintResult : Nat := 7
@[inherit_doc opData] def opAck : Nat := 8
@[inherit_doc opData] def opCtrl : Nat := 9
@[inherit_doc opData] def opKeepalive : Nat := 10

/-- The rung that an opcode is valid with (R168). -/
def opRung (op : Nat) : Option Nat := [0, 1, 2, 1, 2, 1, 1, 2, 3, 3, 3][op]?

/-- Whether the EtherType names a header that R165 accepts. -/
def etypeKnown (kfhEtype e : Nat) : Bool := e == 0x88F7 || e == kfhEtype || e == 0x0800 || e == 0x86DD

/-- KFH at an offset: beyond the limit it is absent, past the end of the frame malformed. -/
def parseKfh (fr : List Byte) (p : Parsed) (o : Nat) : Parsed :=
  if o + 16 > parseLimit then p
  else if o + 16 > endOf fr then { p with bad := some 5 }
  else { p with kfh := some o, k := at_ fr o 16 }

/-- The layer after IP (R54, R165, R167; protocols whose header begins with two ports: TCP, UDP, SCTP, PRESUMED, log
20). -/
def parseL4 (udpPort : Nat) (fr : List Byte) (p : Parsed) (o : Nat) : Parsed :=
  if p.proto = 17 then
    if o + 8 > parseLimit then p
    else if o + 8 > endOf fr then { p with bad := some 4 }
    else
      let dp := at_ fr (o + 2) 2
      let p := { p with ports := some (at_ fr o 2, dp), udp := some o }
      if dp = udpPort then parseKfh fr p (o + 8) else if dp = 319 then { p with ptp := some (o + 8) } else p
  else if (p.proto = 6 ∨ p.proto = 132) ∧ o + 4 ≤ parseLimit ∧ o + 4 ≤ endOf fr then
    { p with ports := some (at_ fr o 2, at_ fr (o + 2) 2) }
  else p

/-- IPv4 (R165). -/
def parseIp4 (udpPort : Nat) (fr : List Byte) (p : Parsed) : Parsed :=
  let o := p.l3
  let ihl := at_ fr o 1 % 16
  if o + 20 > endOf fr ∨ at_ fr o 1 / 16 ≠ 4 ∨ ihl < 5 ∨ o + 4 * ihl > endOf fr
    ∨ fold16 (sum16 ((fr.drop o).take (4 * ihl))) ≠ 65535 then { p with bad := some 4 }
  else
    let p := { p with
      ip := 4, src := at_ fr (o + 12) 4, dst := at_ fr (o + 16) 4, dscp := at_ fr (o + 1) 1 / 4
      ttl := at_ fr (o + 8) 1, proto := at_ fr (o + 9) 1 }
    if at_ fr (o + 6) 2 % 8192 ≠ 0 then p else parseL4 udpPort fr p (o + 4 * ihl)

/-- The extension headers of IPv6, at most two (R165): next header, offset. -/
def parseExt (udpPort : Nat) (fr : List Byte) (p : Parsed) : Nat → Nat → Nat → Parsed
  | n, nh, o =>
    if nh = 0 ∨ nh = 43 ∨ nh = 60 then
      match n with
      | 0 => { p with proto := nh }
      | n + 1 =>
        if o + 8 > parseLimit then { p with proto := nh }
        else if o + 8 > endOf fr then { p with bad := some 4 }
        else
          let len := 8 * (at_ fr (o + 1) 1 + 1)
          if o + len > parseLimit then { p with proto := nh }
          else if o + len > endOf fr then { p with bad := some 4 }
          else parseExt udpPort fr p n (at_ fr o 1) (o + len)
    else parseL4 udpPort fr { p with proto := nh } o

/-- IPv6 (R165). -/
def parseIp6 (udpPort : Nat) (fr : List Byte) (p : Parsed) : Parsed :=
  let o := p.l3
  if o + 40 > endOf fr ∨ at_ fr o 1 / 16 ≠ 6 then { p with bad := some 4 }
  else
    parseExt udpPort fr { p with
      ip := 6, src := at_ fr (o + 8) 16, dst := at_ fr (o + 24) 16, dscp := at_ fr o 2 / 64 % 64
      ttl := at_ fr (o + 7) 1, flow := at_ fr o 4 % 2 ^ 20 } 2 (at_ fr (o + 6) 1) (o + 40)

/-- Parse a frame (R165) under the EtherType and UDP port of KFH and the module's MAC address. -/
def parse (kfhEtype udpPort mac : Nat) (fr : List Byte) : Parsed :=
  if fr.length < 18 then { bad := some 1 }
  else
    let p : Parsed := { da := at_ fr 0 6, sa := at_ fr 6 6, etype := at_ fr 12 2 }
    let tag (e : Nat) : Bool := e == 0x8100 || e == 0x88A8 || e == 0x9100
    let p := if p.etype = 0x8100 then
        let q := { p with etype := at_ fr 16 2, l3 := 18 }
        if at_ fr 14 2 % 4096 ≠ 0 ∨ tag q.etype then { q with bad := some 2 } else q
      else if tag p.etype then { p with bad := some 2 } else p
    if p.bad.isSome then p
    else if p.da / 16 = 0x0180C200000 then { p with ctl := true }
    else if p.da / 2 ^ 40 % 2 = 1 then { p with bad := some 3 }
    else if p.etype = 0x88F7 then { p with ptp := some p.l3 }
    else if p.etype = kfhEtype then parseKfh fr p p.l3
    else if p.etype = 0x0800 then parseIp4 udpPort fr p
    else if p.etype = 0x86DD then parseIp6 udpPort fr p
    else if p.da = mac then { p with ctl := true }
    else { p with bad := some 3 }

/-- Parse under the registers in force. -/
def Box.parse (b : Box) (fr : List Byte) : Parsed :=
  Machine.parse (b.get .fwdKfhEtype) (b.get .fwdKfhUdp) (b.get .fwdModMac) fr

/-- The module's own destination of an IP frame (R170). -/
def Box.ownIp (b : Box) (p : Parsed) : Bool :=
  (p.ip == 4 && b.get .fwdModIp4 != 0 && p.dst == b.get .fwdModIp4)
    || (p.ip == 6 && b.get .fwdModIp6 != 0 && p.dst == b.get .fwdModIp6)

/-- Whether an FEID is an enabled service FEID of the module (R170). -/
def Box.ownFeid (b : Box) (feid : Nat) : Bool :=
  (upTo 4).any (fun n => b.bit .fwdSvcFeidEn n && b.get .fwdSvcFeid n == feid)

/-- The rung of a frame: KFH's, 3 toward CTL, DSCP_RUNG of an IP frame, else 0 (R165, R167, R171). -/
def Box.rungOf (b : Box) (p : Parsed) : Nat :=
  if p.hasK then p.kRung
  else if p.ctl || b.ownIp p then 3
  else if p.ip ≠ 0 then b.get .fwdDscpRung p.dscp
  else 0

/-! ### Changes on the way out (R56, R198, R252) -/

/-- The UDP checksum after one 16-bit word of the payload changed: incremental for IPv6, 0 for IPv4 (R56). -/
def udpFix (p : Parsed) (fr : List Byte) (old new : Nat) : List Byte :=
  match p.udp with
  | none => fr
  | some o => if p.ip = 4 then putAt fr (o + 6) [0, 0] else putAt fr (o + 6) (beBytes 2 (csumUpd (at_ fr (o + 6) 2) old new))

/-- Set PACE in KFH (R167, R252). -/
def setPace (p : Parsed) (fr : List Byte) : List Byte :=
  match p.kfh with
  | none => fr
  | some o =>
    let old := at_ fr (o + 12) 2
    let new := setBit old 3
    udpFix p (putAt fr (o + 12) (beBytes 2 new)) old new

/-- Add to the correctionField of a PTP event message, 2^-16 ns (R55). -/
def addCorrection (p : Parsed) (o : Nat) (d : Int) (fr : List Byte) : List Byte :=
  let new := ofSigned 64 (toSigned 64 (at_ fr (o + 8) 8) + d)
  (upTo 4).foldl (fun f i => udpFix p (putAt f (o + 8 + 2 * i) (beBytes 2 (bits new (63 - 16 * i) (48 - 16 * i))))
    (at_ fr (o + 8 + 2 * i) 2) (bits new (63 - 16 * i) (48 - 16 * i))) fr

/-- The rewrite of a forwarded frame (R198): destination and source address, TTL or Hop Limit, IPv4 checksum. -/
def rewrite (p : Parsed) (da sa : Nat) (fr : List Byte) : List Byte :=
  let fr := putAt fr 0 (beBytes 6 da ++ beBytes 6 sa)
  let o := p.l3
  match p.ip with
  | 4 =>
    let old := at_ fr (o + 8) 2
    let new := old - 256
    putAt (putAt fr (o + 8) (beBytes 2 new)) (o + 10) (beBytes 2 (csumUpd (at_ fr (o + 10) 2) old new))
  | 6 => putAt fr (o + 7) (beBytes 1 (p.ttl - 1))
  | _ => fr

/-- The flow key (R183). -/
def flowInput (p : Parsed) : List Byte :=
  if p.hasK then beBytes 4 p.feid ++ beBytes 2 p.entropy
  else
    let n := if p.ip = 6 then 16 else 4
    beBytes n p.src ++ beBytes n p.dst ++ beBytes 1 p.proto ++
      (match p.ports with
       | some (a, c) => beBytes 2 a ++ beBytes 2 c
       | none => if p.ip = 6 then beBytes 3 p.flow else [])

/-- The flow key of a frame; 0 for a frame that has neither KFH nor IP (R183). -/
def Box.flowKey (b : Box) (p : Parsed) : Nat :=
  if p.hasK || p.ip != 0 then
    crc32c (flowInput p) (b.get .fwdHseed2) * 2 ^ 32 + crc32c (flowInput p) (b.get .fwdHseed3)
  else 0

end Sys2Proof.Machine
end

