-- ==== Sys2Proof/Machine/Pacing.lean ====
section
/-!
DEFINITION. Egress queues and their pacers, spill, the output scheduler, link retry on the sending side, the partner's
pauses, queue sampling and the congestion map (R211 to R219, R226, R229 to R233, R236 to R252).
-/
namespace Sys2Proof.Machine

/-! ### Pauses and retry of a lane -/

/-- Whether the partner's pause of a rung is in force on a lane, and obeyed (R212, R226). -/
def Box.paused (b : Box) (l r : Nat) : Bool := (b.buf.paused.find (lr l r)).isSome && !b.buf.ignored.contains (lr l r)

/-- The egress queue of a lane and rung. -/
def Box.eq (b : Box) (l r : Nat) : List Desc := b.buf.eq.at (lr l r) []
@[inherit_doc Box.eq] def Box.setEq (b : Box) (l r : Nat) (q : List Desc) : Box :=
  { b with buf := { b.buf with eq := if q = [] then b.buf.eq.del (lr l r) else b.buf.eq.put (lr l r) q } }

/-- The physical slot a logical lane sends on. -/
def Box.slotOf (b : Box) (l : Nat) : Nat := b.txSlot (fibreOf l) (colourOf l)

/-- Link retry runs on a slot (R228): role of the partner endpoint, leaf or spine, RPL_EN 1, a frame-spread lane of a
fibre in fabric mode. -/
def Box.retryOn (b : Box) (f s : Nat) : Bool :=
  b.get .prtLanePeerCap f s != 0 && bits (b.get .prtLanePeerCap f s) 38 37 != 3 && b.get .prtLaneRplEn f s == 1
    && !(b.striped (portOf (laneOf f (b.slotColour f s)))) && b.get .prtMode f == 0

/-- Retry state of a slot. -/
def Box.rty (b : Box) (f s : Nat) : RetrySt := b.retry.at (phys f s) {}
@[inherit_doc Box.rty] def Box.setRty (b : Box) (f s : Nat) (g : RetrySt → RetrySt) : Box :=
  { b with retry := b.retry.upd (phys f s) {} g }

/-! ### Pacers (R236 to R243) -/

/-- Units of credit in a byte. -/
def byteUnit : Nat := 16000 * 65536

/-- LINE of a logical lane, Mb/s (R84, R237). -/
def Box.lineRate (b : Box) (l : Nat) : Nat := if b.get .prtLaneFecMode (fibreOf l) (b.slotOf l) % 2 = 1 then 199220 else 200000

/-- Number of a lane's port pacer, and the logical lanes of its half that the pacer covers (R236). -/
def Box.portBase (b : Box) (l : Nat) : Nat := ((b.portSpan (portOf l)).head?).getD (portOf l)
@[inherit_doc Box.portBase] def Box.portHalf (b : Box) (l : Nat) : List Nat :=
  (b.portSpan (portOf l)).map (fun n => laneOf (n / 4) (2 * (n % 4) + l % 2))

/-- Keys of the lane pacer and the port-half pacer of a lane. -/
def lnKey (l : Nat) : Nat := 4096 + l
@[inherit_doc lnKey] def Box.ptKey (b : Box) (l : Nat) : Nat := 8192 + 2 * b.portBase l + halfOf l

/-- RATE and BURST in force of a pacer (R241), and the code that means unpaced. -/
def Box.pacRate (b : Box) (key : Nat) : Nat × Nat :=
  (b.pac.inForce.find key).getD
    (if key < 4096 then (b.get .pacQRate (key / 4) (key % 4), b.get .pacQBurst (key / 4) (key % 4))
     else if key < 8192 then (b.get .pacLaneRate (key - 4096), b.get .pacLaneBurst (key - 4096))
     else (b.get .pacPortRate ((key - 8192) / 2), b.get .pacPortBurst ((key - 8192) / 2)))
@[inherit_doc Box.pacRate] def unpacedCode (key : Nat) : Nat := if key < 8192 then 0xFFFFF else 0x1FFFFF

/-- A pacer. -/
def Box.pacer (b : Box) (key : Nat) : Pacer := b.pac.pacers.at key {}

/-- Whether frames wait on a lane for any of its pacers: a queue, a replay or a sprint frame. -/
def Box.lnWaits (b : Box) (l : Nat) : Bool :=
  (upTo 4).any (fun r => b.eq l r != []) || (b.rty (fibreOf l) (b.slotOf l)).replay != []
    || b.spr.store.any (fun x => x.waiting.contains l)

/-- A pacer brought to the present (R237, R242): the charge that falls meanwhile, and whether frames wait or are sent
(DEDUCED, log 128). -/
def Box.pacTo (b : Box) (key : Nat) (busy : Bool) (fall : Nat) : Box :=
  let p := b.pacer key
  let par := b.pacRate key
  let rise : Int := (if key < 8192 then 2 else 1) * par.1 * (b.stamp - p.upd)
  let c : Int :=
    if par.1 = unpacedCode key then 0
    else if busy then min (par.2 * byteUnit : Nat) (p.credit + rise - fall)
    else if p.credit < 0 then min 0 (p.credit + rise) else p.credit
  { b with pac := { b.pac with pacers := b.pac.pacers.put key ⟨c, b.stamp⟩ } }

/-- What a lane's frame on the line falls by up to the present (R237). -/
def Box.fallOf (b : Box) (l : Nat) : Nat :=
  match b.pac.sending.find l with
  | some x => min x.left (2 * b.lineRate l * (b.stamp - (b.pacer (lnKey l)).upd))
  | none => 0

/-- Bring every pacer of a lane's port half to the present. -/
def Box.pacNow (b : Box) (l : Nat) : Box :=
  let lanes := (b.portHalf l).map (fun m => (m, b.fallOf m, b.lnWaits m || (b.pac.sending.find m).isSome))
  let b := b.pacTo (b.ptKey l) (lanes.any (·.2.2)) ((lanes.map (·.2.1)).sum)
  b.each lanes (fun b (m, fall, busy) =>
    let x := b.pac.sending.find m
    let b := b.each (upTo 4) (fun b r =>
      let mine := x.any (fun x => x.queued && x.rung == r)
      b.pacTo (lr m r) (b.eq m r != [] || mine) (if mine then fall else 0))
    let b := b.pacTo (lnKey m) busy fall
    match x with
    | some x => { b with pac := { b.pac with sending := b.pac.sending.put m { x with left := x.left - fall } } }
    | none => b)

/-- Take a charge from a pacer. -/
def Box.charge (b : Box) (key n : Nat) : Box :=
  if (b.pacRate key).1 = unpacedCode key then b
  else { b with pac := { b.pac with pacers := b.pac.pacers.upd key {} (fun p => { p with credit := p.credit - n }) } }

/-- When the last waiting frame leaves with credit above zero, the credit becomes zero (R237). -/
def Box.idle0 (b : Box) (l r : Nat) : Box :=
  let zero (b : Box) (key : Nat) (waits : Bool) : Box :=
    if !waits ∧ 0 < (b.pacer key).credit then
      { b with pac := { b.pac with pacers := b.pac.pacers.upd key {} (fun p => { p with credit := 0 }) } }
    else b
  let b := zero b (lr l r) (b.eq l r != [])
  let b := zero b (lnKey l) (b.lnWaits l)
  zero b (b.ptKey l) ((b.portHalf l).any b.lnWaits)

/-- Whether a pacer permits a frame (R236, R241). -/
def Box.permits (b : Box) (key : Nat) : Bool :=
  (b.pacRate key).1 == unpacedCode key || (decide (0 ≤ (b.pacer key).credit) && !(decide (key < 4096) && (b.pacRate key).1 == 0))

/-- Clamp a pacer's credit to its BURST (R241). -/
def Box.clampCredit (b : Box) (key : Nat) : Box :=
  { b with pac := { b.pac with pacers := b.pac.pacers.upd key {} (fun p =>
      { p with credit := min ((b.pacRate key).2 * byteUnit : Nat) p.credit }) } }

/-- CREDIT as a register shows it: bytes, signed, saturating (R253). -/
def Box.creditShown (b : Box) (l key : Nat) : Nat :=
  let c := ((b.pacNow l).pacer key).credit / (byteUnit : Int)
  ofSigned 24 (max (-(2 ^ 23 : Int)) (min (2 ^ 23 - 1) c))

/-- Charged length of a frame on a lane, in units (R238). -/
def Box.chargeOf (b : Box) (l len : Nat) : Nat := ((len : Int) + b.getS .pacLaneOverhead l).toNat * byteUnit

/-- A write of a pacer's RATE or BURST (R241): refused below 1000 on a queue of rung 1, 2 or 3; in force at the next
frame boundary of a lane that sends under the pacer, with the credit clamped. -/
def Box.writePacer (b : Box) (reg : Reg) (i j v : Nat) : Nat × Box :=
  if reg = .pacQRate ∧ j ≠ 0 ∧ v < 1000 then (1, b)
  else
    let lanes := if reg = .pacPortRate ∨ reg = .pacPortBurst then [2 * i, 2 * i + 1] else [i]
    (0, b.each lanes (fun b l =>
      let key := if reg = .pacQRate ∨ reg = .pacQBurst then lr l j
        else if reg = .pacPortRate ∨ reg = .pacPortBurst then 8192 + 2 * i + halfOf l else lnKey l
      let covers := if key < 8192 then [l] else b.portHalf l
      let b := b.pacNow l
      let old := b.pacRate key
      let b := b.put reg v i j
      if covers.any (fun m => (b.pac.sending.find m).isSome) then
        { b with pac := { b.pac with inForce := b.pac.inForce.put key old } }
      else b.clampCredit key))

/-- A frame boundary of a lane: values written meanwhile come into force (R241). -/
def Box.boundary (b : Box) (l : Nat) : Box :=
  b.each ([0, 1, 2, 3].map (lr l) ++ [lnKey l, b.ptKey l]) (fun b key =>
    if (b.pac.inForce.find key).isSome then
      ({ b with pac := { b.pac with inForce := b.pac.inForce.del key } }).clampCredit key
    else b)

/-! ### Random early drop (R214, R215) -/

/-- Colour of a frame (R214). -/
def Box.colourOfFrame (b : Box) (fr : Held) : Nat :=
  let p := b.parse fr.bytes
  if p.hasK ∨ p.ip = 0 then 0 else b.get .bufColourDscp p.dscp

/-- Random early drop of a frame at enqueue: whether it is dropped, the average moved on (R215). Between the bounds the
draw is the device's own: a free value. -/
def Box.red (b : Box) (l : Nat) (fr : Held) : Bool × Box :=
  let w := b.get .bufRedW
  let (n, e) := b.buf.red.at l (0, 0)
  let n' := n * (2 ^ w - 1) + b.get .bufEqDepth l 0 * 2 ^ e
  let e' := if n' = 0 then 0 else e + w
  let b := { b with buf := { b.buf with red := b.buf.red.put l (n', e') } }
  let c := b.colourOfFrame fr
  let m := b.get .bufRsvEgr 0 + b.egrAlpha l 0
  if 16 * n' < b.get .bufRedMin c * m * 2 ^ e' then (false, b)
  else if b.get .bufRedMax c * m * 2 ^ e' ≤ 16 * n' then (true, b)
  else (b.fresh.1 % 2 == 1, b.fresh.2)

/-! ### Spill (R217 to R219) -/

/-- A transfer of a half's spill within its limit of the present 1 µs interval (R219, R448): direction 0 write, 1 read. -/
def Box.spillGrant (b : Box) (h dir n : Nat) : Option Box :=
  let iv := b.ns / 1000
  let used := match b.buf.spillUse.find (2 * h + dir) with
    | some (i, u) => if i = iv then u else 0
    | none => 0
  if used + n ≤ b.get (if dir = 0 then .bufSpillWrGbps else .bufSpillRdGbps) * 1000 then
    some { b with buf := { b.buf with spillUse := b.buf.spillUse.put (2 * h + dir) (iv, used + n) } }
  else none

/-- Bytes of a share of the spill region in use, and its size (R219). -/
def Box.shareUsed (b : Box) (h : Nat) : Nat :=
  (b.buf.spill.map (fun e => (e.2.map (fun x => if x.share = h then x.frame.bytes.length else 0)).sum)).sum
@[inherit_doc Box.shareUsed] def shareSize : Nat := 8 * 2 ^ 30

/-- The share that takes a frame: the own half's, then the other's (R219). -/
def Box.shareFor (b : Box) (h n : Nat) : Option Nat :=
  [h, 1 - h].find? (fun s => decide (b.shareUsed s + n ≤ shareSize))

/-- A frame goes to spill, or is dropped when the region or the write limit is exhausted (R217, R219; DEDUCED, log
77). -/
def Box.spillIn (b : Box) (d : Desc) (fr : Held) (l : Nat) : Box :=
  let n := fr.bytes.length
  match b.shareFor (halfOf l) n with
  | none => ((b.bump .bufEqSpillDrop l).sample fr ⟨1, 0x12, false, some l, none, b.get .bufEqDepth l 0⟩).release d
  | some sh =>
    match b.spillGrant (halfOf l) 0 n with
    | none => ((b.bump .bufEqSpillDrop l).sample fr ⟨1, 0x12, false, some l, none, b.get .bufEqDepth l 0⟩).release d
    | some b =>
      let x : Spilled := ⟨{ fr with ing := 0, egr := [] }, sh, b.ns⟩
      let b := { b with buf := { b.buf with spill := b.buf.spill.upd l [] (· ++ [x]) } }
      (((b.put .bufEqState 1 l).move .bufEqSpillBytes n l).cmForce l).release d

/-- Read spilled frames back into cells, in order, as the account, the cells and the read limit accept them (R218):
at most `n` frames. -/
def Box.readBack (b : Box) (l : Nat) : Nat → Box
  | 0 => b
  | n + 1 =>
    match b.buf.spill.at l [] with
    | [] => b
    | x :: t =>
      let h := halfOf l
      let len := x.frame.bytes.length
      if !b.egrAdmits l 0 (cellsOf len) then b
      else match b.spillGrant h 1 len with
        | none => b
        | some b =>
          match b.allocFrame h { x.frame with alloc := alSpill, egr := [l] } 1 with
          | none => b
          | some (d, b) =>
            let b := { b with buf := { b.buf with spill := if t = [] then b.buf.spill.del l else b.buf.spill.put l t } }
            let b := ((b.pacNow l).move .bufEqDepth (cellsOf len) l 0).move .bufEqSpillBytes (-len) l
            let b := b.setEq l 0 (b.eq l 0 ++ [{ d with enq := x.enq }])
            (b.putIf (t == []) .bufEqState 0 l).readBack l n

/-! ### Enqueue (R207, R211) -/

/-- Whether cross-half messages wait in their senders: a width agreement runs (R470). -/
def Box.crossWaits (b : Box) : Bool := [1, 2, 3].contains (b.get .ddlWidthState)

/-- Enqueue a copy of a frame on a lane: false when its egress account refuses a rung 1, 2 or 3 frame, which then
waits. A frame whose cells lie in the other half is written into cells of the lane's half (R200); while a width agreement
runs it waits in its sender (R470). -/
def Box.place (b : Box) (d : Desc) (l : Nat) : Bool × Box :=
  match b.frameOf d with
  | none => (true, b.checkFail d)
  | some fr =>
    if d.half ≠ halfOf l ∧ b.crossWaits then
      (true, { b with ddl := { b.ddl with held := b.ddl.held ++ [⟨d.half, b.ns, l, d⟩] } })
    else
    let r := fr.rung
    let n := cellsOf fr.bytes.length
    let (red, b) := if r = 0 ∧ b.get .bufEqState l = 0 then b.red l fr else (false, b)
    if r = 0 ∧ b.get .bufEqState l = 1 then (true, b.spillIn d fr l)
    else if red then (true, ((b.bump .bufEqDropRed l).sample fr ⟨1, 0x11, false, some l, none, b.get .bufEqDepth l 0⟩).release d)
    else
      let enq (b : Box) (d : Desc) : Box :=
        let b := (b.pacNow l).move .bufEqDepth n l r
        (b.setFrame d (fun x => { x with egr := x.egr ++ [l] })).setEq l r (b.eq l r ++ [{ d with enq := b.ns }])
      let moved := if !b.egrAdmits l r n then none
        else if d.half = halfOf l then some (enq (b.dropIng d) d)
        else (b.allocFrame (halfOf l) { fr with ing := 0, egr := [] } 1).map (fun (d', b) => enq (b.release d) d')
      match moved with
      | some b => (true, b)
      | none =>
        if r ≠ 0 then (false, b)
        else if b.get .bufSpillEn = 1 ∧ b.paused l 0 then (true, b.spillIn d fr l)
        else (true, ((b.bump .bufEqDropThr l 0).sample fr ⟨1, 0x10, false, some l, none, b.get .bufEqDepth l 0⟩).release d)

/-- Enqueue the copies of a frame the module built, one per lane; refused ones wait (R205, R211). -/
def Box.placeCopies (b : Box) (d : Desc) (lanes : List Nat) : Box :=
  b.each lanes (fun b l =>
    match b.place d l with
    | (true, b) => b
    | (false, b) => { b with buf := { b.buf with copies := b.buf.copies ++ [(d, l)] } })

/-! ### Sprint frames (R240, R382) -/

/-- Send a sprint frame on a lane: charged to the lane and port pacers at once; tagged on a lane with link retry.
Answers the slot and number to wait for. -/
def Box.sprintSend (b : Box) (l rung : Nat) (bytes : List Byte) : Option (Nat × Nat) × Box :=
  let f := fibreOf l
  let s := b.slotOf l
  let b := b.pacNow l
  let c := b.chargeOf l bytes.length
  let b := (b.charge (lnKey l) c).charge (b.ptKey l) c
  if b.retryOn f s then
    let n := (b.rty f s).txSeq
    let e : Nat × Nat × Option Desc := (n, rung, none)
    let b := b.setRty f s (fun x => { x with txSeq := (n + 1) % 4096, unacked := x.unacked ++ [e] })
    (some (phys f s, n), b.emit (.sprint l rung bytes (some (linkTag rung n))))
  else (none, b.emit (.sprint l rung bytes none))

/-- Sprint frames that waited for a lane's XON are sent (R240); frames without a copy left leave the store (R382). -/
def Box.sprintXon (b : Box) (l r : Nat) : Box :=
  let st := b.spr.store
  let b := { b with spr := { b.spr with store := [] } }
  b.each st (fun b x =>
    if x.rung = r ∧ x.waiting.contains l then
      let (u, b) := b.sprintSend l r x.bytes
      let x := { x with waiting := x.waiting.erase l, unacked := x.unacked ++ u.toList }
      if x.waiting = [] ∧ x.unacked = [] then b else { b with spr := { b.spr with store := b.spr.store ++ [x] } }
    else { b with spr := { b.spr with store := b.spr.store ++ [x] } })

/-- An acknowledged copy of a sprint frame leaves the store (R382). -/
def Box.sprintAcked (b : Box) (k n : Nat) : Box :=
  let st := (b.spr.store.map (fun x => { x with unacked := x.unacked.erase (k, n) })).filter
    (fun x => x.waiting != [] || x.unacked != [])
  { b with spr := { b.spr with store := st } }

/-! ### The output scheduler (R216, R239, R240, R244, R252) -/

/-- Whether a frame is too old (R216). -/
def Box.tooOld (b : Box) (fr : Held) : Bool := decide (fr.stamp + b.get .bufAgeLimitUs fr.rung * 1000 * 65536 < b.stamp)

/-- Discard aged frames, and frames whose descriptor fails its check, from the head of a queue: at most `n` (R203,
R216). -/
def Box.ageQueue (b : Box) (l r : Nat) : Nat → Box
  | 0 => b
  | n + 1 =>
    match b.eq l r with
    | [] => b
    | d :: t =>
      match b.frameOf d with
      | none => (((b.setEq l r t).checkFail d).idle0 l r).ageQueue l r n
      | some fr =>
        if b.tooOld fr then
          let b := b.sample fr ⟨2, 0, false, some l, some (b.ns - d.enq), b.get .bufEqDepth l r⟩
          ((((b.setEq l r t).bump .bufEqAged l r).dropCopy d l).idle0 l r).ageQueue l r n
        else b

/-- The bytes of a frame as they leave: pace mark and PTP correction, with a new FCS (R55, R56, R252). The role that
counts is that of the fibre on which the message arrived (DEDUCED, log 21). -/
def Box.outBytes (b : Box) (fr : Held) (l : Nat) (mark : Bool) : List Byte :=
  let p := b.parse fr.bytes
  let x := if mark then setPace p fr.bytes else fr.bytes
  let role := b.get .prtPfRole (fr.phys / 10)
  let x := match p.ptp with
    | some o =>
      let ty := at_ fr.bytes o 1 % 16
      if fr.lane ≠ laneSelf ∧ (role = 1 ∨ role = 2) ∧ ty ≤ 3 then
        let tx := b.stamp + b.get .prtLanePfTxdly (fibreOf l) (b.slotOf l)
        let link := if role = 2 ∧ ty = 0 then b.get .prtLanePfLinkdly (fr.phys / 10) (fr.phys % 10) else 0
        addCorrection p o ((tx : Int) - fr.stamp + link) x
      else x
    | none => x
  withFcs x

/-- Whether a departing frame is marked (R252): forwarded rung 0 KFH DATA, sojourn above MARK_NS. -/
def Box.marks (b : Box) (fr : Held) (soj : Nat) : Bool :=
  let p := b.parse fr.bytes
  fr.lane != laneSelf && fr.rung == 0 && p.hasK && p.op == opData && decide (b.get .pacMarkNs < soj)

/-- The rung that the scheduler of a lane picks (R239). -/
def Box.pickRung (b : Box) (l : Nat) : Option Nat :=
  let f := fibreOf l
  let s := b.slotOf l
  let room := !(b.retryOn f s) || (decide ((b.rty f s).unacked.length < 1024) && (b.rty f s).replay == [])
  [3, 2, 1, 0].find? (fun r => b.eq l r != [] && b.permits (lr l r) && b.permits (lnKey l) && b.permits (b.ptKey l)
    && !b.paused l r && (r == 0 || room))

/-- Send the head frame of a rung. -/
def Box.sendHead (b : Box) (l r : Nat) : Box :=
  match b.eq l r with
  | [] => b
  | d :: t =>
    match b.frameOf d with
    | none => (b.setEq l r t).checkFail d
    | some fr =>
      let f := fibreOf l
      let s := b.slotOf l
      let soj := b.ns - d.enq
      let mark := b.marks fr soj
      let tagged := r != 0 && b.retryOn f s
      let n := (b.rty f s).txSeq
      let b := (b.monEvent (halfOf l) 1 (4 * l + r) soj).sample fr ⟨0, 0, mark, some l, some soj, b.get .bufEqDepth l r⟩
      let b := (b.setEq l r t).put .pacQSojLast (min soj (2 ^ 24 - 1)) l r
      let b := if mark then b.bump .pacQMarked l else b
      let bytes := b.outBytes fr l mark
      let e : Nat × Nat × Option Desc := (n, r, some d)
      let b := b.when tagged (fun b => b.setRty f s (fun x => { x with txSeq := (n + 1) % 4096, unacked := x.unacked ++ [e] }))
      let x : Sending := ⟨d, r, b.chargeOf l bytes.length, true, tagged⟩
      let b := { b with pac := { b.pac with sending := b.pac.sending.put l x } }
      (b.emit (.frame l r bytes (if tagged then some (linkTag r n) else none))).idle0 l r

/-- Send the next frame to be replayed, unless its rung is paused (R232, R240): some when a frame was sent. -/
def Box.sendReplay (b : Box) (l : Nat) : Option Box :=
  let f := fibreOf l
  let s := b.slotOf l
  match (b.rty f s).replay with
  | [] => none
  | n :: t =>
    match (b.rty f s).unacked.find? (fun u => u.1 == n) with
    | none => some (b.setRty f s (fun x => { x with replay := t }))
    | some (_, r, od) =>
      if b.paused l r then none
      else
        let b := b.setRty f s (fun x => { x with replay := t })
        match od with
        | some d =>
          match b.frameOf d with
          | none => some b
          | some fr =>
            let bytes := b.outBytes fr l false
            let x : Sending := ⟨d, r, b.chargeOf l bytes.length, false, true⟩
            some (({ b with pac := { b.pac with sending := b.pac.sending.put l x } }).emit
              (.frame l r bytes (some (linkTag r n))))
        | none =>
          match b.spr.store.find? (fun x => x.unacked.contains (phys f s, n)) with
          | none => some b
          | some x =>
            let c := b.chargeOf l x.bytes.length
            some (((b.charge (lnKey l) c).charge (b.ptKey l) c).emit (.sprint l r x.bytes (some (linkTag r n))))

/-- A frame boundary of a lane (R239): aged frames go, a replay goes first, else the head of the picked rung. -/
def Box.pick (b : Box) (l : Nat) : Box :=
  let b := b.pacNow l
  let b := b.each (upTo 4) (fun b r => b.ageQueue l r (b.eq l r).length)
  if (b.pac.sending.find l).isSome ∨ !b.laneUp (fibreOf l) (b.slotOf l) then b
  else match b.sendReplay l with
    | some b => b
    | none => match b.pickRung l with
      | some r => b.sendHead l r
      | none => b

/-- The end of a transmission (R205, R237, R241): the rest of the charge, and the copy's references unless it waits
for its ACK (R232). -/
def Box.txDone (b : Box) (l : Nat) : Box :=
  let b := b.pacNow l
  match b.pac.sending.find l with
  | none => b
  | some x =>
    let b := ((b.charge (lnKey l) x.left).charge (b.ptKey l) x.left)
    let b := if x.queued then b.charge (lr l x.rung) x.left else b
    let b := { b with pac := { b.pac with sending := b.pac.sending.del l } }
    let b := b.boundary l
    if x.tagged then b else b.dropCopy x.desc l

/-! ### Link retry, sending side (R230 to R233, R590) -/

/-- The logical lane that a slot sends for. -/
def Box.sendsFor (b : Box) (f s : Nat) : Nat := laneOf f (b.slotColour f s)

/-- An ACK covers the frames up to a number (R232). -/
def Box.acked (b : Box) (f s seq : Nat) : Box :=
  let u := (b.rty f s).unacked
  let l := b.sendsFor f s
  let done := u.filter (fun x => decide ((seq + 4096 - x.1) % 4096 < 2048))
  if done = [] then b
  else
    let b := b.setRty f s (fun x => { x with
      unacked := x.unacked.filter (fun e => !(done.contains e))
      replay := x.replay.filter (fun n => !(done.any (·.1 == n)))
      replays := 0 })
    b.each done (fun b e => match e.2.2 with
      | some d => b.dropCopy d l
      | none => b.sprintAcked (phys f s) e.1)

/-- A partner that resets holds the replay timer and count (R590). -/
def Box.ripHolds (b : Box) (f s : Nat) : Bool := let i := (b.lane f s).rip; decide (1 ≤ i) && decide (i ≤ 4)

/-- The end of replays without progress (R233): the frames return to their pipelines, to be sprayed again with their
stamps; the lane retrains. The numbers of the returned frames are free again (DEDUCED, log 22). A frame the module built
returns to the pipeline of its lane. -/
def Box.replayFail (b : Box) (f s : Nat) : Box :=
  let u := (b.rty f s).unacked
  let l := b.sendsFor f s
  let b := b.setRty f s (fun x => { x with
    unacked := [], replay := [], replays := 0, txSeq := ((u.head?).map (·.1)).getD x.txSeq })
  let b := b.each u (fun b e => match e.2.2 with
    | some d =>
      let b := b.dropEgr d l
      match b.frameOf d with
      | some fr =>
        let k := lr (if fr.lane = laneSelf then l else fr.lane) fr.rung
        { b with fwd := { b.fwd with adm := b.fwd.adm.upd k [] (· ++ [d]) } }
      | none => b.checkFail d
    | none => b.sprintAcked (phys f s) e.1)
  (b.detect f s).raise (halfOf s) .prtLaneRplReplays (phys f s) sevError 5

/-- Replay from a number in order (R232), an event of the lane's score (R594); the replay after RPL_MAX ones without
progress is R233's (DEDUCED, log 75). -/
def Box.replayFrom (b : Box) (f s n : Nat) : Box :=
  let x := b.rty f s
  let l := (x.unacked.map (·.1)).filter (fun k => decide ((k + 4096 - n) % 4096 < 2048))
  if l = [] then b
  else if !(b.ripHolds f s) ∧ b.get .prtLaneRplMax f s ≤ x.replays then b.replayFail f s
  else ((b.bump .prtLaneRplReplays f s).scoreLane (b.sendsFor f s) 2).setRty f s (fun x =>
    { x with replay := l, replays := x.replays + flag (!(b.ripHolds f s)) })

/-! ### Pauses from the partner (R212, R226, R242) -/

/-- A priority flow control frame: priorities 4 to 7 are ignored, as is PFC on a striped port (DEDUCED, log 76). -/
def Box.pfcRx (b : Box) (l r : Nat) (xoff : Bool) : Box :=
  if r > 3 ∨ b.striped (portOf l) then b
  else
    let b := b.pacNow l
    match b.buf.paused.find (lr l r), xoff with
    | none, true => { b with buf := { b.buf with paused := b.buf.paused.put (lr l r) b.stamp } }
    | some t, false =>
      let b := { b with buf := { b.buf with
        paused := b.buf.paused.del (lr l r), ignored := b.buf.ignored.erase (lr l r) } }
      let b := if r = 0 then
          { b with pac := { b.pac with pausedNs := b.pac.pausedNs.upd l 0 (· + (b.stamp - max t b.pac.lapStart)) } } else b
      b.sprintXon l r
    | _, _ => b

/-- The pause watchdog (R226, R583). -/
def Box.pauseWd (b : Box) (l r : Nat) : Box :=
  if r = 0 ∨ !b.paused l r then b
  else
    let f := fibreOf l
    let s := b.slotOf l
    let n := portOf l
    let b := { b with buf := { b.buf with ignored := b.buf.ignored ++ [lr l r] } }
    let b := ((b.bump .prtLanePauseWd f s).raise (halfOf l) .prtLanePauseWd (phys f s) sevError 0).scorePort n 5
    let twice := (b.buf.wdAt.find n).any (fun t => decide (b.ns < t + 1000000000))
    let b := { b with buf := { b.buf with wdAt := b.buf.wdAt.put n b.ns } }
    let b := b.sprintXon l r
    if twice then (b.fencePorts [n]).raise (halfOf l) .marPsFence n sevError 6 else b

/-! ### Sampling and the congestion map (R244 to R249) -/

/-- S ← S + (x − S)·2^-w, exactly: numerator and exponent of the denominator (R245). -/
def ewma (s : Nat × Nat) (x w : Nat) : Nat × Nat :=
  let n := s.1 * (2 ^ w - 1) + x * 2 ^ s.2
  if n = 0 then (0, 0) else (n, s.2 + w)

/-- The queues that a sample can change. -/
def Box.sampled (b : Box) : List Nat :=
  let deep : List Nat := b.regs.filterMap (fun e => if e.1.reg = .bufEqDepth then some (lr e.1.i e.1.j) else none)
  let seen : List Nat := b.pac.smooth.map (fun e => e.1 / 2)
  let held : List Nat := b.buf.eq.map (fun e => e.1)
  (held ++ seen ++ deep).eraseDups

/-- Sample one queue (R244 to R246). -/
def Box.sampleQueue (b : Box) (k : Nat) : Box :=
  let l := k / 4
  let r := k % 4
  let w := b.get .pacEwmaW
  let soj := match b.eq l r with | d :: _ => b.ns - d.enq | [] => 0
  let d := ewma (b.pac.smooth.at (2 * k) (0, 0)) (b.get .bufEqDepth l r) w
  let j := ewma (b.pac.smooth.at (2 * k + 1) (0, 0)) soj w
  let v := min (j.1 / 2 ^ j.2) (2 ^ 24 - 1)
  let b := { b with pac := { b.pac with
    smooth := (b.pac.smooth.put (2 * k) d).put (2 * k + 1) j
    peak := if r < 3 then b.pac.peak.upd l 0 (max v) else b.pac.peak } }
  (b.put .pacQDepthS (d.1 / 2 ^ d.2) l r).put .pacQSojS v l r

/-- Time that rung 0 of a lane was paused within the lap, 2^-16 ns (R247). -/
def Box.pausedTime (b : Box) (l : Nat) : Nat :=
  b.pac.pausedNs.at l 0 + (match b.buf.paused.find (lr l 0) with | some t => b.stamp - max t b.pac.lapStart | none => 0)

/-- Congestion value of an UP lane for the lap that ends (R246, R247). -/
def Box.cmValue (b : Box) (l : Nat) : Nat :=
  let p := b.pausedTime l
  let pct := b.get .pacCmPausePct
  if b.pac.forced.contains l ∨ b.get .bufEqState l = 1
    ∨ (0 < p ∧ pct ≤ 100 ∧ pct * (b.lapLen * 65536) ≤ 100 * p) then 3
  else ([1, 2, 3].filter (fun j => decide (b.get .pacCmT j < b.pac.peak.at l 0))).length

/-- Logical lanes whose slot is UP. -/
def Box.upLanes (b : Box) : List Nat :=
  (b.regs.filterMap (fun e => if e.1.reg = .prtLaneState ∧ e.2 = lnUp then
    (let l := laneOf e.1.i (b.slotColour e.1.i e.1.j)
     if b.slotOf l = e.1.j then some l else none) else none)).eraseDups

/-- Freeze the map of the lap that ends and start the next (R248): lanes that are not UP or are excluded hold 3. -/
def Box.cmFreeze (b : Box) (lap : Nat) (excluded : Box → Nat → Bool) : Box :=
  let up := b.upLanes
  let vals := up.map (fun l => (l, b.cmValue l))
  let word (m : Nat) : Nat := vals.foldl (fun w e => if e.1 / 32 = m then w - (3 - e.2) * 4 ^ (e.1 % 32) else w) (2 ^ 64 - 1)
  let b := b.each (upTo 32) (fun b m => b.put .pacCmNow (word m) m)
  let forced := up.filter (fun l => excluded b l || b.get .bufEqState l == 1)
  { b.put .pacCmLap lap with pac := { b.pac with peak := [], forced := forced, pausedNs := [], lapStart := b.stamp } }

/-- A lane's congestion value in force (R249). -/
def Box.cmOf (b : Box) (l : Nat) : Nat := b.get .pacCmNow (l / 32) / 4 ^ (l % 32) % 4

/-! ### The commands -/

/-- Spilled frames are read back (R218): the pause has lifted. -/
def execSpillReadback (l : Lane) (s : State) : Host.Outcome State Fault Refusal :=
  act (fun b => if b.paused l 0 then b else b.readBack l (b.buf.spill.at l []).length) s

/-- A frame boundary of a lane. -/
def execSchedulerPick (l : Lane) (s : State) : Host.Outcome State Fault Refusal := act (fun b => b.pick l) s

/-- The last bit of the frame on a lane has left. -/
def execTransmitDone (l : Lane) (s : State) : Host.Outcome State Fault Refusal := act (fun b => b.txDone l) s

/-- A priority flow control frame arrives. -/
def execPfcReceived (l : Lane) (xoff : Bool) (r : Fin 8) (s : State) : Host.Outcome State Fault Refusal :=
  act (fun b => b.pfcRx l r xoff) s

/-- A pause has lasted longer than PAUSE_WD_US. -/
def execPauseWatchdog (l : Lane) (r : Rung) (s : State) : Host.Outcome State Fault Refusal := act (fun b => b.pauseWd l r) s

/-- `MAR.PS[n].FENCE` written with 1. -/
def execPortFenceClear (src : Src) (n : Port) (s : State) : Host.Outcome State Fault Refusal :=
  act (fun b => b.regWrite src (fun b => (0, b.put .marPsFence 0 n))) s

/-- 128 ns have passed with a frame unacknowledged. -/
def execReplayAckTimer (f : Fibre) (sl : Slot) (s : State) : Host.Outcome State Fault Refusal :=
  act (fun b => if (b.rty f sl).rxSince = 0 then b
    else (b.setRty f sl (fun x => { x with rxSince := 0 })).emit (.ack f sl (((b.rty f sl).rxExp + 4095) % 4096))) s

/-- An ACK replay set arrives. -/
def execReplayAck (f : Fibre) (sl : Slot) (seq : BitVec 12) (s : State) : Host.Outcome State Fault Refusal :=
  act (fun b => b.acked f sl seq.toNat) s

/-- A NAK replay set arrives; it and the replay it asks for are two events of the lane's score (R594). -/
def execReplayNak (f : Fibre) (sl : Slot) (seq : BitVec 12) (s : State) : Host.Outcome State Fault Refusal :=
  act (fun b => ((b.bump .prtLaneRplNakRx f sl).scoreLane (b.sendsFor f sl) 2).replayFrom f sl seq.toNat) s

/-- RPL_TO_US has passed without ACK progress; held while the partner's RIP is acted on (R590). -/
def execReplayTimeout (f : Fibre) (sl : Slot) (s : State) : Host.Outcome State Fault Refusal :=
  act (fun b => match (b.rty f sl).unacked with
    | [] => b
    | (n, _) :: _ => if b.ripHolds f sl then b else b.replayFrom f sl n) s

/-- SAMPLE_NS has passed. -/
def execQueueSample (s : State) : Host.Outcome State Fault Refusal := act (fun b => b.each b.sampled Box.sampleQueue) s

end Sys2Proof.Machine
end

