-- ==== Sys2Proof/Machine/Tables.lean ====
section
/-!
DEFINITION. The forwarding tables: the exact-match table with its walks, learning and ageing, the longest-prefix table,
table records and the write digests (R172 to R188, R685).
-/
namespace Sys2Proof.Machine

/-! ### Traffic and lap boundaries (R77) -/

/-- The device as traffic of a receive stamp (2^-16 ns) sees it: values replaced at a later boundary are the old ones. -/
def Box.asOf (b : Box) (stamp : Nat) : Box :=
  (b.tim.undo.filter (fun u => stamp < u.at_)).foldl (fun b u =>
    let regs := u.regs.foldl (fun l e => l.set e.1.reg e.1.i e.1.j e.1.k e.2) b.regs
    { b with regs := regs, fwd := { b.fwd with pipes := u.pipes, lpm := u.lpm } }) b

/-! ### Exact match (R175 to R180) -/

/-- A pipeline's tables. -/
def Box.pipe (b : Box) (p : Nat) : Pipe := b.fwd.pipes.at p {}
@[inherit_doc Box.pipe] def Box.setPipe (b : Box) (p : Nat) (g : Pipe → Pipe) : Box :=
  { b with fwd := { b.fwd with pipes := b.fwd.pipes.upd p {} g } }

/-- The two candidate buckets of a key (R176). -/
def Box.buckets (b : Box) (typ key : Nat) : Nat × Nat :=
  let m := BitVec.ofNat 8 typ :: beBytes (if typ = 4 then 16 else 8) key
  let h1 := crc32c m (b.get .fwdHseed0) % 2 ^ 19
  let h2 := crc32c m (b.get .fwdHseed1) % 2 ^ 19
  (h1, if h2 = h1 then h1 ^^^ 1 else h2)

/-- Whether an entry is of a key. -/
def EmEntry.is (e : EmEntry) (typ key : Nat) : Bool := e.typ == typ && e.key == key

/-- Ways an entry takes in a bucket, and places in the stash. -/
def EmEntry.size (e : EmEntry) : Nat := if e.typ = 4 then 2 else 1

/-- A bucket. -/
def Pipe.bucket (x : Pipe) (h : Nat) : Bucket := x.em.at h {}

/-- The entries of a key in its buckets and in the stash. -/
def Pipe.all (x : Pipe) (hs : Nat × Nat) (typ key : Nat) : List EmEntry :=
  (((x.bucket hs.1).ways ++ (x.bucket hs.2).ways).filterMap id ++ x.stash).filter (·.is typ key)

/-- The entry of a key that lookups see (R175). -/
def Box.emFind (b : Box) (p typ key : Nat) : Option EmEntry :=
  ((b.pipe p).all (b.buckets typ key) typ key).find? (fun e => !e.staged)

/-- Change the visible entries of a key, wherever they lie. -/
def Pipe.change (x : Pipe) (hs : Nat × Nat) (typ key : Nat) (g : EmEntry → EmEntry) : Pipe :=
  let g' (e : EmEntry) : EmEntry := if e.is typ key ∧ !e.staged then g e else e
  let bk (em : Store Bucket) (h : Nat) : Store Bucket :=
    if (em.find h).isSome then em.upd h {} (fun y => { y with ways := y.ways.map (·.map g') }) else em
  { x with em := bk (bk x.em hs.1) hs.2, stash := x.stash.map g' }

/-- Remove the entries of a key that satisfy a test. -/
def Pipe.remove (x : Pipe) (hs : Nat × Nat) (typ key : Nat) (q : EmEntry → Bool) : Pipe :=
  let g (e : Option EmEntry) : Option EmEntry := e.filter (fun e => !(e.is typ key && q e))
  let bk (em : Store Bucket) (h : Nat) : Store Bucket :=
    if (em.find h).isSome then em.upd h {} (fun y => { y with ways := y.ways.map g }) else em
  { x with em := bk (bk x.em hs.1) hs.2, stash := x.stash.filter (fun e => !(e.is typ key && q e)) }

/-- The lowest free place of a bucket for an entry: a way, or a pair of ways (DESIGN CHOICE, log 23). -/
def Bucket.room (y : Bucket) (e : EmEntry) : Option (List Nat) :=
  let free (i : Nat) : Bool := (y.ways[i]?).any (·.isNone)
  (if e.size = 2 then [[0, 1], [2, 3]] else [[0], [1], [2], [3]]).find? (fun l => l.all free)

/-- Put an entry in ways of a bucket. -/
def Bucket.fill (y : Bucket) (l : List Nat) (e : EmEntry) : Bucket := { y with ways := l.foldl (fun w i => w.set i (some e)) y.ways }

/-- The ways that an eviction takes for an entry: the first after the rotating pointer whose contents may be displaced
(R177, R178); a wide entry takes the pair of ways that contains it, a displaced wide entry leaves both of its ways. -/
def Bucket.victim (y : Bucket) (e : EmEntry) (learned : Bool) : Option (List Nat) :=
  let pair (i : Nat) : List Nat := [i / 2 * 2, i / 2 * 2 + 1]
  let span (i : Nat) : List Nat :=
    if e.size = 2 ∨ ((y.ways[i]?).getD none).any (fun x => x.size == 2) then pair i else [i]
  let may (i : Nat) : Bool := ((y.ways[i]?).getD none).all (fun x => !learned || (!x.prog && !x.staged))
  ([0, 1, 2, 3].map (fun j => (y.ptr + j) % 4)).find? (fun i => (span i).all may) |>.map span

/-- The walk of R177: entries in hand, each with the bucket it goes to; moves left. Answers the tables and the entries
still in hand. -/
def Box.walk (b : Box) (learned : Bool) : Nat → Pipe → List (EmEntry × Nat) → Pipe × List EmEntry
  | _, x, [] => (x, [])
  | 0, x, (e, h) :: t =>
    match (x.bucket h).room e with
    | some l => ({ x with em := x.em.put h ((x.bucket h).fill l e) }, t.map (·.1))
    | none => (x, e :: t.map (·.1))
  | n + 1, x, (e, h) :: t =>
    let y := x.bucket h
    match y.room e with
    | some l => b.walk learned n { x with em := x.em.put h (y.fill l e) } t
    | none =>
      match y.victim e learned with
      | none => (x, e :: t.map (·.1))
      | some l =>
        let out := (l.filterMap (fun i => (y.ways[i]?).getD none)).eraseDups
        let y := { ({ y with ways := l.foldl (fun w i => w.set i none) y.ways }).fill (l.take e.size) e with
          ptr := ((l.getLast?).getD 0 + 1) % 4 }
        let next (v : EmEntry) : EmEntry × Nat :=
          let hs := b.buckets v.typ v.key
          (v, if hs.1 = h then hs.2 else hs.1)
        b.walk learned n { x with em := x.em.put h y } (out.map next ++ t)

/-- Places of the stash in use (R177). -/
def Pipe.stashUsed (x : Pipe) : Nat := (x.stash.map EmEntry.size).sum

/-- Place an entry: a free way of either bucket, else the walk, which first evicts in h1 or, where nothing there may be
displaced, in h2 (R177). -/
def Box.emPlace (b : Box) (x : Pipe) (e : EmEntry) (learned : Bool) : Pipe × List EmEntry :=
  let hs := b.buckets e.typ e.key
  match (x.bucket hs.1).room e, (x.bucket hs.2).room e with
  | some l, _ => ({ x with em := x.em.put hs.1 ((x.bucket hs.1).fill l e) }, [])
  | none, some l => ({ x with em := x.em.put hs.2 ((x.bucket hs.2).fill l e) }, [])
  | none, none =>
    let h := if ((x.bucket hs.1).victim e learned).isSome then hs.1 else hs.2
    b.walk learned (b.get .fwdEmKicks) x [(e, h)]

/-- The stash takes an entry when it has room. -/
def Pipe.toStash (x : Pipe) (e : EmEntry) : Option Pipe :=
  if x.stashUsed + e.size ≤ 32 then some { x with stash := x.stash ++ [e] } else none

/-- Show how much of a pipeline's tables is in use (R199). -/
def Box.showUse (b : Box) (p : Nat) : Box :=
  let x := b.pipe p
  let ways := (x.em.map (fun e => (e.2.ways.filter (·.isSome)).length)).sum
  (b.put .fwdEmUsed ways p).put .fwdStashUsed x.stash.length p

/-- Insert a learned entry (R178): false when it is abandoned. -/
def Box.learnPut (b : Box) (p : Nat) (e : EmEntry) : Bool × Box :=
  match b.emPlace (b.pipe p) e true with
  | (x, []) => (true, (b.setPipe p (fun _ => x)).showUse p)
  | (x, v :: _) =>
    match x.toStash v with
    | some x => (true, (b.setPipe p (fun _ => x)).showUse p)
    | none => (false, ((b.setPipe p (fun _ => x)).showUse p).bump .fwdLearnFail p)

/-- Insert a programmed entry in one pipeline (R178, R179): none when it fails. -/
def Box.progPut (b : Box) (p : Nat) (e : EmEntry) : Option Box :=
  let x := b.pipe p
  let hs := b.buckets e.typ e.key
  if !e.staged ∧ (x.all hs e.typ e.key).any (fun o => !o.staged) then
    some ((b.setPipe p (fun x => x.change hs e.typ e.key (fun _ => e))).showUse p)
  else
    let (x, hand) := b.emPlace x e false
    let r := hand.foldl (fun (acc : Option (Pipe × Nat)) v =>
      acc.bind (fun (x, n) => if v.prog then (x.toStash v).map (fun x => (x, n)) else some (x, n + 1))) (some (x, 0))
    r.map (fun (x, n) =>
      let b := (b.setPipe p (fun _ => x)).showUse p
      if n = 0 then b else b.bump .fwdLearnEvict p (by_ := n))

/-! ### Longest prefix (R172 to R174) -/

/-- Width of a prefix key. -/
def lpmWidth (typ : Nat) : Nat := if typ = 4 then 128 else 32

/-- A key cut to its prefix. -/
def lpmMask (typ len key : Nat) : Nat := key % 2 ^ lpmWidth typ / 2 ^ (lpmWidth typ - len) * 2 ^ (lpmWidth typ - len)

/-- Slots in use (R172). -/
def lpmUsed (l : List LpmEntry) : Nat := (l.map (fun e => if e.typ = 4 then 2 else 1)).sum

/-- The longest matching prefix that lookups see (R173). -/
def Box.lpmFind (b : Box) (typ key : Nat) : Option LpmEntry :=
  (b.fwd.lpm.filter (fun e => e.typ == typ && !e.staged && lpmMask typ e.len key == e.key)).foldl
    (fun best e => match best with
      | some m => if m.len < e.len then some e else best
      | none => some e) none

/-- Show the slots in use in every pipeline. -/
def Box.showLpm (b : Box) : Box := b.each (upTo 16) (fun b p => b.put .fwdLpmUsed (lpmUsed b.fwd.lpm) p)

/-! ### Table records (R186 to R188, R685) -/

/-- The fields of a 32-byte record (R186). -/
structure Record where
  op : Nat
  table : Nat
  typ : Nat
  len : Nat
  set_ : Nat
  member : Nat
  key : Nat
  nhs : Nat
  lane : Nat
  low : Nat
  deriving DecidableEq, Repr

/-- A record from its words. -/
def Record.ofWords (w0 w1 w2 w3 : Nat) : Record :=
  let typ := bits w0 47 45
  let table := bits w0 55 48
  let len := bits w0 43 36
  let k := w1 * 2 ^ 64 + w2
  let key := if table = 1 then lpmMask typ len k
    else if typ = 4 then k else if typ = 5 then w2 else if typ = 6 then w2 % 2 ^ 48 else w2 % 2 ^ 32
  ⟨bits w0 63 56, table, typ, len, bits w0 35 24, bits w0 23 20, key, bits w3 55 44, bits w3 43 34, w3 % 2 ^ 13⟩

/-- Whether a record breaks a rule of R685; a SET_MODE that names no mode of R189 is bad too (DEDUCED,
log 139). -/
def Record.bad (r : Record) : Bool :=
  if r.op = 4 ∨ r.op = 5 then r.table != 3 || (r.op == 5 && r.low % 4 == 3)
  else if 1 ≤ r.op ∧ r.op ≤ 3 then
    r.set_ != 0 ||
      (if r.table = 1 then !([1, 2, 4].contains r.typ) || decide (lpmWidth r.typ < r.len)
       else if r.table = 2 then !([1, 2, 4, 5, 6].contains r.typ)
       else true)
  else true

/-- The CRC-32C of the canonical record of an entry (R188; words in order, each most significant byte first, DEDUCED,
log 24). -/
def recordCrc (table typ len key nhs lane : Nat) : Nat :=
  let w0 := 2 ^ 56 + table * 2 ^ 48 + typ * 2 ^ 45 + len * 2 ^ 36
  crc32c (beBytes 8 w0 ++ beBytes 16 key ++ beBytes 8 (nhs * 2 ^ 44 + lane * 2 ^ 34))

/-- XOR a value into the write digest of a table in every pipeline (R188). -/
def Box.digest (b : Box) (t v : Nat) : Box := b.each (upTo 16) (fun b p => b.put .fwdWdig (b.get .fwdWdig p t ^^^ v) p t)

/-- The write digest of the next-hop sets after a write: the specification gives their entries no canonical record, so
its value is free, the same in every pipeline (DESIGN CHOICE, log 25). -/
def Box.digestSets (b : Box) : Box :=
  let (v, b) := b.fresh
  b.each (upTo 16) (fun b p => b.put .fwdWdig v p 2)

/-- An exact-match entry of a record. -/
def Record.entry (r : Record) (staged : Bool) : EmEntry := ⟨r.typ, true, false, false, staged, false, r.key, r.nhs, r.lane, 0⟩

/-- The programmed entry of a key that lookups see. -/
def Box.emProg (b : Box) (typ key : Nat) : Option EmEntry :=
  ((b.pipe 0).all (b.buckets typ key) typ key).find? (fun e => e.prog && !e.staged)

/-- The prefix entry of a key. -/
def Box.lpmEntry (b : Box) (typ len key : Nat) : Option LpmEntry :=
  b.fwd.lpm.find? (fun e => e.typ == typ && e.len == len && e.key == key && !e.staged)

/-- Insert a programmed entry in every pipeline; none when one of them fails (R186). -/
def Box.progAll (b : Box) (e : EmEntry) : Option Box := (upTo 16).foldl (fun acc p => acc.bind (·.progPut p e)) (some b)

/-- Change the lookup tables of every pipeline alike. -/
def Box.emAll (b : Box) (g : Pipe → Pipe) : Box :=
  b.each (upTo 16) (fun b p => (b.setPipe p g).showUse p)

/-- ADD, DELETE and MODIFY of a prefix: status and effect. -/
def Box.lpmRecord (b : Box) (r : Record) : Nat × Box :=
  let same (e : LpmEntry) : Bool := e.typ == r.typ && e.len == r.len && e.key == r.key && !e.staged
  match r.op, b.lpmEntry r.typ r.len r.key with
  | 1, some _ => (5, b)
  | 1, none =>
    let e : LpmEntry := ⟨r.typ, r.len, r.key, r.nhs, false, false⟩
    if lpmUsed (e :: b.fwd.lpm) > 131072 then (1, b)
    else (0, (({ b with fwd := { b.fwd with lpm := e :: b.fwd.lpm } }).digest 0
      (recordCrc 1 r.typ r.len r.key r.nhs 0)).showLpm)
  | _, none => (2, b)
  | 2, some e => (0, (({ b with fwd := { b.fwd with lpm := b.fwd.lpm.filter (fun x => !same x) } }).digest 0
      (recordCrc 1 r.typ r.len r.key e.nhs 0)).showLpm)
  | _, some e =>
    (0, ({ b with fwd := { b.fwd with lpm := b.fwd.lpm.map (fun x => if same x then { x with nhs := r.nhs } else x) } }).digest 0
      (recordCrc 1 r.typ r.len r.key e.nhs 0 ^^^ recordCrc 1 r.typ r.len r.key r.nhs 0))

/-- ADD, DELETE and MODIFY of an exact-match entry. -/
def Box.emRecord (b : Box) (r : Record) : Nat × Box :=
  let hs := b.buckets r.typ r.key
  match r.op, b.emProg r.typ r.key with
  | 1, some _ => (5, b)
  | 1, none =>
    match b.progAll (r.entry false) with
    | some b => (0, b.digest 1 (recordCrc 2 r.typ 0 r.key r.nhs r.lane))
    | none => (1, b)
  | _, none => (2, b)
  | 2, some e =>
    (0, (b.emAll (fun x => x.remove hs r.typ r.key (fun e => e.prog && !e.staged))).digest 1
      (recordCrc 2 r.typ 0 r.key e.nhs e.lane))
  | _, some e =>
    (0, (b.emAll (fun x => x.change hs r.typ r.key (fun e => { e with nhs := r.nhs, lane := r.lane }))).digest 1
      (recordCrc 2 r.typ 0 r.key e.nhs e.lane ^^^ recordCrc 2 r.typ 0 r.key r.nhs r.lane))

/-- SET_MEMBER and SET_MODE. -/
def Box.setRecord (b : Box) (r : Record) : Box :=
  (if r.op = 4 then b.put .fwdNhsMember r.low r.set_ r.member else b.put .fwdNhsMode r.low r.set_).digestSets

/-- The effect of a good record at once: status of TCMD_STAT and the tables. -/
def Box.applyRecord (b : Box) (r : Record) : Nat × Box :=
  if r.bad then (3, b)
  else if r.table = 1 then b.lpmRecord r
  else if r.table = 2 then b.emRecord r
  else (0, b.setRecord r)

/-- TCMD[3] is written: the direct record takes effect (R186). -/
def Box.direct (b : Box) : Box :=
  if b.get .fwdCtrlDirectEn = 0 then b.put .fwdTcmdStat 4
  else
    let (st, b) := b.applyRecord
      (Record.ofWords (b.get .fwdTcmd 0) (b.get .fwdTcmd 1) (b.get .fwdTcmd 2) (b.get .fwdTcmd 3))
    b.put .fwdTcmdStat st

/-- A write to TCMD[m]. -/
def Box.writeTcmd (b : Box) (m v : Nat) : Nat × Box :=
  let b := b.put .fwdTcmd v m
  (0, if m = 3 then b.direct else b)

/-- The four words of a record written to TCMD[0] to TCMD[3]. -/
def Box.tcmd4 (b : Box) (w0 w1 w2 w3 : Nat) : Nat × Box :=
  ((((b.writeTcmd 0 w0).2.writeTcmd 1 w1).2.writeTcmd 2 w2).2).writeTcmd 3 w3

/-! ### Staged records (R187) -/

/-- Whether a record's key is a programmed entry, after earlier records of its group: `seen` says what they made of it. -/
def Box.present (b : Box) (seen : List (Record × Bool)) (r : Record) : Bool :=
  match seen.find? (fun e => e.1.table == r.table && e.1.typ == r.typ && e.1.len == r.len && e.1.key == r.key) with
  | some (_, v) => v
  | none => if r.table = 1 then (b.lpmEntry r.typ r.len r.key).isSome else (b.emProg r.typ r.key).isSome

/-- Check the records of a group in staging order (R187). -/
def Box.checkRecords (b : Box) : List (Record × Bool) → List Record → Bool
  | _, [] => true
  | seen, r :: t =>
    if r.bad then false
    else if r.table = 3 then b.checkRecords seen t
    else if (r.op == 1) == b.present seen r then false
    else b.checkRecords ((r, r.op != 2) :: seen) t

/-- Place the staged insertions and mark the staged deletions (R187); none when capacity is short. -/
def Box.stageRecords (b : Box) : List Record → Option Box
  | [] => some b
  | r :: t =>
    match r.table, r.op with
    | 1, 1 =>
      let e : LpmEntry := ⟨r.typ, r.len, r.key, r.nhs, true, false⟩
      if lpmUsed (e :: b.fwd.lpm) > 131072 then none
      else Box.stageRecords ({ b with fwd := { b.fwd with lpm := e :: b.fwd.lpm } }.showLpm) t
    | 1, 2 =>
      let g (e : LpmEntry) : LpmEntry :=
        if e.typ = r.typ ∧ e.len = r.len ∧ e.key = r.key ∧ !e.staged then { e with doomed := true } else e
      Box.stageRecords { b with fwd := { b.fwd with lpm := b.fwd.lpm.map g } } t
    | 2, 1 => (b.progAll (r.entry true)).bind (fun b => Box.stageRecords b t)
    | 2, 2 =>
      Box.stageRecords (b.emAll (fun x =>
        x.change (b.buckets r.typ r.key) r.typ r.key (fun e => { e with doomed := true }))) t
    | _, _ => Box.stageRecords b t

/-- Undo the placements of a group's records. -/
def Box.unstageRecords (b : Box) (l : List Record) : Box :=
  (b.each l (fun b r =>
    let hs := b.buckets r.typ r.key
    let k (e : LpmEntry) : Bool := e.typ == r.typ && e.len == r.len && e.key == r.key
    match r.table, r.op with
    | 1, 1 => { b with fwd := { b.fwd with lpm := b.fwd.lpm.filter (fun e => !(k e && e.staged)) } }
    | 1, 2 => { b with fwd := { b.fwd with lpm := b.fwd.lpm.map (fun e => if k e then { e with doomed := false } else e) } }
    | 2, 1 => b.emAll (fun x => x.remove hs r.typ r.key (·.staged))
    | 2, 2 => b.emAll (fun x => x.change hs r.typ r.key (fun e => { e with doomed := false }))
    | _, _ => b)).showLpm

/-- The records of a group take effect at its commit lap (R187): an earlier commit of the same key gives way. -/
def Box.commitRecords (b : Box) (l : List Record) : Box :=
  let b := b.unstageRecords l
  b.each l (fun b r =>
    match b.applyRecord r with
    | (5, b) => (b.applyRecord { r with op := 3 }).2
    | (2, b) => if r.op = 3 then (b.applyRecord { r with op := 1 }).2 else b
    | (_, b) => b)

/-! ### Learning (R181) -/

/-- Whether a pipeline may make one more learning change in this microsecond; the count moves on. -/
def Box.learnSlot (b : Box) (p : Nat) : Bool × Box :=
  let x := b.pipe p
  let us := b.ns / 1000
  let n := if x.learnUs = us then x.learn else 0
  if n < b.get .fwdLearnMax then (true, b.setPipe p (fun x => { x with learn := n + 1, learnUs := us }))
  else (false, b.bump .fwdLearnFail p)

/-- Set HIT of an entry (R175). -/
def Box.hit (b : Box) (p typ key : Nat) : Box :=
  b.setPipe p (fun x => x.change (b.buckets typ key) typ key (fun e => { e with hit := true }))

/-- Learn a source address (R181). -/
def Box.learn (b : Box) (p typ key nhs : Nat) : Box :=
  match b.emFind p typ key with
  | some e =>
    if !e.prog ∧ e.nhs ≠ nhs then
      match b.learnSlot p with
      | (true, b) => (b.setPipe p (fun x => x.change (b.buckets typ key) typ key
          (fun e => { e with nhs := nhs, hit := true }))).bump .fwdLearnMove p
      | (false, b) => b
    else b.hit p typ key
  | none =>
    match b.learnSlot p with
    | (true, b) => (b.learnPut p ⟨typ, false, true, false, false, false, key, nhs, 0, 0⟩).2
    | (false, b) => b

/-! ### Ageing (R184, R185) -/

/-- A counted pass on one entry: kept as changed, or removed. -/
def EmEntry.sweep (e : EmEntry) : Option EmEntry :=
  if e.hit then some { e with hit := false, aged := false }
  else if !e.aged then some { e with aged := true }
  else if !e.prog then none else some e

/-- One pass over a pipeline for the entry types that it counts for (DEDUCED, log 73). -/
def Box.sweepPipe (b : Box) (types : List Nat) (p : Nat) : Box :=
  let gone := ((b.pipe p).em.map (fun e => ((e.2.ways.filterMap id).eraseDups.filter
    (fun e => types.contains e.typ && e.sweep.isNone)).length)).sum
  let g (w : Option EmEntry) : Option EmEntry := w.bind (fun e => if types.contains e.typ then e.sweep else some e)
  let b := b.setPipe p (fun x => { x with em := x.em.map (fun e => (e.1, { e.2 with ways := e.2.ways.map g })) })
  (if gone = 0 then b else b.bump .fwdAgedOut p (by_ := gone)).showUse p

/-- The sweeper starts the pass whose start is the latest at or before the present (R184). -/
def Box.sweep (b : Box) : Box :=
  let n := b.ns / (b.get .fwdSweepUs * 1000)
  if b.fwd.pass = some n then b
  else
    let b := { b with fwd := { b.fwd with pass := some n } }
    let types := [1, 2, 3, 4, 5, 6].filter (fun t => b.get .fwdAgePass t != 0 && n % b.get .fwdAgePass t == 0)
    if types = [] then b else b.each (b.fwd.pipes.map (·.1)) (Box.sweepPipe · types)

/-- A compare pass ends (R188). -/
def Box.compareEnd (b : Box) (p t mdig : Nat) : Box :=
  let b := b.put .fwdMdig mdig p t
  if mdig ≠ b.get .fwdWdig p t ∨ (upTo 16).any (fun q => b.get .fwdWdig q t != b.get .fwdWdig p t) then
    (b.setBit .fwdCmpStat t p).raise (p / 8) .fwdCmpStat p sevError 0 (p * 4 + t)
  else b

/-! ### The commands -/

/-- A direct ADD record. -/
def execTableAdd (src : Src) (w0 w1 w2 w3 : BitVec 64) (s : State) : Host.Outcome State Fault Refusal :=
  act (fun b => b.regWrite src (fun b => b.tcmd4 w0.toNat w1.toNat w2.toNat w3.toNat)) s

/-- A direct DELETE record. -/
def execTableDelete (src : Src) (w0 w1 w2 w3 : BitVec 64) (s : State) : Host.Outcome State Fault Refusal :=
  act (fun b => b.regWrite src (fun b => b.tcmd4 w0.toNat w1.toNat w2.toNat w3.toNat)) s

/-- A direct MODIFY record. -/
def execTableModify (src : Src) (w0 w1 w2 w3 : BitVec 64) (s : State) : Host.Outcome State Fault Refusal :=
  act (fun b => b.regWrite src (fun b => b.tcmd4 w0.toNat w1.toNat w2.toNat w3.toNat)) s

/-- A direct SET_MEMBER record. -/
def execTableSetMember (src : Src) (w0 w1 w2 w3 : BitVec 64) (s : State) : Host.Outcome State Fault Refusal :=
  act (fun b => b.regWrite src (fun b => b.tcmd4 w0.toNat w1.toNat w2.toNat w3.toNat)) s

/-- A direct SET_MODE record. -/
def execTableSetMode (src : Src) (w0 w1 w2 w3 : BitVec 64) (s : State) : Host.Outcome State Fault Refusal :=
  act (fun b => b.regWrite src (fun b => b.tcmd4 w0.toNat w1.toNat w2.toNat w3.toNat)) s

/-- A sweeper pass starts. -/
def execSweepPass (s : State) : Host.Outcome State Fault Refusal := act Box.sweep s

/-- A compare pass of a table of a pipeline ends with a digest. -/
def execComparePassEnd (p : Pipeline) (t : Fin 3) (mdig : BitVec 32) (s : State) : Host.Outcome State Fault Refusal :=
  act (fun b => b.compareEnd p t mdig.toNat) s

end Sys2Proof.Machine
end

