-- ==== Sys2Proof/Machine/Forward.lean ====
section
/-!
DEFINITION. The forwarding pipelines: which descriptor is next, where a frame goes, spraying, and the export of the
congestion map (R24, R162 to R171, R181, R189 to R198, R211, R250, R251).
-/
namespace Sys2Proof.Machine

/-! ### Which frame is next (R24, R163, R164) -/

/-- The pipeline of a receive lane: eight per half, one per fibre group; a striped port is the north pipeline's. -/
def Box.pipeOf (b : Box) (l : Nat) : Nat := (if b.striped (portOf l) then 0 else 8 * halfOf l) + fibreOf l / 16

/-- An admission queue. -/
def Box.adm (b : Box) (l r : Nat) : List Desc := b.fwd.adm.at (lr l r) []
@[inherit_doc Box.adm] def Box.setAdm (b : Box) (l r : Nat) (q : List Desc) : Box :=
  { b with fwd := { b.fwd with adm := if q = [] then b.fwd.adm.del (lr l r) else b.fwd.adm.put (lr l r) q } }

/-- Whether a descriptor is free in a lane's admission queue for a rung: 16 of the 256 are reserved for each of rungs 1,
2 and 3, and used before the shared ones (R163; DEDUCED, log 26). -/
def Box.admRoom (b : Box) (l r : Nat) : Bool :=
  let n (r : Nat) : Nat := (b.adm l r).length
  let shared := n 0 + (n 1 - 16) + (n 2 - 16) + (n 3 - 16)
  (r != 0 && decide (n r < 16)) || decide (shared < 208)

/-- The lane a pipeline serves next within a rung: round-robin among those with a frame that does not wait for its
egress account (R163, R211). -/
def Box.nextLane (b : Box) (p r : Nat) : Option Nat :=
  let c := (b.fwd.adm.filter (fun e => e.1 % 4 == r && e.2 != [] && (b.fwd.wait.find e.1).isNone
    && b.pipeOf (e.1 / 4) == p)).map (fun e => e.1 / 4)
  let last := (b.pipe p).rr.at r 1024
  ((if last = 1024 then none else c.find? (fun l => decide (last < l)))).orElse (fun _ => c.head?)

/-- The descriptor a pipeline takes next: rung, lane (R163). -/
def Box.nextFrame (b : Box) (p : Nat) : Option (Nat × Nat) :=
  [3, 2, 1, 0].findSome? (fun r => (b.nextLane p r).map (fun l => (r, l)))

/-! ### Eligible lanes (R190) -/

/-- Traffic that a partner's RIP on a lane keeps off: by rung and opcode (R117, R190). -/
def ripBars (rip rung : Nat) (op : Option Nat) : Bool :=
  if rip = 3 then op.any (fun o => [opContrib, opGatherReq, opScatter].contains o) else decide (rip ≠ 0) && rung == 0

/-- Whether a RIP exclusion holds for a lane's slot. -/
def Box.ripOut (b : Box) (f s rung : Nat) (op : Option Nat) : Bool :=
  b.lanes.any (fun e =>
    e.2.rip != 0 &&
      (if e.2.rip = 5 then e.1 == phys f s
       else (e.1 == phys f s || (b.peerPlid f s != 0 && b.peerPlid (e.1 / 10) (e.1 % 10) == b.peerPlid f s))
         && ripBars e.2.rip rung op))

/-- Whether a logical lane passes every exclusion of R190 and those of R597 and R603. -/
def Box.eligible (b : Box) (l rung : Nat) (op : Option Nat) : Bool :=
  let f := fibreOf l
  let s := b.slotOf l
  b.laneUp f s && b.get .marPsFence (portOf l) == 0 && !b.bypassOut f (colourOf l) && !(b.lane f s).heldOut
    && !(b.peerPlid f s != 0 && b.mar.expelled.contains (b.peerPlid f s)) && !b.ripOut f s rung op

/-- A lane that can be sprayed onto: logical lane, member weight, the lanes whose congestion counts. -/
structure Cand where
  lane : Nat
  weight : Nat
  cm : List Nat
  deriving DecidableEq, Repr

/-- The members of a next-hop set with nonzero weight: port, weight (R189). -/
def Box.members (b : Box) (n : Nat) : List (Nat × Nat) :=
  ((upTo 16).map (fun m => b.get .fwdNhsMember n m)).filterMap (fun v => if v / 512 = 0 then none else some (v % 512, v / 512))

/-- Colour pairs of a member's port (R190). -/
def Box.memberPairs (b : Box) (n : Nat) : List Nat := if b.striped n then (b.portSpan n).map (· % 4) else [n % 4]

/-- The members that a PAIRS hint leaves. -/
def Box.hinted (b : Box) (ms : List (Nat × Nat)) (pairs : Nat) : List (Nat × Nat) :=
  ms.filter (fun m => (b.memberPairs m.1).any (fun p => bitAt pairs p))

/-- Put a candidate in a list ordered by lane, weights of one lane added. -/
def addCand : List Cand → Cand → List Cand
  | [], c => [c]
  | d :: t, c =>
    if c.lane = d.lane then { d with weight := d.weight + c.weight } :: t
    else if c.lane < d.lane then c :: d :: t
    else d :: addCand t c

/-- The eligible lanes of members on a half; `arrival` is the frame's arrival half, on which alone a striped member
stands (R190; DEDUCED, log 71). -/
def Box.cands (b : Box) (ms : List (Nat × Nat)) (h arrival rung : Nat) (op : Option Nat) : List Cand :=
  ms.foldl (fun acc (n, w) =>
    if b.striped n then
      let lanes := (b.portSpan n).flatMap portLanes
      if h = arrival ∧ !b.ddl.stripes.contains (((b.portSpan n).head?).getD n) ∧ lanes.all (b.eligible · rung op) then
        addCand acc ⟨2 * ((b.portSpan n).head?).getD n, w, lanes⟩
      else acc
    else if b.eligible (2 * n + h) rung op then addCand acc ⟨2 * n + h, w, [2 * n + h]⟩
    else acc) []

/-- The candidate whose cumulative weight covers `x`. -/
def cover (wt : Cand → Nat) : List Cand → Nat → Option Nat
  | [], _ => none
  | c :: t, x => if x < wt c then some c.lane else cover wt t (x - wt c)

/-- The choice of HASH mode (R192). -/
def hashPick (cs : List Cand) (key : Nat) : Option Nat :=
  cover (·.weight) cs (key % 2 ^ 32 % (cs.map (·.weight)).sum)

/-- Whether a lane's partner is derated by a verdict, or shows DOUBT (R603, R606). -/
def Box.lightly (b : Box) (l : Nat) : Bool :=
  let p := b.peerPlid (fibreOf l) (b.slotOf l)
  p != 0 && (b.mar.derated.contains p || (b.mar.status.find p).any (fun x => bitAt x.2 20))

/-- The effective weight of a candidate (R191): a derated partner's lanes have a least congestion value (R603). -/
def Box.effWeight (b : Box) (c : Cand) : Nat :=
  let v (l : Nat) : Nat := if b.lightly l then max (b.cmOf l) (b.get .marDerateC) else b.cmOf l
  c.weight * b.get .fwdCmScale ((c.cm.map v).foldl max 0)

/-- The choice of PACKET mode (R191, R192): the draw is the pipeline's own, a free value. `v` is the device as the frame
sees it (DEDUCED, log 70). -/
def Box.packetPick (b v : Box) (p : Nat) (cs : List Cand) : Option Nat × Box :=
  let sum := (cs.map v.effWeight).sum
  let (x, b) := b.fresh
  if sum = 0 then (cover (·.weight) cs (x % (cs.map (·.weight)).sum), b.bump .fwdCmAllsat p)
  else (cover v.effWeight cs (x % sum), b)

/-- Fabric time bits [29:6], as a flowlet entry keeps them (R175). -/
def Box.tlast (b : Box) : Nat := b.ns / 64 % 2 ^ 24

/-- The choice of FLOWLET mode (R192). -/
def Box.flowPick (b v : Box) (p : Nat) (cs : List Cand) (key : Nat) : Option Nat × Box :=
  let put (b : Box) (l : Nat) : Box := b.setPipe p (fun x => x.change (b.buckets 3 key) 3 key
    (fun e => { e with lane := l, tlast := b.tlast, hit := true }))
  match b.emFind p 3 key with
  | some e =>
    if cs.any (·.lane == e.lane) ∧ (b.tlast + 2 ^ 24 - e.tlast) % 2 ^ 24 * 64 < b.get .fwdFlowletGapNs then
      (some e.lane, put b e.lane)
    else
      match b.packetPick v p cs with
      | (some l, b) => (some l, put b l)
      | r => r
  | none =>
    match b.packetPick v p cs with
    | (some l, b) =>
      match b.learnPut p ⟨3, false, true, false, false, false, key, 0, l, b.tlast⟩ with
      | (true, b) => (some l, b)
      | (false, b) => (hashPick cs key, b)
    | r => r

/-- Choose a lane among candidates (R192). -/
def Box.choose (b v : Box) (p mode rung : Nat) (kfh : Bool) (cs : List Cand) (key : Nat) : Option Nat × Box :=
  let m := max mode (if rung = 3 then 2 else if kfh then 0 else 1)
  if m = 0 then b.packetPick v p cs else if m = 1 then b.flowPick v p cs key else (hashPick cs key, b)

/-- Spray a frame by a next-hop set (R190 to R193); none when neither half has an eligible lane. -/
def Box.spray (b v : Box) (p half rung set_ : Nat) (op : Option Nat) (pairs key : Nat) : Option Nat × Box :=
  let ms := v.members set_
  let hinted := v.hinted ms pairs
  let b := if ms ≠ [] ∧ hinted = [] then b.bump .fwdHintIgnored p else b
  let ms := if hinted = [] then ms else hinted
  let mode := v.get .fwdNhsMode set_
  match v.cands ms half half rung op with
  | c :: t => b.choose v p mode rung op.isSome (c :: t) key
  | [] =>
    match v.cands ms (1 - half) half rung op with
    | c :: t => (b.bump .fwdXhalfFallback p).choose v p mode rung op.isSome (c :: t) key
    | [] => (none, b)

/-! ### Destination (R170) -/

/-- What the pipeline does with a frame. -/
inductive Verdict_ where
  | drop (cause : Nat)
  | ctl
  | relay
  | lane (l : Nat)
  deriving DecidableEq, Repr

/-- Drop a frame with a cause (R166). -/
def Box.dropFrame (b : Box) (p c : Nat) (d : Desc) : Box :=
  let b := b.bump .fwdDrop p c
  (match b.frameOf d with
   | some fr => b.sample fr ⟨1, c, false, none, none, 0⟩
   | none => b).release d

/-- The checks of R165 and R168 that come before the destination: a cause, or CTL, or none (DEDUCED, log 72). -/
def Box.precheck (b v : Box) (fr : Held) (q : Parsed) : Option Verdict_ :=
  let n := fr.bytes.length
  if n < 64 ∨ n > min (b.get .fwdMtu) 9216 then some (.drop 1)
  else match q.bad with
    | some c => some (.drop c)
    | none =>
      if q.ctl then some .ctl
      else if q.ptp.isSome ∧ b.get .prtPfRole (fr.phys / 10) = 3 ∧ q.etype = 0x88F7 ∧ q.da = v.get .fwdModMac then some .ctl
      else if q.hasK then
        if q.ver ≠ 1 ∨ (opRung q.op).isNone then some (.drop 5)
        else if opRung q.op ≠ some q.kRung then some (.drop 6)
        else if [opSprint, opSprintResult, opKeepalive].contains q.op
          ∧ b.get .prtLaneFecMode (fr.phys / 10) (fr.phys % 10) % 2 = 0 then some (.drop 7)
        else if v.ownFeid q.feid then
          if [opContrib, opGatherReq, opScatter].contains q.op then some .relay
          else if q.op = opCtrl then some .ctl
          else some (.drop 8)
        else if v.ownIp q then some .ctl
        else none
      else if v.ownIp q then some .ctl
      else none

/-- A route: a pinned lane with its fallback set, or a set (R170 items 2 to 4); keys that matched are named. -/
def Box.route (v : Box) (p : Nat) (q : Parsed) (key : Nat) : Option (Option Nat × Nat × Option (Nat × Nat)) :=
  let pin := if q.hasK then (6, q.feid * 65536 + q.entropy) else (5, key)
  let host := if q.hasK then (1, q.feid) else if q.ip = 4 then (2, q.dst) else (4, q.dst)
  if !q.hasK ∧ q.ip = 0 then none
  else match v.emFind p pin.1 pin.2 with
    | some e => some (some e.lane, e.nhs, some pin)
    | none =>
      match v.emFind p host.1 host.2 with
      | some e => some (none, e.nhs, some host)
      | none => (v.lpmFind host.1 host.2).map (fun e => (none, e.nhs, none))

/-- Decide a frame (R170, R190 to R194). `ecc` is what the exact-match memory found: nothing, a corrected bit, or an
uncorrectable error in an entry the frame would have matched (R180). -/
def Box.decide_ (b v : Box) (p : Nat) (fr : Held) (q : Parsed) (ecc : Nat) : Verdict_ × Box :=
  let rung := b.rungOf q
  let key := v.flowKey q
  let half := if b.striped (portOf fr.lane) ∧ fr.lane ≠ laneSelf then 0 else p / 8
  let op := if q.hasK then some q.op else none
  let b := if ecc = 1 then b.bump .fwdEccCorr p else b
  if ecc = 2 then
    (.drop 11, (b.bump .fwdEccUncorr p).raise (p / 8) .fwdEccUncorr p sevError 1
      (v.buckets (if q.hasK then 1 else 2) (if q.hasK then q.feid else q.dst)).1)
  else match v.route p q key with
    | none => (.drop 9, b)
    | some (pin, set_, m) =>
      let b := match m with | some (t, k) => b.hit p t k | none => b
      if q.ip ≠ 0 ∧ q.ttl ≤ 1 then (.drop 4, b)
      else
        let pairs := if q.hasK then q.pairs else 15
        let spray (b : Box) : Verdict_ × Box :=
          match b.spray v p half rung set_ op pairs key with
          | (some l, b) => (.lane l, b)
          | (none, b) => (.drop 10, b)
        match pin with
        | some l => if v.eligible l rung op then (.lane l, b) else spray (b.bump .fwdPinFallback p)
        | none => spray b

/-- Learn from a parsed frame (R181): one that carries IP, whether or not KFH over UDP follows. -/
def Box.learnFrom (b v : Box) (p : Nat) (fr : Held) (q : Parsed) : Box :=
  let nhs := v.get .fwdPortLearnNhs (portOf fr.lane)
  if fr.lane = laneSelf ∨ q.ip = 0 ∨ nhs = 0xFFF then b else b.learn p (if q.ip = 4 then 2 else 4) q.src nhs

/-- Rewrite a frame for its egress port (R198). -/
def Box.rewriteFor (b v : Box) (d : Desc) (q : Parsed) (l : Nat) : Box :=
  b.setFrame d (fun fr => { fr with bytes := rewrite q (v.get .fwdPortPeerMac (portOf l)) (v.get .fwdModMac) fr.bytes })

/-- The module itself is EXPELLED: contributions and gathers are dropped (R607; DEDUCED, log 123). -/
def Box.expelledSelf (b : Box) : Bool := b.get .marSelfState == 4

/-- One descriptor passes through a pipeline. -/
def Box.pipeline (b : Box) (p ecc : Nat) : Box :=
  match b.nextFrame p with
  | none => b
  | some (r, l) =>
    match b.adm l r with
    | [] => b
    | d :: t =>
      let b := (b.setAdm l r t).setPipe p (fun x => { x with rr := x.rr.put r l })
      match b.frameOf d with
      | none => b.checkFail d
      | some fr =>
        let v := b.asOf fr.stamp
        let q := v.parse fr.bytes
        let b := if q.bad.isNone then b.learnFrom v p fr q else b
        match b.precheck v fr q with
        | some (.drop c) => b.dropFrame p c d
        | some .ctl => (b.emit (.toCtl fr.bytes)).release d
        | some .relay =>
          if b.expelledSelf ∧ (q.op = opContrib ∨ q.op = opGatherReq) then (b.bump .marSelfDrop).release d
          else { b with rly := { b.rly with inbox := b.rly.inbox.upd d.half [] (· ++ [d]) } }
        | some (.lane _) => b
        | none =>
          match b.decide_ v p fr q ecc with
          | (.drop c, b) => b.dropFrame p c d
          | (.lane l', b) =>
            let b := if fr.lane = laneSelf then b else b.rewriteFor v d q l'
            match b.place d l' with
            | (true, b) => b
            | (false, b) =>
              let b := b.setAdm l r (d :: b.adm l r)
              { b with fwd := { b.fwd with wait := b.fwd.wait.put (lr l r) l' } }
          | (_, b) => b

/-- Frames that wait for an egress account try again (R211): the head of a receive lane's admission queue, and copies of
built frames for that lane. -/
def Box.admitRetry (b : Box) (l r : Nat) : Box :=
  let b := match b.fwd.wait.find (lr l r), b.adm l r with
    | some l', d :: t =>
      match b.place d l' with
      | (true, b) =>
        let b := b.setAdm l r t
        { b with fwd := { b.fwd with wait := b.fwd.wait.del (lr l r) } }
      | (false, b) => b
    | _, _ => b
  let mine := b.buf.copies.filter (fun c => c.2 == l && (b.frameOf c.1).any (·.rung == r))
  let b := { b with buf := { b.buf with copies := b.buf.copies.filter (fun c => !mine.contains c) } }
  b.each mine (fun b c =>
    match b.place c.1 c.2 with
    | (true, b) => b
    | (false, b) => { b with buf := { b.buf with copies := b.buf.copies ++ [c] } })

/-! ### Frames that CTL builds (R250, R251) -/

/-- A frame of KFH over UDP and IPv6, without its FCS; what the specification leaves open (class, label, Hop Limit and
source port) comes from a free value (DESIGN CHOICE, log 74). -/
def udp6 (da sa src dst port free : Nat) (body : List Byte) : List Byte :=
  let len := 8 + body.length
  let head := beBytes 6 da ++ beBytes 6 sa ++ beBytes 2 0x86DD
  let ip := beBytes 4 (6 * 2 ^ 28 + free % 2 ^ 28) ++ beBytes 2 len ++ [17] ++ beBytes 1 (free / 2 ^ 28)
    ++ beBytes 16 src ++ beBytes 16 dst
  let udp (c : Nat) := beBytes 2 (free / 2 ^ 36) ++ beBytes 2 port ++ beBytes 2 len ++ beBytes 2 c
  let sum := fold16 (fold16 (sum16 (beBytes 16 src ++ beBytes 16 dst ++ beBytes 4 len ++ beBytes 4 17 ++ udp 0 ++ body)))
  head ++ ip ++ udp (if sum = 65535 then 65535 else 65535 - sum) ++ body

/-- The payload of the congestion map (R250). -/
def Box.cmPayload (b : Box) : List Byte :=
  beBytes 16 (b.sec.plid * 2 ^ 96 + 0x01 * 2 ^ 88 + b.get .timLapExp * 2 ^ 83 + b.get .pacCmLap)
    ++ (upTo 256).map (fun j => BitVec.ofNat 8 (b.get .pacCmNow (j / 8) / 256 ^ (j % 8)))

/-- The half whose CTL acts (R512). -/
def Box.ctlHalf (b : Box) : Nat := b.acting 0 / 5

/-- CTL exports the map in force (R250, R251). Both zero settings turn the export off. The route of a KFH frame rests on none
of what stays open in it. -/
def Box.cmExport (b : Box) : Box :=
  if b.get .pacCmExportLaps = 0 ∨ b.get .pacCmDstIp6 = 0 then b
  else
    let h := b.ctlHalf
    let p := 8 * h
    let k := kfhOf 3 opCtrl 0 (b.get .pacCmLap) 0 (b.get .pacCmDstFeid) 15 0
    let frame (free : Nat) : List Byte := udp6 0 (b.get .fwdModMac) (b.get .fwdModIp6) (b.get .pacCmDstIp6) (b.get .fwdKfhUdp)
      free (beBytes 16 k ++ b.cmPayload)
    let x := frame 0 ++ [0, 0, 0, 0]
    match b.decide_ b p ⟨x, b.stamp, 3, h, laneSelf, alMgmt, 0, 0, []⟩ { b.parse x with ttl := 255 } 0 with
    | (.lane l, b) =>
      let (n, b) := b.fresh
      let fr := putAt (frame n) 0 (beBytes 6 (b.get .fwdPortPeerMac (portOf l)))
      match b.build h ⟨fr ++ fcs fr, b.stamp, 3, h, laneSelf, alMgmt, 0, 0, []⟩ 1 none with
      | (some d, b) => (b.bump .pacCmExportCnt).placeCopies d [l]
      | (none, b) => b.bump .pacCmExportDrop
    | (_, b) => b

/-! ### The commands -/

/-- A pipeline takes its next descriptor. -/
def execPipelineDescriptor (p : Pipeline) (ecc : Fin 3) (s : State) : Host.Outcome State Fault Refusal :=
  act (fun b => b.pipeline p ecc) s

/-- A frame that waits for its egress account tries again. -/
def execEgressAdmitRetry (l : Lane) (r : Rung) (s : State) : Host.Outcome State Fault Refusal :=
  act (fun b => b.admitRetry l r) s

/-- CM_EXPORT_LAPS laps have passed. -/
def execCmExport (s : State) : Host.Outcome State Fault Refusal := act Box.cmExport s

end Sys2Proof.Machine
end

