-- ==== Sys2Proof/Machine/Formats.lean ====
section
/-!
DEFINITION. The eleven number formats, MX scaling, conversion and rounding (R299 to R321), and the arithmetic on values
that every reducer shares (R322 to R328): all exact, rounding at most once.
-/
namespace Sys2Proof.Machine

/-- A number: NaN, an infinity, or ± m·2^e with a signed zero. -/
inductive Num where
  | nan
  | inf (neg : Bool)
  | fin (neg : Bool) (m : Nat) (e : Int)
  deriving DecidableEq, Repr

/-- Format codes (R282). -/
def fFp32 : Nat := 0
@[inherit_doc fFp32] def fBf16 : Nat := 1
@[inherit_doc fFp32] def fFp16 : Nat := 2
@[inherit_doc fFp32] def fE4m3 : Nat := 3
@[inherit_doc fFp32] def fE5m2 : Nat := 4
@[inherit_doc fFp32] def fE3m2 : Nat := 5
@[inherit_doc fFp32] def fE2m3 : Nat := 6
@[inherit_doc fFp32] def fE2m1 : Nat := 7
@[inherit_doc fFp32] def fInt8 : Nat := 8
@[inherit_doc fFp32] def fInt32 : Nat := 9
@[inherit_doc fFp32] def fKbp : Nat := 10

/-- A floating-point format (R299): exponent and mantissa bits, bias, magnitude code of the largest finite value,
whether it has infinities and NaNs, canonical NaN. -/
structure FpFmt where
  e : Nat
  m : Nat
  bias : Int
  max : Nat
  hasInf : Bool
  nan : Option Nat

/-- The floating-point formats by code. -/
def fpFmt : Nat → Option FpFmt
  | 0 => some ⟨8, 23, 127, 0x7F7FFFFF, true, some 0x7FC00000⟩
  | 1 => some ⟨8, 7, 127, 0x7F7F, true, some 0x7FC0⟩
  | 2 => some ⟨5, 10, 15, 0x7BFF, true, some 0x7E00⟩
  | 3 => some ⟨4, 3, 7, 0x7E, false, some 0x7F⟩
  | 4 => some ⟨5, 2, 15, 0x7B, true, some 0x7E⟩
  | 5 => some ⟨3, 2, 3, 0x1F, false, none⟩
  | 6 => some ⟨2, 3, 1, 0x1F, false, none⟩
  | 7 => some ⟨2, 1, 1, 0x7, false, none⟩
  | _ => none

/-- Width of an element in memory, in bits, but for KBP (R299). -/
def fmtBits : Nat → Nat
  | 0 | 9 => 32
  | 1 | 2 => 16
  | 5 | 6 => 6
  | 7 => 4
  | _ => 8

/-- Width of a lane of a vector register, and lanes per register (R282). -/
def laneBits : Nat → Nat
  | 0 | 9 | 10 => 32
  | 1 | 2 => 16
  | 7 => 4
  | _ => 8
@[inherit_doc laneBits] def fmtLanes (f : Nat) : Nat := 512 / laneBits f

/-- Whether a code names a format. -/
def fmtOk (f : Nat) : Bool := decide (f ≤ 10)

/-- Whether a format takes MX scaling (R308). -/
def mxOk (f : Nat) : Bool := decide (3 ≤ f) && decide (f ≤ 8)

/-! ### Decoding (R299, R302, R305, R309) -/

/-- The number of an element's code in a floating-point or integer format. -/
def decodeNum (f raw : Nat) : Num :=
  match fpFmt f with
  | some t =>
    let w := 1 + t.e + t.m
    let neg := bitAt raw (w - 1)
    let mag := raw % 2 ^ (w - 1)
    let E := mag / 2 ^ t.m
    let M := mag % 2 ^ t.m
    if mag > t.max ∧ t.nan.isSome then
      (if t.hasInf ∧ M = 0 then .inf neg else .nan)
    else if E = 0 then .fin neg M (1 - t.bias - t.m)
    else .fin neg (2 ^ t.m + M) (E - t.bias - t.m)
  | none =>
    let w : Nat := if f = 9 then 32 else 8
    let z := toSigned w (raw % 2 ^ w)
    .fin (decide (z < 0)) z.natAbs 0

/-- Element `i` of a KBP block (R305). -/
def kbpElem (blk i : Nat) : Num :=
  let X : Nat := blk / 2 ^ 384 % 256
  let c : Nat := blk / 2 ^ (24 * i) % 2 ^ 24
  if X = 255 ∨ c = 0x800000 then .nan
  else if c = 0x7FFFFF then .inf false
  else if c = 0x800001 then .inf true
  else
    let z := toSigned 24 c
    .fin (decide (z < 0)) z.natAbs ((X : Int) - 150)

/-- The value of an MX element: the block's scale, the element's format and code (R308, R309). -/
def mxElem (f Z raw : Nat) : Num :=
  if Z = 0xFF then .nan
  else match decodeNum f raw with
    | .fin neg m e => .fin neg m (e + ((Z : Int) - 127) - (if f = 8 then 6 else 0))
    | n => n

/-! ### Rounding (R316, R317) -/

/-- How an element is rounded: to nearest even, or stochastically with its random word. -/
inductive Rounding where
  | near
  | stoch (u : Nat)
  deriving DecidableEq, Repr

/-- The multiple of 2^`s` below or above a magnitude, as a count of them. -/
def roundShift (r : Rounding) (m s : Nat) : Nat :=
  let lo := m / 2 ^ s
  let rem := m % 2 ^ s
  if rem = 0 then lo
  else match r with
    | .near =>
      if 2 * rem > 2 ^ s ∨ (2 * rem = 2 ^ s ∧ lo % 2 = 1) then lo + 1 else lo
    | .stoch u => if 2 ^ 32 * rem / 2 ^ s + u ≥ 2 ^ 32 then lo + 1 else lo

/-- m·2^e rounded to a multiple of 2^q, as a count of them. -/
def roundTo (r : Rounding) (m : Nat) (e q : Int) : Nat :=
  if q ≤ e then m * 2 ^ (e - q).toNat else roundShift r m (q - e).toNat

/-- An encoded element: its code, whether a NaN was lost, whether an integer saturated (R301). -/
structure Coded where
  raw : Nat
  lost : Bool := false
  sat : Bool := false
  deriving DecidableEq, Repr

/-- Exponent of the largest power of two in m·2^e. -/
def topExp (m : Nat) (e : Int) : Int := (Nat.log2 m : Int) + e

/-- Encode in a floating-point format (R301, R316, R317). -/
def encodeFp (t : FpFmt) (r : Rounding) (x : Num) : Coded :=
  let w := t.e + t.m
  let sign (neg : Bool) (mag : Nat) : Nat := flag neg * 2 ^ w + mag
  match x with
  | .nan => match t.nan with | some n => { raw := n } | none => { raw := 0, lost := true }
  | .inf neg => { raw := sign neg (if t.hasInf then (2 ^ t.e - 1) * 2 ^ t.m else t.max) }
  | .fin neg m e =>
    if m = 0 then { raw := sign neg 0 }
    else
      let qmin : Int := 1 - t.bias - t.m
      let q := max (topExp m e - t.m) qmin
      let mag := (q - qmin).toNat * 2 ^ t.m + roundTo r m e q
      { raw := sign neg (if mag ≤ t.max then mag else if t.hasInf then (2 ^ t.e - 1) * 2 ^ t.m else t.max) }

/-- Encode in an integer format of `w` bits (R301). -/
def encodeInt (w : Nat) (r : Rounding) (x : Num) : Coded :=
  let top (neg : Bool) : Coded := { raw := if neg then 2 ^ (w - 1) else 2 ^ (w - 1) - 1, sat := true }
  match x with
  | .nan => { raw := 0, lost := true }
  | .inf neg => top neg
  | .fin neg m e =>
    let n := roundTo r m e 0
    if (neg && decide (n > 2 ^ (w - 1))) || (!neg && decide (n ≥ 2 ^ (w - 1))) then top neg
    else { raw := ofSigned w (if neg then -(n : Int) else n) }

/-- Encode a number in an unscaled format other than KBP. -/
def encodeNum (f : Nat) (r : Rounding) (x : Num) : Coded :=
  match fpFmt f with
  | some t => encodeFp t r x
  | none => encodeInt (if f = 9 then 32 else 8) r x

/-! ### KBP blocks (R305 to R307) -/

/-- The largest magnitude of a finite mantissa. -/
def kbpMax : Nat := 2 ^ 23 - 2

/-- The block's finite elements fit with a shared exponent. -/
def kbpFits (l : List (Num × Rounding)) (X : Nat) : Bool :=
  l.all (fun e => match e.1 with | .fin _ m x => decide (roundTo e.2 m x ((X : Int) - 150) ≤ kbpMax) | _ => true)

/-- The shared exponent of a block: the least that fits, else 254 (R306). -/
def kbpX (l : List (Num × Rounding)) : Nat :=
  let tops := l.filterMap (fun e => match e.1 with | .fin _ m x => if m = 0 then none else some (topExp m x) | _ => none)
  match tops with
  | [] => 0
  | a :: t =>
    let X0 := ((t.foldl max a) + 150 - 22).toNat
    if X0 > 254 then 254
    else if kbpFits l X0 then X0 else min 254 (X0 + 1)

/-- The code of an element at a shared exponent. -/
def kbpCode (X : Nat) (e : Num × Rounding) : Nat :=
  match e.1 with
  | .nan => 0x800000
  | .inf neg => if neg then 0x800001 else 0x7FFFFF
  | .fin neg m x =>
    let n := roundTo e.2 m x ((X : Int) - 150)
    if n > kbpMax then (if neg then 0x800001 else 0x7FFFFF)
    else ofSigned 24 (if neg then -(n : Int) else n)

/-- A KBP block from sixteen values. -/
def kbpBlock (l : List (Num × Rounding)) : Nat :=
  let X := kbpX l
  X * 2 ^ 384 + (l.zipIdx.map (fun (e, i) => kbpCode X e * 2 ^ (24 * i))).sum

/-! ### MX blocks (R308 to R311) -/

/-- Exponent of an element format's largest power of two (R310). -/
def mxEmax : Nat → Int
  | 3 => 8
  | 4 => 15
  | 5 => 4
  | 6 | 7 => 2
  | _ => 0

/-- Magnitude order of two finite numbers. -/
def magLe (m : Nat) (e : Int) (m' : Nat) (e' : Int) : Bool :=
  if e ≤ e' then decide (m ≤ m' * 2 ^ (e' - e).toNat) else decide (m * 2 ^ (e - e').toNat ≤ m')

/-- Encode a block: its scale byte and its elements' codes (R310, R311). A quotient that exceeds the largest finite
element saturates; the code of −2 in MXINT8 is kept (DEDUCED, log 27). -/
def mxBlock (f : Nat) (l : List (Num × Rounding)) : Nat × List Nat :=
  if l.any (fun e => match e.1 with | .fin .. => false | _ => true) then (0xFF, l.map (fun _ => 0))
  else
    let big := l.foldl (fun (acc : Nat × Int) e => match e.1 with
      | .fin _ m x => if magLe acc.1 acc.2 m x then (m, x) else acc
      | _ => acc) (0, 0)
    if big.1 = 0 then (0, l.map (fun e => (encodeNum f e.2 e.1).raw))
    else
      let k := max (-127) (min 127 (topExp big.1 big.2 - mxEmax f))
      let q (e : Num × Rounding) : Nat := match e.1 with
        | .fin neg m x =>
          let x' := x - k + (if f = 8 then 6 else 0)
          match fpFmt f with
          | some t =>
            let c := (encodeFp t e.2 (.fin neg m x')).raw
            let mag := c % 2 ^ (t.e + t.m)
            if mag > t.max then c - mag + t.max else c
          | none => (encodeInt 8 e.2 (.fin neg m x')).raw
        | _ => 0
      ((k + 127).toNat, l.map q)

/-! ### Arithmetic on values (R302, R324 to R328) -/

/-- The exact sum (R324). -/
def Num.add : Num → Num → Num
  | .nan, _ | _, .nan => .nan
  | .inf a, .inf b => if a = b then .inf a else .nan
  | .inf a, .fin .. | .fin .., .inf a => .inf a
  | .fin na ma ea, .fin nb mb eb =>
    let e := min ea eb
    let a : Int := (if na then -1 else 1) * ((ma * 2 ^ (ea - e).toNat : Nat) : Int)
    let b : Int := (if nb then -1 else 1) * ((mb * 2 ^ (eb - e).toNat : Nat) : Int)
    if a + b = 0 then .fin (na && nb) 0 e else .fin (decide (a + b < 0)) (a + b).natAbs e

/-- The negated value. -/
def Num.neg : Num → Num
  | .nan => .nan
  | .inf a => .inf (!a)
  | .fin n m e => .fin (!n) m e

/-- The exact product; an infinity times zero is NaN (IEEE 754, PRESUMED, log 28). -/
def Num.mul : Num → Num → Num
  | .nan, _ | _, .nan => .nan
  | .inf a, .inf b => .inf (a != b)
  | .inf a, .fin n m _ | .fin n m _, .inf a => if m = 0 then .nan else .inf (a != n)
  | .fin na ma ea, .fin nb mb eb => .fin (na != nb) (ma * mb) (ea + eb)

/-- Whether `a` lies before `b` in the max order, NaN above +∞ (R326). -/
def Num.lt : Num → Num → Bool
  | .nan, _ => false
  | _, .nan => true
  | .inf true, b => b != .inf true
  | .inf false, _ => false
  | .fin .., .inf b => !b
  | .fin na ma ea, .fin nb mb eb =>
    if na != nb then na
    else if na then !magLe ma ea mb eb else !magLe mb eb ma ea

/-- The larger and the smaller of two values; NaN where either is (R326). -/
def Num.max (a b : Num) : Num := if a = .nan ∨ b = .nan then .nan else if a.lt b then b else a
@[inherit_doc Num.max] def Num.min (a b : Num) : Num := if a = .nan ∨ b = .nan then .nan else if b.lt a then b else a

/-- The value without its sign. -/
def Num.abs : Num → Num
  | .nan => .nan
  | .inf _ => .inf false
  | .fin _ m e => .fin false m e

/-- The operand of larger magnitude with its sign; +x between +x and −x (R326). -/
def Num.absmax (a b : Num) : Num :=
  if a = .nan ∨ b = .nan then .nan
  else if a.abs.lt b.abs then b else if b.abs.lt a.abs then a else a.max b

/-- 1 ÷ n rounded to nearest even in FP32 (R327). -/
def recipFp32 (n : Nat) : Num :=
  let q := 2 ^ 80 / n
  let m := 2 * q + flag (2 ^ 80 % n != 0)
  decodeNum 0 (encodeNum 0 .near (.fin false m (-81))).raw

/-! ### The random word of an element (R319) -/

/-- One round of Philox-4×32-10. -/
def philoxRound (c : Nat × Nat × Nat × Nat) (k0 k1 : Nat) : Nat × Nat × Nat × Nat :=
  let p0 := 0xd2511f53 * c.1
  let p1 := 0xcd9e8d57 * c.2.2.1
  ((p1 / 2 ^ 32) ^^^ c.2.1 ^^^ k0, p1 % 2 ^ 32, (p0 / 2 ^ 32) ^^^ c.2.2.2 ^^^ k1, p0 % 2 ^ 32)

/-- Rounds with the key advancing. -/
def philox : Nat → Nat × Nat × Nat × Nat → Nat → Nat → Nat × Nat × Nat × Nat
  | 0, c, _, _ => c
  | n + 1, c, k0, k1 => philox n (philoxRound c k0 k1) ((k0 + 0x9e3779b9) % 2 ^ 32) ((k1 + 0xbb67ae85) % 2 ^ 32)

/-- The random word of element index E: job seed, c1, c2, c3. -/
def randWord (seed c1 c2 c3 E : Nat) : Nat :=
  let o := philox 10 (E % 2 ^ 32 / 4, c1, c2, c3) (seed % 2 ^ 32) (seed / 2 ^ 32 % 2 ^ 32)
  match E % 4 with
  | 0 => o.1
  | 1 => o.2.1
  | 2 => o.2.2.1
  | _ => o.2.2.2

/-! ### Element arrays in memory (R300) -/

/-- Bytes of `n` elements of a format in memory. -/
def arrayBytes (f n : Nat) : Nat := if f = 10 then (n + 15) / 16 * 64 else (n * fmtBits f + 7) / 8

/-- The codes of `n` elements of a format other than KBP, from the little-endian number of their bytes. -/
def unpackCodes (f n v : Nat) : List Nat := (upTo n).map (fun j => v / 2 ^ (fmtBits f * j) % 2 ^ fmtBits f)

/-- The little-endian number of elements' codes. -/
def packCodes (f : Nat) (l : List Nat) : Nat := (l.zipIdx.map (fun (c, j) => c * 2 ^ (fmtBits f * j))).sum

/-- Bytes of a KBP block in memory, from its register form, and back (R305). -/
def kbpBytes (blk : Nat) : List Byte := BitVec.ofNat 8 (blk / 2 ^ 384) :: leBytes 48 (blk % 2 ^ 384)
@[inherit_doc kbpBytes] def kbpOfBytes (l : List Byte) : Nat :=
  ((l.head?).map (·.toNat)).getD 0 * 2 ^ 384 + leNat ((l.drop 1).take 48)

end Sys2Proof.Machine
end

