-- ==== Sys2Proof/Machine/MemCtl.lean ====
section
/-!
DEFINITION. The LPDDR6 controllers: bursts with owner tags, correction, row shadow and repair, patrol scrub, training,
and the split of the bandwidth (R429 to R452).
-/
namespace Sys2Proof.Machine

/-! ### Addresses (R436, R437) -/

/-- Bytes of a half, and the half and half offset of a module-wide offset. -/
def halfBytes : Nat := 2 ^ 38
@[inherit_doc halfBytes] def memHalf (off : Nat) : Nat := off / halfBytes
@[inherit_doc halfBytes] def memA (off : Nat) : Nat := off % halfBytes

/-- The sub-channel of a half offset, and its local offset there. -/
def subChan (A : Nat) : Nat := bits A 12 8 ^^^ bits A 20 16
@[inherit_doc subChan] def localOff (A : Nat) : Nat := A / 2 ^ 13 * 256 + A % 256

/-- The DRAM row of a half offset: 2 KiB of its sub-channel (R445). -/
def rowOf (h A : Nat) : RowRef := ⟨h, subChan A, localOff A / 2048⟩

/-- First half offset of embedding rows, and the first of the window reserve (R437, R438). -/
def rowSpace : Nat := 0x400000000
@[inherit_doc rowSpace] def Box.winBase (b : Box) (h : Nat) : Nat := halfBytes - b.get .memWinGib h * 2 ^ 30

/-- The owner tag of the region that holds a half offset (R435, R437). -/
def regionTag (A : Nat) : Nat :=
  if A < 0x200000000 then 0x01
  else if A < 0x280000000 then 0x02
  else if A < 0x300000000 then 0x03
  else if A < 0x340000000 then 0x04
  else if A < 0x380000000 then 0x05
  else if A < 0x3FE000000 then 0x07
  else if A < rowSpace then 0x08
  else 0x06

/-- Relay address of a module-wide offset. -/
def memAddr (off : Nat) : Nat := lpddrAddr + off

/-- LPDDR6 windows of the bundles that are placed (R273). -/
def Box.liveWindows (b : Box) : List Window :=
  b.rly.bundles.flatMap (fun e => if e.2.placed = [] then [] else e.2.windows.filter (·.kind == 1))

/-- The tag of the window or region that holds a burst; `n` counts bursts from offset 0 (R435). -/
def Box.homeTag (b : Box) (n : Nat) : Nat :=
  ((b.liveWindows.find? (fun w => decide (w.base ≤ memAddr (32 * n)) && decide (memAddr (32 * n) < w.base + w.size))).map
    (·.tag)).getD (regionTag (memA (32 * n)))

/-- The owner tag stored with a burst (R432). -/
def Box.memTag (b : Box) (n : Nat) : Nat := b.memc.tags.at n (b.homeTag n)

/-- A burst stored with a tag. -/
def Box.setMemTag (b : Box) (n tag : Nat) : Box :=
  { b with memc := { b.memc with tags := if tag = b.homeTag n then b.memc.tags.del n else b.memc.tags.put n tag } }

/-! ### Errors and row repair (R442, R443, R445) -/

/-- Rows of the repair list and of the shadow, shown per half and sub-channel. -/
def Box.showRows (b : Box) (h s : Nat) : Box :=
  (b.put .memPprPend (b.memc.repair.filter (·.half == h)).length h).put .memScShadowUsed
    (b.memc.shadow.filter (fun r => r.half == h && r.sub == s)).length h s

/-- A row becomes a repair candidate (R445). -/
def Box.repairRow (b : Box) (r : RowRef) : Box :=
  if b.memc.shadow.contains r then b
  else if (b.memc.shadow.filter (fun x => x.half == r.half && x.sub == r.sub)).length < 16 then
    ({ b with memc := { b.memc with shadow := b.memc.shadow ++ [r], repair := with_ b.memc.repair r } }).showRows r.half r.sub
  else b.raise r.half .memScShadowUsed r.half sevError 0

/-- A corrected burst (R442): counted, and its row a candidate at ROW_CE_MAX in one scrub pass. -/
def Box.memCe (b : Box) (off : Nat) : Box :=
  let h := memHalf off
  let r := rowOf h (memA off)
  let b := b.bump .memScCe h (subChan (memA off))
  let n := ((b.memc.rowCe.find? (fun e => e.1 == r)).map (·.2)).getD 0 + 1
  let b := { b with memc := { b.memc with rowCe := b.memc.rowCe.filter (fun e => e.1 != r) ++ [(r, n)] } }
  if b.get .memRowCeMax ≤ n then b.repairRow r else b

/-- The next slot of UE_ADDR (R443, R452). -/
def Box.ueAddr (b : Box) (off found expected mismatch : Nat) : Box :=
  let h := memHalf off
  let m := b.memc.uePos.at h 0
  let b := b.put .memUeAddr (memA off + found % 256 * 2 ^ 40 + expected % 256 * 2 ^ 48 + mismatch * 2 ^ 56) h m
  { b with memc := { b.memc with uePos := b.memc.uePos.put h ((m + 1) % 16) } }

/-- An uncorrectable burst: it stays so until a full write (R443). The tag that was found is a free value (DESIGN
CHOICE, log 108). -/
def Box.memUe (b : Box) (off expected : Nat) : Box :=
  let h := memHalf off
  let b := b.bump .memScUe h (subChan (memA off))
  let (n, b) := b.fresh
  let b := (b.ueAddr off n expected 0).repairRow (rowOf h (memA off))
  let b := { b with memc := { b.memc with bad := with_ b.memc.bad (off / 32) } }
  b.raise h .memScUe h sevError 0

/-- A tag mismatch (R434). -/
def Box.memTagErr (b : Box) (off found expected : Nat) : Box :=
  let h := memHalf off
  let b := (b.bump .memScTagErr h (subChan (memA off))).ueAddr off found expected 1
  b.raise h .memScTagErr h sevError 0 (off + expected * 2 ^ 48 + found * 2 ^ 56)

/-- The symbols found wrong in a burst, those of one symbol added. -/
def wrongSyms (errs : SymErrs) : List Nat :=
  (upTo 36).filter (fun j => (errs.foldl (fun a e => if e.1.val = j then a ^^^ e.2 else a) (0 : BitVec 8)) != 0)

/-- What a read of one burst gives. -/
inductive ReadOut where
  | ok
  | bad
  | tag
  deriving DecidableEq, Repr

/-- Read one burst (R432 to R434, R442, R443): errors of one symbol are corrected and written back, errors of two are
found. Of three and more the specification states no result: a free value says whether they are found, and the burst
that stands after an error that was not found. `expected` is none for the patrol scrub. -/
def Box.readBurst (b : Box) (off : Nat) (expected : Option Nat) (errs : SymErrs) : ReadOut × Box :=
  let check (b : Box) : ReadOut × Box :=
    match expected with
    | none => (.ok, b)
    | some t => if b.memTag (off / 32) = t then (.ok, b) else (.tag, b.memTagErr off (b.memTag (off / 32)) t)
  let ue (b : Box) : ReadOut × Box :=
    match expected with
    | some t => (.bad, b.memUe off t)
    | none => let (n, b) := b.fresh; (.bad, b.memUe off n)
  if b.memc.bad.contains (off / 32) then ue b
  else match (wrongSyms errs).length with
    | 0 => check b
    | 1 => check (b.memCe off)
    | 2 => ue b
    | k + 3 =>
      let (n, b) := b.fresh
      if n % 2 = 0 then ue b
      else
        let (v, b) := b.fresh
        let (t, b) := b.fresh
        let b := (b.poke (memAddr (off / 32 * 32)) (leBytes 32 v)).setMemTag (off / 32) (t % 256)
        check (if k ≥ 1 ∧ n % 4 = 1 then b else b.memCe off)

/-! ### Transactions (R439 to R441) -/

/-- Whether a half's memory answers. -/
def Box.memReady (b : Box) (h : Nat) : Bool := b.get .memState h == 3

/-- The bursts that a range touches. -/
def burstsOf (off len : Nat) : List Nat := range' (off / 32) ((off + len + 31) / 32 - off / 32)

/-- Whether a transaction lies within one half, and its half answers (R439). -/
def Box.memOk (b : Box) (off len : Nat) : Bool :=
  decide (0 < len) && decide (len ≤ 4096) && decide (off + len ≤ 2 * halfBytes) && memHalf off == memHalf (off + len - 1)
    && b.memReady (memHalf off)

/-- Error values of the burst `n` of a transaction that begins in burst `n0`. -/
def errsOf (errs : List (Fin 129 × SymErrs)) (n0 n : Nat) : SymErrs :=
  (errs.filter (fun e => e.1.val + n0 == n)).flatMap (·.2)

/-- Read the bursts of a list in order; the first failure stands. -/
def Box.readBursts (b : Box) (n0 tag : Nat) (errs : List (Fin 129 × SymErrs)) : List Nat → ReadOut × Box
  | [] => (.ok, b)
  | n :: t =>
    match b.readBurst (32 * n) (some tag) (errsOf errs n0 n) with
    | (.ok, b) => b.readBursts n0 tag errs t
    | r => r

/-- A read transaction: its result, and the bytes where it is good. -/
def Box.memRead (b : Box) (m : Mem) (off len tag : Nat) (errs : List (Fin 129 × SymErrs) := []) :
    ReadOut × List Byte × Box :=
  match b.readBursts (off / 32) tag errs (burstsOf off len) with
  | (.ok, b) => (.ok, b.peek m (memAddr off) len, b)
  | (r, b) => (r, [], b)

/-- A write transaction: bursts that it covers in part are read first, and a failure there leaves the whole write not
applied (R441); a burst that it covers whole takes the tag and is no longer uncorrectable. -/
def Box.memWrite (b : Box) (off : Nat) (bytes : List Byte) (tag : Nat) (errs : List (Fin 129 × SymErrs) := []) :
    ReadOut × Box :=
  let len := bytes.length
  let whole (n : Nat) : Bool := decide (off ≤ 32 * n) && decide (32 * n + 32 ≤ off + len)
  match b.readBursts (off / 32) tag errs ((burstsOf off len).filter (fun n => !whole n)) with
  | (.ok, b) =>
    let b := b.each ((burstsOf off len).filter whole) (fun b n =>
      let b := b.setMemTag n tag
      { b with memc := { b.memc with bad := b.memc.bad.erase n } })
    (.ok, b.poke (memAddr off) bytes)
  | r => r

/-- A range written with zeros under the tag of the window or region that holds it (R438). -/
def Box.memZero (b : Box) (off len : Nat) : Box :=
  let b := b.write (.zero (memAddr off) len)
  let inside (n : Nat) : Bool := decide (off ≤ 32 * n) && decide (32 * n < off + len)
  { b with memc := { b.memc with
    tags := b.memc.tags.filter (fun e => !inside e.1), bad := b.memc.bad.filter (fun n => !inside n) } }

/-- A spilled frame of a half is lost to a memory error (R443). Which frame's bytes the burst held is not stated, since
the layout of the spill region is not: a free value names the lane whose oldest spilled frame it is (DESIGN CHOICE,
log 110). -/
def Box.spillLost (b : Box) (h : Nat) : Box :=
  let cands := b.buf.spill.filter (fun e => (e.2.head?).any (·.share == h))
  let (n, b) := b.fresh
  let b := b.bump .memSpillLost h
  match cands[n % cands.length]? with
  | some (l, x :: t) =>
    let b := { b with buf := { b.buf with spill := if t = [] then b.buf.spill.del l else b.buf.spill.put l t } }
    (b.move .bufEqSpillBytes (-x.frame.bytes.length) l).putIf (t == []) .bufEqState 0 l
  | _ => b

/-- Answers go to a client of class k under the requester number 65536 + k. -/
def clientOf (cls : Nat) : Nat := 65536 + cls

/-- A transaction of a client of the subsystem (DESIGN CHOICE, log 111). -/
def Box.memTrans (b : Box) (m : Mem) (off len : Nat) (write : Option (List Byte)) (tag cls : Nat)
    (errs : List (Fin 129 × SymErrs)) : Box :=
  let len := (write.map (·.length)).getD len
  if !b.memOk off len then b.emit (.answer (clientOf cls) 1 0)
  else
    let done (r : ReadOut) (data : List Byte) (b : Box) : Box :=
      let b := if r ≠ .ok ∧ cls = 2 ∧ write.isNone then b.spillLost (memHalf off) else b
      b.emit (.answer (clientOf cls) (if r = .ok then 0 else 2) (leNat data))
    match write with
    | some v => let (r, b) := b.memWrite off v tag errs; done r [] b
    | none => let (r, data, b) := b.memRead m off len tag errs; done r data b

/-! ### Patrol scrub (R444) -/

/-- The scrub handles the next burst of a half. -/
def Box.scrubNext (b : Box) (h : Nat) (errs : SymErrs) : Box :=
  if !b.memReady h then b
  else
    let A := b.memc.scrub.at h 0
    let b := (b.readBurst (h * halfBytes + A) none errs).2
    let b := { b with memc := { b.memc with scrub := b.memc.scrub.put h ((A + 32) % halfBytes) } }
    if A + 32 = halfBytes then
      ({ b with memc := { b.memc with rowCe := b.memc.rowCe.filter (fun (e : RowRef × Nat) => e.1.half != h) } }).bump .memScrubPass h
    else b

/-! ### Training (R430, R431, R446) -/

/-- Rows that repair could not mend return to the shadow, sixteen for each sub-channel (R446). -/
def Box.reshadow (b : Box) (h : Nat) : Box :=
  let keep (acc : List RowRef) (r : RowRef) : List RowRef :=
    if (acc.filter (fun x => x.half == r.half && x.sub == r.sub)).length < 16 then acc ++ [r] else acc
  let rows := (b.memc.repair.filter (fun (r : RowRef) => r.half == h)).foldl keep []
  let b := { b with memc := { b.memc with shadow := b.memc.shadow.filter (fun (r : RowRef) => r.half != h) ++ rows } }
  b.each (upTo 32) (fun b s => b.showRows h s)

/-- Training of a half ends: the best rate of each of its packages (3: none passes), and the rows repaired. -/
def Box.memTrained (b : Box) (h : Nat) (best : List Nat) (repaired : List (Nat × Nat)) : Box :=
  let failed := (upTo 4).filter (fun n => decide (2 < best.getD n 3))
  let b := b.each failed (fun b n =>
    { b with memc := { b.memc with attempts := b.memc.attempts.upd (4 * h + n) 0 (· + 1) } })
  let out := failed.filter (fun n => decide (3 ≤ b.memc.attempts.at (4 * h + n) 0))
  if out ≠ [] then
    let b := b.each out (fun b n => (b.setBit .memPkgFail n h).raise h .memPkgFail h sevError 0 n)
    b.put .memState 4 h
  else if failed ≠ [] then b
  else
    let own := best.foldl min (b.get .memRateMax)
    let other := 1 - h
    let b := b.put .memRate (if b.memReady other then min own (b.get .memRate other) else own) h
    let b := if b.memReady other then b.put .memRate (min own (b.get .memRate other)) other else b
    let gone := if b.get .memPprEn = 1 then repaired.map (fun r => (⟨h, r.1, r.2⟩ : RowRef)) else []
    let b := { b with memc := { b.memc with
      repair := b.memc.repair.filter (fun (r : RowRef) => !gone.contains r)
      attempts := b.memc.attempts.filter (fun e => e.1 / 4 != h) } }
    (b.reshadow h).put .memState 3 h

/-! ### Bandwidth (R447, R448) -/

/-- Bytes that a client's own limit lets a class move in one interval. -/
def Box.clientCap (b : Box) (h k demand : Nat) : Nat :=
  if k = 1 then min demand ((b.get .colSpillWrGbps h + b.get .colSpillRdGbps h) * 1000)
  else if k = 2 then min demand ((b.get .bufSpillWrGbps + b.get .bufSpillRdGbps) * 1000)
  else demand

/-- One round of the split: unmet demand shares what is left in proportion to WEIGHT. -/
def splitRound (weight : Nat → Nat) (demand grant : Nat → Nat) (left : Nat) : Nat → Nat :=
  let unmet := (upTo 6).filter (fun k => decide (grant k < demand k))
  let sum := (unmet.map weight).sum
  fun k => if unmet.contains k then min (demand k) (grant k + left * weight k / sum) else grant k

/-- The split, until what is left or the unmet demand is used up; six rounds settle it. -/
def splitAll (weight demand : Nat → Nat) (cap : Nat) : Nat → (Nat → Nat) → (Nat → Nat)
  | 0, g => g
  | n + 1, g => splitAll weight demand cap n (splitRound weight demand g (cap - ((upTo 6).map g).sum))

/-- Capacity of a half in one interval, bytes: at 14.4 Gb/s a value of R450's range, which it does not fix: free
(DESIGN CHOICE, log 109). -/
def Box.capacity (b : Box) (h : Nat) : Nat × Box :=
  let (n, b) := b.fresh
  let c := 512000 + n % 102401
  (c * ([10667, 12800, 14400].getD (b.get .memRate h) 14400) / 14400, b)

/-- One interval: minimum grants, then the split by weight. -/
def Box.bwInterval (b : Box) (h : Nat) (demand : List Nat) : Box :=
  let (cap, b) := b.capacity h
  let dem := (upTo 6).map (fun k => b.clientCap h k (demand.getD k 0))
  let d (k : Nat) : Nat := dem.getD k 0
  let mins := (upTo 6).map (fun k => min (d k) (b.get .memBwMinGbps h k * 1000))
  let wts := (upTo 6).map (fun k => b.get .memBwWeight h k)
  let g := splitAll (fun k => wts.getD k 0) d cap 6 (fun k => mins.getD k 0)
  b.each (upTo 6) (fun b k =>
    let key := 8 * h + k
    let past := (g k :: b.memc.meter.at key []).take 1000
    let b := { b with memc := { b.memc with
      grants := b.memc.grants.put key (g k), meter := b.memc.meter.put key past } }
    b.put .memBwUsedGbps (past.sum / 1000000) h k)

/-! ### The commands -/

/-- LPDDR6 training of a half ends. -/
def execMemTrainingDone (h : Half) (best : List (Fin 4)) (repaired : List (Fin 32 × BitVec 32)) (s : State) :
    Host.Outcome State Fault Refusal :=
  act (fun b => b.memTrained h (best.map (·.val)) (repaired.map (fun r => (r.1.val, r.2.toNat)))) s

/-- A client's transaction. -/
def execMemTransaction (off : BitVec 39) (len : Fin 4097) (write : Option (List Byte)) (tag : BitVec 8) (cls : Fin 6)
    (errs : List (Fin 129 × SymErrs)) (s : State) : Host.Outcome State Fault Refusal :=
  act (fun b => b.memTrans s.mem off.toNat len write tag.toNat cls errs) s

/-- The patrol scrub reads the next burst of a half. -/
def execPatrolScrub (h : Half) (errs : SymErrs) (s : State) : Host.Outcome State Fault Refusal :=
  act (fun b => b.scrubNext h errs) s

/-- An interval of 1 µs begins for a half's controller. -/
def execBwInterval (h : Half) (demand : List (BitVec 32)) (s : State) : Host.Outcome State Fault Refusal :=
  act (fun b => b.bwInterval h (demand.map (·.toNat))) s

end Sys2Proof.Machine
end

