-- ==== Sys2Proof/Machine/Relay.lean ====
section
/-!
DEFINITION. Relay cores: threads and how an instruction issues, dispatch and work queues, held frames, where a thread
may access memory, faults, and the writes to a core's control registers (R254 to R278, R286, R291 to R297).
-/
namespace Sys2Proof.Machine

/-! ### Threads (R254, R255) -/

/-- States of a thread, and of a core (R298). -/
def thFree : Nat := 0
@[inherit_doc thFree] def thIdle : Nat := 1
@[inherit_doc thFree] def thReady : Nat := 2
@[inherit_doc thFree] def thWait : Nat := 3
@[inherit_doc thFree] def thStopped : Nat := 4
@[inherit_doc thFree] def coreRun : Nat := 1
@[inherit_doc thFree] def coreParked : Nat := 2
@[inherit_doc thFree] def coreQuar : Nat := 3
@[inherit_doc thFree] def coreHeat : Nat := 4

/-- The core of a thread and its number there (R8). -/
def coreOf (t : Nat) : Nat := t / 16
@[inherit_doc coreOf] def thrOf (t : Nat) : Nat := t % 16

/-- What a thread holds. -/
def Box.thr (b : Box) (t : Nat) : Thread := b.rly.th.at t {}
@[inherit_doc Box.thr] def Box.setThr (b : Box) (t : Nat) (g : Thread → Thread) : Box :=
  { b with rly := { b.rly with th := b.rly.th.upd t {} g } }

/-- A thread's state register. -/
def Box.tst (b : Box) (t : Nat) : Nat := b.get .rlyTState (coreOf t) (thrOf t)
@[inherit_doc Box.tst] def Box.setTst (b : Box) (t v : Nat) : Box := b.put .rlyTState v (coreOf t) (thrOf t)

/-- A thread's program counter: a byte offset in the instruction store. -/
def Box.pc (b : Box) (t : Nat) : Nat := b.get .rlyTPc (coreOf t) (thrOf t)
@[inherit_doc Box.pc] def Box.setPc (b : Box) (t v : Nat) : Box := b.put .rlyTPc v (coreOf t) (thrOf t)

/-- A thread enters a state for a reason. -/
def Box.setWait (b : Box) (t st : Nat) (w : Waits) : Box := (b.setThr t (fun x => { x with waits := w })).setTst t st

/-- Scalar registers: x0 reads 0 and ignores writes. -/
def Thread.xr (x : Thread) (n : Nat) : Nat := if n = 0 then 0 else x.x.at n 0
@[inherit_doc Thread.xr] def Box.setX (b : Box) (t n v : Nat) : Box :=
  if n = 0 then b else b.setThr t (fun x => { x with x := x.x.put n (v % 2 ^ 64) })

/-- Vector registers. -/
def Thread.vr (x : Thread) (n : Nat) : Nat := x.v.at n 0
@[inherit_doc Thread.vr] def Box.setV (b : Box) (t n v : Nat) : Box :=
  b.setThr t (fun x => { x with v := x.v.put n (v % 2 ^ 512) })

/-- Predicate registers: p0 reads all ones and ignores writes. -/
def Thread.pr (x : Thread) (n : Nat) : Nat := if n = 0 then 2 ^ 128 - 1 else x.p.at n 0
@[inherit_doc Thread.pr] def Box.setP (b : Box) (t n v : Nat) : Box :=
  if n = 0 then b else b.setThr t (fun x => { x with p := x.p.put n (v % 2 ^ 128) })

/-- The bundle a thread belongs to. -/
def Box.bundleOf (b : Box) (t : Nat) : Option Bundle := (b.thr t).bundle.bind b.rly.bundles.find

/-- Instruction-store word and scratch offset of a bundle on a core. -/
def Bundle.at_ (x : Bundle) (c : Nat) : Option (Nat × Nat) := (x.placed.find? (·.1 == c)).map (·.2)

/-- The entry of a thread: its group's offset in the code section, in the core's instruction store (R287, R290). -/
def Box.entryOf (b : Box) (t : Nat) : Nat :=
  match b.bundleOf t with
  | none => 0
  | some x =>
    4 * ((x.at_ (coreOf t)).map (·.1)).getD 0 + ((x.groups[(b.thr t).group]?).map (·.entry)).getD 0

/-- Threads of a core. -/
def threadsOf (c : Nat) : List Nat := range' (16 * c) 16

/-- Threads of a bundle slot on a core, in order. -/
def Box.bundleThreads (b : Box) (slot c : Nat) : List Nat :=
  (threadsOf c).filter (fun t => (b.thr t).bundle == some slot)

/-! ### Stopping (R293, R294, R297) -/

/-- Release every frame a thread holds. -/
def Box.dropHeld (b : Box) (t : Nat) : Box :=
  let l := (b.thr t).slots
  let b := b.setThr t (fun x => { x with slots := [] })
  b.each l (fun b e => b.release e.2.desc)

/-- The slot of a stopped bundle becomes LOADED when every thread of it is FREE (R290). -/
def Box.bundleEnd (b : Box) (slot : Nat) : Box :=
  match b.rly.bundles.find slot with
  | none => b
  | some x =>
    if x.stopping && x.placed.all (fun p => (b.bundleThreads slot p.1).all (fun t => b.tst t == thFree)) then
      ({ b with rly := { b.rly with bundles := b.rly.bundles.put slot { x with stopping := false } } }).put .rlyBundleState 1 slot
    else b

/-- A thread becomes FREE (R290). -/
def Box.freeThr (b : Box) (t : Nat) : Box :=
  let b := (b.dropHeld t).setWait t thFree .none
  match (b.thr t).bundle with | some slot => b.bundleEnd slot | none => b

/-- Stop a thread with a cause and an address, releasing its frames. A STOPPED thread of a bundle that stops is FREE
(R255; DEDUCED, log 97). -/
def Box.stopThr (b : Box) (t cause addr : Nat) : Box :=
  let b := ((b.put .rlyTFault (cause + addr % 2 ^ 48 * 256) (coreOf t) (thrOf t)).dropHeld t).setWait t thStopped .none
  if (b.bundleOf t).any (·.stopping) then b.freeThr t else b

/-- The held descriptors of a thread as the record's payload lists them: half, pointer and tag, 64 bits each. -/
def Thread.heldImage (x : Thread) : Nat :=
  (x.slots.map (fun e => (2 ^ 63 + e.2.desc.half * 2 ^ 36 + e.2.desc.ptr * 2 ^ 8 + e.2.desc.tag) * 2 ^ (64 * e.1))).sum

/-- Embedding tables in a state fail their step (R420, R425). -/
def Box.embFail (b : Box) (states : List Nat) : Box :=
  b.each (b.regs.filter (fun e => e.1.reg == .embTblState && states.contains e.2)) (fun b e => b.put .embTblState 4 e.1.i)

/-- A thread stops on a fault (R35, R293); a fault of the standard bundles fails a closing step (R425). -/
def Box.fault (b : Box) (t cause addr : Nat) : Box :=
  let held := (b.thr t).heldImage
  let b := if (b.thr t).bundle.isNone then b.embFail [2] else b
  (b.stopThr t cause addr).raise (halfOfCore (coreOf t)) .rlyTFault (coreOf t) sevError 3 held

/-- A thread as it starts: registers 0, at its entry, nothing held. Atomics it issued are still to be performed. -/
def Box.startThr (b : Box) (t : Nat) : Box :=
  let b := b.dropHeld t
  let b := b.setThr t (fun x =>
    { bundle := x.bundle, group := x.group
      out := (x.out.filter (fun a => match a.op with | .amo .. | .vamo .. => true | _ => false)).map
        (fun a => { a with d := 0 }) })
  (b.setPc t (b.entryOf t)).setTst t thReady

/-! ### Work queues (R260 to R262, R290) -/

/-- Key of a core's work queue. -/
def wqKey (c q : Nat) : Nat := 8 * c + q

/-- A work queue, and what the dispatcher holds for it. -/
def Box.wq (b : Box) (c q : Nat) : List Work := b.rly.wq.at (wqKey c q) []
@[inherit_doc Box.wq] def Box.heldFor (b : Box) (c q : Nat) : List Work := b.rly.heldWork.at (wqKey c q) []

/-- Set a work queue and its DEPTH. -/
def Box.setWq (b : Box) (c q : Nat) (l : List Work) : Box :=
  ({ b with rly := { b.rly with wq := if l = [] then b.rly.wq.del (wqKey c q) else b.rly.wq.put (wqKey c q) l } }).put
    .rlyWqDepth l.length c q

/-- Set what the dispatcher holds. -/
def Box.setHeldFor (b : Box) (c q : Nat) (l : List Work) : Box :=
  { b with rly := { b.rly with
      heldWork := if l = [] then b.rly.heldWork.del (wqKey c q) else b.rly.heldWork.put (wqKey c q) l } }

/-- The image with a field put at bits [hi:lo] (R262). -/
def setBits (img hi lo v : Nat) : Nat := img - bits img hi lo * 2 ^ lo + v % 2 ^ (hi + 1 - lo) * 2 ^ lo

/-- WAITQ delivers the head of a queue to a thread: a descriptor's frame takes the lowest free slot (R262, R263, R266). -/
def Box.deliver (b : Box) (t q d : Nat) : Box :=
  match b.wq (coreOf t) q with
  | [] => b
  | w :: rest =>
    let b := b.setWq (coreOf t) q rest
    let slot := ((upTo 4).find? (fun k => ((b.thr t).slots.find k).isNone)).getD 0
    let (img, b) := match w.desc with
      | some ds => (setBits w.img 503 502 slot, b.setThr t (fun x => { x with slots := x.slots.put slot ⟨ds, b.ns⟩ }))
      | none => (w.img, b)
    (((b.setV t d img).setThr t (fun x => { x with workRung := bits img 507 506 })).setWait t thReady .none)

/-- IDLE threads of a core that wait on a queue, with their destinations (DESIGN CHOICE, log 93). -/
def Box.waiters (b : Box) (c q : Nat) : List (Nat × Nat) :=
  (threadsOf c).filterMap (fun t =>
    match (b.thr t).waits with
    | .queue q' d => if q' = q ∧ b.tst t = thIdle then some (t, d) else none
    | _ => none)

/-- Descriptors go to threads that wait for them; which of several takes one is a free choice. A core that does not run
serves nothing. -/
def Box.serve (b : Box) (c q : Nat) : Box :=
  if b.get .rlyState c ≠ coreRun ∨ b.wq c q = [] then b
  else match b.waiters c q with
    | [] => b
    | [(t, d)] => b.deliver t q d
    | l =>
      let (n, b) := b.fresh
      match l[n % l.length]? with
      | some (t, d) => b.deliver t q d
      | none => b

/-- Bundle slot bound to a queue; none when it is bound to no bundle. -/
def Box.boundTo (b : Box) (c q : Nat) : Option Nat :=
  if b.get .rlyWqBundle c q < 16 then some (b.get .rlyWqBundle c q) else none

/-- Whether dispatch to a queue's bundle takes place (R290). -/
def Box.dispatches (b : Box) (slot : Nat) : Bool :=
  b.get .rlyBundleState slot == 2 && ((b.rly.bundles.find slot).map (fun x => !x.stopping)).getD true

/-- Release the frame of a work item. -/
def Box.dropWork (b : Box) (w : Work) : Box := match w.desc with | some d => b.release d | none => b

/-- The dispatcher appends a descriptor to a queue, holds it, or discards it (R261, R290). -/
def Box.enqWork (b : Box) (c q : Nat) (w : Work) : Box :=
  match b.boundTo c q with
  | none => (b.bump .rlyWqFullCnt c q).dropWork w
  | some slot =>
    if b.heldFor c q ≠ [] ∨ 64 ≤ (b.wq c q).length ∨ !b.dispatches slot then
      (b.setHeldFor c q (b.heldFor c q ++ [w])).bump .rlyWqFullCnt c q
    else (b.setWq c q (b.wq c q ++ [w])).serve c q

/-- Held descriptors enter a queue that has room, at most `n` (R261). -/
def Box.refill (b : Box) (c q : Nat) : Nat → Box
  | 0 => b
  | n + 1 =>
    match b.heldFor c q, b.boundTo c q with
    | w :: rest, some slot =>
      if 64 ≤ (b.wq c q).length ∨ !b.dispatches slot then b
      else (((b.setHeldFor c q rest).setWq c q (b.wq c q ++ [w])).serve c q).refill c q n
    | w :: rest, none => ((b.setHeldFor c q rest).dropWork w).refill c q n
    | [], _ => b

/-- The steering key of a rung 1 frame (R340, R406). -/
def steerKey (p : Parsed) (rfeid : Nat) : Nat :=
  if p.op = opContrib then (p.chunk ^^^ (p.group * 4)) % 65536 else (p.seq % 65536) ^^^ (rfeid % 65536)

/-- The `n` header bytes at an offset, as a number; what lies past the frame's data reads 0. -/
def hdrAt (fr : List Byte) (off n : Nat) : Nat :=
  let l := ((fr.take (endOf fr)).drop off).take n
  beNat (l ++ List.replicate (n - l.length) 0)

/-- The 24-byte collective or embedding header after KFH (R336, R405). -/
def kHeader (fr : List Byte) (p : Parsed) : Nat := hdrAt fr ((p.kfh.getD 0) + 16) 24

/-- The work descriptor of a frame (R262). -/
def workImage (p : Parsed) (d : Desc) (fr : Held) (q key : Nat) : Nat :=
  let poff := (p.kfh.getD 0) + 16
  let head := hdrAt fr.bytes poff 30
  p.op * 2 ^ 508 + fr.rung * 2 ^ 506 + d.half * 2 ^ 505 + q * 2 ^ 499 + d.ptr * 2 ^ 471 + d.tag * 2 ^ 463
    + fr.bytes.length % 2 ^ 14 * 2 ^ 449 + p.group * 2 ^ 435 + p.seq * 2 ^ 403 + p.chunk * 2 ^ 387 + p.feid * 2 ^ 355
    + fr.lane % 1024 * 2 ^ 345 + fr.stamp % 2 ^ 80 * 2 ^ 265 + key * 2 ^ 249 + poff * 2 ^ 241 + head

/-- The core that work steered to a core goes to (R260). -/
def Box.substOf (b : Box) (c : Nat) : Nat := b.get .rlySubst c

/-- The dispatcher of a half takes its next rung 1 frame (R260). A frame whose cells fail their check is counted and
given up (R203). -/
def Box.dispatch (b : Box) (h : Nat) : Box :=
  match b.rly.inbox.at h [] with
  | [] => b
  | d :: rest =>
    let b := { b with rly := { b.rly with inbox := if rest = [] then b.rly.inbox.del h else b.rly.inbox.put h rest } }
    match b.frameOf d with
    | none => b.checkFail d
    | some fr =>
      let p := b.parse fr.bytes
      let x := kHeader fr.bytes p
      let key := steerKey p (bits x 127 96)
      let q := if p.op = opContrib then b.get .colGrpWq p.group else b.get .embTblWq (bits x 191 186)
      let c := b.substOf (b.get .rlySteer h (key % 1024))
      b.enqWork c q ⟨workImage p d fr q key, some d⟩

/-- The queue of a core has room: held descriptors enter. -/
def Box.wqRoomAt (b : Box) (c q : Nat) : Box := b.refill c q (b.heldFor c q).length

/-! ### Tables that threads read (R272, R332, R333, R396) -/

/-- Values an axis takes: base, count and stride (R333). -/
def axisVals (a : Nat) : List Nat := (upTo (bits a 8 4)).map (fun j => bits a 12 9 + j * bits a 3 0)

/-- Member ports by member index, from the axis order and the three axes (R333). -/
def memberPorts (ord g i p : Nat) : List Nat :=
  let ax (k : Nat) : List Nat := axisVals (if k = 0 then g else if k = 1 then i else p)
  let c (i : Nat) : Nat := bits ord (2 * i + 1) (2 * i)
  (ax (c 2)).flatMap (fun v2 => (ax (c 1)).flatMap (fun v1 => (ax (c 0)).map (fun v0 =>
    let co (k : Nat) : Nat := if c 0 = k then v0 else if c 1 = k then v1 else v2
    (16 * co 0 + co 1) * 4 + co 2)))

/-- Member ports of a collective group. -/
def Box.groupPorts (b : Box) (n : Nat) : List Nat :=
  memberPorts (b.get .colGrpOrder n) (b.get .colGrpAxG n) (b.get .colGrpAxI n) (b.get .colGrpAxP n)

/-- Multicast set n: the ports of group n once a definition of it has been committed (R333). -/
def Box.mcastPorts (b : Box) (n : Nat) : List Nat :=
  if b.regs.any (fun e => e.1.i == n && e.1.reg.info.block == 7 && e.1.reg.info.cls == .epoch && !e.1.reg.info.dims.isEmpty)
  then b.groupPorts n else []

/-- The 128-byte record of a group (R332). -/
def Box.groupRecord (b : Box) (n : Nat) : List Byte :=
  let f (k : Nat) (r : Reg) : List Byte := leBytes k (b.get r n)
  let l := f 1 .colGrpCtrl ++ f 1 .colGrpKind ++ f 1 .colGrpOp ++ f 1 .colGrpFmtIn ++ f 1 .colGrpAcc ++ f 1 .colGrpFmtOut
    ++ f 2 .colGrpGen ++ f 4 .colGrpRanks ++ f 4 .colGrpFirstSeq ++ f 8 .colGrpSeed ++ f 4 .colGrpRfeid
    ++ f 2 .colGrpAxG ++ f 2 .colGrpAxI ++ f 2 .colGrpAxP ++ f 2 .colGrpOrder ++ f 4 .colGrpQuotaKib
    ++ f 4 .colGrpSpillMaxMib ++ f 4 .colGrpTimeoutUs ++ f 2 .colGrpTopk ++ f 2 .colGrpRsDiv ++ f 1 .colGrpWq
    ++ f 1 .colGrpMirrorExp
  l ++ List.replicate (128 - l.length) 0

/-- The 128-byte record of a shard map entry (R396). -/
def Box.mapRecord (b : Box) (e : Nat) : List Byte :=
  let f (r : Reg) (k : Nat := 0) : List Byte := leBytes 8 (b.get r e k)
  let l := leBytes 1 (b.get .embMapCtrl e) ++ leBytes 1 (b.get .embMapTable e) ++ leBytes 6 (b.get .embMapRepl e)
    ++ f .embMapRowLo ++ f .embMapRowHi ++ f .embMapBaseN ++ f .embMapBaseS ++ f .embMapStateN ++ f .embMapStateS
    ++ f .embMapFilled ++ f .embMapFilled 1
  l ++ List.replicate (128 - l.length) 0

/-- One byte of the table window; none where the specification gives no contents (DESIGN CHOICE, log 98). -/
def Box.tableByte (b : Box) (off : Nat) : Option Byte :=
  let sub := off / 2 ^ 30
  let o := off % 2 ^ 30
  if sub = 0 ∧ o < 16384 * 128 then (b.groupRecord (o / 128))[o % 128]?
  else if sub = 0 ∧ 0x01000000 ≤ o ∧ o < 0x01000000 + 16384 * 64 then
    let n := (o - 0x01000000) / 64
    some (BitVec.ofNat 8 (((b.mcastPorts n).filter (fun m => m / 8 == o % 64)).map (fun m => 2 ^ (m % 8))).sum)
  else if sub = 1 ∧ o < 65536 * 128 then (b.mapRecord (o / 128))[o % 128]?
  else none

/-- Bytes of the table window; where nothing is stated they are free values. -/
def Box.tableBytes (b : Box) (off : Nat) : Nat → List Byte × Box
  | 0 => ([], b)
  | n + 1 =>
    let (v, b) : Byte × Box := match b.tableByte off with
      | some v => (v, b)
      | none => (BitVec.ofNat 8 b.fresh.1, b.fresh.2)
    let (l, b) := b.tableBytes (off + 1) n
    (v :: l, b)

/-! ### Where a thread may access (R34, R269 to R273) -/

/-- What an address of a thread stands for. -/
inductive Site where
  /-- Key of the byte in memory: scratch or baton store. -/
  | scratch (key : Nat)
  | baton (addr : Nat)
  | table (off : Nat)
  | bell (page off : Nat)
  /-- Module-wide offset in LPDDR6, and the window's tag. -/
  | lpddr (off tag : Nat)
  deriving DecidableEq, Repr

/-- The kinds of access a thread makes. -/
inductive AccKind where
  | read | write | atomic
  deriving DecidableEq, Repr

/-- Base of a bundle's baton area on a die as a relay address; 0 without one (R271). -/
def Bundle.batonBase (x : Bundle) (d : Nat) : Nat :=
  match x.batonAt.find d with | some o => batonAddr + d * 0x03000000 + o | none => 0

/-- Length of a bundle's scratch partition on a core (R270). -/
def Bundle.scratchLen (x : Bundle) : Nat := x.consts.length + x.threads * x.scratchThr

/-- A range lies within another. -/
def within (a len base size : Nat) : Bool := decide (base ≤ a) && decide (a + len ≤ base + size)

/-- The site of an access, or the cause that stops the thread (R269, R293); an address is checked for its region, then
for alignment. -/
def Box.site (b : Box) (t addr len align : Nat) (k : AccKind) : Except Nat Site :=
  let aligned (s : Site) : Except Nat Site := if addr % align = 0 then .ok s else .error 4
  match b.bundleOf t with
  | none => .error 1
  | some x =>
    if k = .atomic ∧ lpddrAddr ≤ addr ∧ addr < lpddrAddr + 2 * halfBytes then .error 3
    else if addr < 2 ^ 18 then
      match x.at_ (coreOf t) with
      | some (_, base) => if within addr len base x.scratchLen then aligned (.scratch (scratchKey (coreOf t) addr)) else .error 1
      | none => .error 1
    else if within addr len batonAddr (4 * 0x03000000) then
      let d := (addr - batonAddr) / 0x03000000
      if x.batonBase d ≠ 0 ∧ within addr len (x.batonBase d) x.baton then aligned (.baton addr) else .error 1
    else if within addr len 0x000200000000 (320 * 2 ^ 20) then .error (if k = .read then 1 else 2)
    else if within addr len 0x000300000000 (2 ^ 32) then
      if k ≠ .read then .error 2
      else
        let off := addr - 0x000300000000
        if off / 2 ^ 30 ≠ 3 ∧ (off + len - 1) / 2 ^ 30 = off / 2 ^ 30
          ∧ x.windows.any (fun w => w.kind == 2 && w.size == off / 2 ^ 30 && bitAt w.rights 0) then aligned (.table off)
        else .error 1
    else if within addr len 0x000400000000 (10 * 4096) then
      if k = .write then aligned (.bell ((addr - 0x000400000000) / 4096) (addr % 4096)) else .error 1
    else if within addr len lpddrAddr (2 * halfBytes) then
      match x.windows.find? (fun w => w.kind == 1 && within addr len w.base w.size) with
      | none => .error 1
      | some w =>
        if k = .write ∧ !bitAt w.rights 1 then .error 2
        else if k = .read ∧ !bitAt w.rights 0 then .error 1
        else aligned (.lpddr (addr - lpddrAddr) w.tag)
    else .error 1

/-- Read a site: its bytes, or the cause that stops the thread (R273, R443). -/
def Box.readSite (b : Box) (m : Mem) (len : Nat) : Site → Except Nat (List Byte) × Box
  | .scratch key => (.ok (b.peek m key len), b)
  | .baton addr => (.ok (b.peek m addr len), b)
  | .table off => let (l, b) := b.tableBytes off len; (.ok l, b)
  | .bell _ _ => (.error 1, b)
  | .lpddr off tag =>
    if !b.memReady (memHalf off) then (.error 11, b)
    else match b.memRead m off len tag with
      | (.ok, l, b) => (.ok l, b)
      | (.bad, _, b) => (.error 11, b)
      | (.tag, _, b) => (.error 10, b)

/-- A baton store line was written: threads that wait for it go on, threads that loaded it see the write (R285). -/
def Box.lineWritten (b : Box) (line : Nat) : Box :=
  b.each b.rly.th (fun b e =>
    let b := if e.2.lines.find line = some false then b.setThr e.1 (fun x => { x with lines := x.lines.put line true }) else b
    if e.2.waits = .line line then b.setWait e.1 thReady .none else b)

/-- The lines of a range of the baton store. -/
def linesOf (addr len : Nat) : List Nat := (range' (addr / 64) ((addr + len + 63) / 64 - addr / 64)).map (64 * ·)

/-- A relay thread wrote a baton store range: waiters go on, and a guest is told of its notify lines (R285, R476). -/
def Box.batonWritten (b : Box) (addr len : Nat) : Box :=
  b.each (linesOf addr len) (fun b line =>
    let b := b.lineWritten line
    b.each [0, 1] (fun b h =>
      let base := b.get .gstNotifyBase h / 64 * 64
      if b.get .gstState h = 3 ∧ base ≤ line ∧ line < base + 64 * b.get .gstNotifyLines h then
        b.emit (.guest h 10 0 0 line [])
      else b))

/-- A value posted to a management core's relay doorbell queue (R268). -/
def Box.ringBell (b : Box) (n v t : Nat) : Box :=
  let q := b.rly.bells.at n []
  if q.length < 64 then
    { b with rly := { b.rly with bells := b.rly.bells.put n (q ++ [(v, t, ((b.thr t).bundle).getD 0)]) } }
  else b.bump .rlyDbDrop n

/-- Write a site: the cause that stops the thread, or none. A doorbell store posts only at offset 0 with 64 bits. -/
def Box.writeSite (b : Box) (t : Nat) (bytes : List Byte) : Site → Option Nat × Box
  | .scratch key => (none, b.poke key bytes)
  | .baton addr => (none, (b.poke addr bytes).batonWritten addr bytes.length)
  | .table _ => (some 2, b)
  | .bell n off => (none, if off = 0 ∧ bytes.length = 8 then b.ringBell n (leNat bytes) t else b)
  | .lpddr off tag =>
    if !b.memReady (memHalf off) then (some 11, b)
    else match b.memWrite off bytes tag with
      | (.ok, b) => (none, b)
      | (.bad, b) => (some 11, b)
      | (.tag, b) => (some 10, b)

/-! ### Outstanding accesses (R258, R274, R275) -/

/-- Bytes of an element of a format in a strided or indexed access: one for the formats whose layout there is not
stated (DESIGN CHOICE, log 88). -/
def elemBytes (f : Nat) : Nat := if f = 7 ∨ f = 10 then 1 else laneBits f / 8

/-- Bytes of each part of an access. -/
def AccOp.bytes : AccOp → Nat
  | .load n => n
  | .vload => 64
  | .gather f => elemBytes f
  | .frame .. => 64
  | .amo _ n _ _ => n
  | .vamo _ n _ => n

/-- Ranges of memory that an access touches. -/
def Access.ranges (a : Access) : List (Nat × Nat) :=
  match a.op with
  | .frame .. => []
  | _ => a.addrs.map (fun x => (x, a.op.bytes))

/-- Two sets of ranges share a byte. -/
def overlap (l l' : List (Nat × Nat)) : Bool :=
  l.any (fun a => l'.any (fun c => decide (a.1 < c.1 + c.2) && decide (c.1 < a.1 + a.2)))

/-- The registers that outstanding accesses will write. -/
def Thread.xBusy (x : Thread) (n : Nat) : Bool :=
  n != 0 && x.out.any (fun a => a.d == n && match a.op with | .load _ | .amo .. => true | _ => false)
@[inherit_doc Thread.xBusy] def Thread.vBusy (x : Thread) (n : Nat) : Bool :=
  x.out.any (fun a => a.d == n && match a.op with | .vload | .gather _ | .frame .. => true | _ => false)

/-- Accesses outstanding on a core. -/
def Box.coreOut (b : Box) (c : Nat) : Nat := ((threadsOf c).map (fun t => (b.thr t).out.length)).sum

/-- A thread may issue: READY, or WAIT on a YIELD whose slot has passed; its core runs (R255, R296). -/
def Box.mayIssue (b : Box) (t : Nat) : Bool :=
  b.get .rlyState (coreOf t) == coreRun && (b.tst t == thReady || (b.tst t == thWait && (b.thr t).waits == .yield))

/-- Issue an instruction of `len` bytes for the vector or the other slot: unless the thread may not issue, or waits for
a register (R258), the issue is counted, the program counter moves on, and the instruction has its effect, which is
given the address of the instruction. -/
def Box.issue (b : Box) (t len : Nat) (vec : Bool) (xs vs : List Nat) (f : Nat → Box → Box) : Box :=
  if !b.mayIssue t then b
  else if xs.any (b.thr t).xBusy || vs.any (b.thr t).vBusy then b.setWait t thWait .access
  else
    let pc := b.pc t
    let b := b.bump (if vec then .rlyIssueV else .rlyIssueO) (coreOf t)
    f pc ((b.setWait t thReady .none).setPc t (pc + len))

/-- An instruction that accesses memory issues only when no acquire is outstanding, when `release` is set also no other
access, and no outstanding access shares a byte with it (R274 to R276); else it issues later. -/
def Box.ordered (b : Box) (t pc : Nat) (release : Bool) (ranges : List (Nat × Nat)) (f : Box → Box) : Box :=
  let out := (b.thr t).out
  if (release && out != []) || out.any (·.acq) || out.any (fun a => overlap a.ranges ranges) then
    (b.setPc t pc).setWait t thWait .fence
  else f b

/-- Start an access: 8 per thread and 64 per core may be outstanding (R254). -/
def Box.start_ (b : Box) (t pc : Nat) (a : Access) : Box :=
  let out := (b.thr t).out
  if 8 ≤ out.length ∨ 64 ≤ b.coreOut (coreOf t) then (b.setPc t pc).setWait t thWait .access
  else if out.any (·.acq) then (b.setPc t pc).setWait t thWait .fence
  else b.setThr t (fun x => { x with out := x.out ++ [a] })

/-- Sites of addresses, in order; the first cause stands, with its address. -/
def Box.sites (b : Box) (t len align : Nat) (k : AccKind) : List Nat → Except (Nat × Nat) (List Site)
  | [] => .ok []
  | a :: rest =>
    match b.site t a len align k with
    | .error c => .error (c, a)
    | .ok s =>
      match b.sites t len align k rest with
      | .error e => .error e
      | .ok l => .ok (s :: l)

/-- Write parts in order; the first cause stops the thread. -/
def Box.writeAll (b : Box) (t : Nat) : List (Site × Nat × List Byte) → Box
  | [] => b
  | (s, addr, v) :: rest =>
    match b.writeSite t v s with
    | (none, b) => b.writeAll t rest
    | (some c, b) => b.fault t c addr

/-- A load of the baton store was performed: the thread has seen these lines (R285). -/
def Box.sawLines (b : Box) (t : Nat) (l : List Nat) : Box :=
  b.setThr t (fun x => { x with lines := l.foldl (fun s line => s.put line false) x.lines })

/-- The value an atomic stores: operation, width in bits, old value, operand, compare value (R284). -/
def amoVal (op w old v cmp : Nat) : Nat :=
  let s := toSigned w
  match op with
  | 0 => v
  | 1 => if old = cmp then v else old
  | 2 => (old + v) % 2 ^ w
  | 3 => old &&& v
  | 4 => old ||| v
  | 5 => old ^^^ v
  | 6 => if s v < s old then v else old
  | 7 => if s old < s v then v else old
  | 8 => min old v
  | _ => max old v

/-- The lanes of a vector with one lane replaced. -/
def putLane (w v i x : Nat) : Nat := v - v / 2 ^ (w * i) % 2 ^ w * 2 ^ (w * i) + x % 2 ^ w * 2 ^ (w * i)

/-- Read the sites of addresses in order, an uncorrectable error standing for a failed read. -/
def Box.readAll (b : Box) (m : Mem) (t len : Nat) : List Nat → Except (Nat × Nat) (List (List Byte)) × Box
  | [] => (.ok [], b)
  | a :: rest =>
    match b.site t a len 1 .read with
    | .error c => (.error (c, a), b)
    | .ok s =>
      match b.readSite m len s with
      | (.error c, b) => (.error (c, a), b)
      | (.ok v, b) =>
        match b.readAll m t len rest with
        | (.error e, b) => (.error e, b)
        | (.ok l, b) => (.ok (v :: l), b)

/-- Lines of the baton store among ranges. -/
def batonLines (l : List (Nat × Nat)) : List Nat :=
  l.flatMap (fun a => if within a.1 a.2 batonAddr (4 * 0x03000000) then linesOf a.1 a.2 else [])

/-- Lanes of a mask, ascending, below `n`. -/
def maskLanes (mask n : Nat) : List Nat := (upTo n).filter (bitAt mask)

/-- Perform a vector atomic's elements in ascending lane order. -/
def Box.vamoAll (b : Box) (m : Mem) (t op n : Nat) : List (Nat × Nat) → Box
  | [] => b
  | (addr, v) :: rest =>
    let old := b.peekNat m addr n
    ((b.poke addr (leBytes n (amoVal op (8 * n) old v 0))).batonWritten addr n).vamoAll m t op n rest

/-- Perform an access whose reads do not fail. -/
def Box.perform (b : Box) (m : Mem) (t : Nat) (a : Access) : Box :=
  match a.op with
  | .frame ds off =>
    match b.frameOf ds with
    | some fr =>
      let l := (fr.bytes.drop off).take 64
      b.setV t a.d (leNat l)
    | none =>
      let (n, b) := b.fresh
      (b.checkFail ds).setV t a.d n
  | .amo op n v cmp =>
    let addr := a.addrs.headD 0
    match b.site t addr n 1 .atomic with
    | .ok (.scratch key) =>
      let old := b.peekNat m key n
      (b.poke key (leBytes n (amoVal op (8 * n) old v cmp))).setX t a.d old
    | .ok _ =>
      let old := b.peekNat m addr n
      let b := (b.poke addr (leBytes n (amoVal op (8 * n) old v cmp))).batonWritten addr n
      (b.sawLines t (linesOf addr n)).setX t a.d old
    | .error c => b.fault t c addr
  | .vamo op n vs => b.vamoAll m t op n (a.addrs.zip vs)
  | op =>
    match b.readAll m t op.bytes a.addrs with
    | (.error (c, x), b) => b.fault t c x
    | (.ok l, b) =>
      let b := b.sawLines t (batonLines a.ranges)
      match op with
      | .load _ => b.setX t a.d (leNat (l.headD []))
      | .gather f =>
        let w := laneBits f
        let put (b : Box) (e : List Byte × Nat) : Box :=
          let (v, b) : Nat × Box := if [5, 6, 7, 10].contains f then b.fresh else (leNat e.1, b)
          b.setV t a.d (putLane w ((b.thr t).vr a.d) e.2 v)
        b.each (l.zip (maskLanes a.mask (fmtLanes f))) put
      | _ => b.setV t a.d (leNat (l.headD []))

/-- An outstanding access returns (R258): it is performed when nothing of the thread that must come before it is
outstanding. An uncorrectable error stops the thread (R293). -/
def Box.accessDone (b : Box) (m : Mem) (t n : Nat) (uncorrectable : Bool) : Box :=
  let out := (b.thr t).out
  match out[n]? with
  | none => b
  | some a =>
    let before := out.take n
    if (a.rel && n != 0) || before.any (fun e => e.acq || overlap e.ranges a.ranges) then b
    else
      let b := b.setThr t (fun x => { x with out := x.out.eraseIdx n })
      let addr := a.addrs.headD 0
      let b := if uncorrectable then
          let b := if within addr a.op.bytes lpddrAddr (2 * halfBytes) then b.memUe ((addr - lpddrAddr) / 32 * 32) a.tag else b
          b.fault t 11 addr
        else b.perform m t a
      if b.tst t ≠ thWait then b
      else match (b.thr t).waits with
        | .access => b.setWait t thReady .none
        | .fence => if (b.thr t).out = [] then b.setWait t thReady .none else b
        | _ => b

/-! ### Commands to cores and threads -/

/-- A write of CMD = RESTART or STOP (R294). -/
def Box.thrCmd (b : Box) (t v : Nat) : Box :=
  let b := b.put .rlyTCmd v (coreOf t) (thrOf t)
  let st := b.tst t
  if v = 1 ∧ st = thStopped then b.startThr t
  else if v = 2 ∧ (st = thReady ∨ st = thWait ∨ st = thIdle) then b.stopThr t 0 0
  else b

/-- The bundle slot that owns a word of a core's instruction store (R291). -/
def Box.wordOwner (b : Box) (c a : Nat) : Option Nat :=
  (b.rly.bundles.find? (fun e =>
    (e.2.at_ c).any (fun p => decide (p.1 ≤ a) && decide (a < p.1 + e.2.code.length / 4)))).map (·.1)

/-- A write of an instruction-store word (R291). -/
def Box.writeIstore (b : Box) (c a v : Nat) : Nat × Box :=
  let busy := (b.wordOwner c a).any (fun slot => (b.bundleThreads slot c).any (fun t => b.tst t != thFree))
  if busy then (1, b) else (0, b.put .rlyIstore v c a)

/-- A frame has been held too long (R264). -/
def Box.holdLimit (b : Box) (t slot : Nat) : Box :=
  match (b.thr t).slots.find slot with
  | some x => if x.ns + b.get .rlyHoldMaxUs * 1000 < b.ns then b.fault t 8 0 else b
  | none => b

/-- Stop the threads of a core, and move its descriptors to the same queues of another, in order (R295); with no other
core it keeps its work. A core whose work was redirected to it is redirected onward (DEDUCED, log 129). -/
def Box.quarThreads (b : Box) (c subst : Nat) : Box :=
  let b := b.each (upTo 128) (fun b d => if d ≠ subst ∧ b.get .rlySubst d = c then b.put .rlySubst subst d else b)
  let b := (b.put .rlySubst subst c).put .rlyState coreQuar c
  let b := b.each (threadsOf c) (fun b t => if b.tst t = thFree ∨ b.tst t = thStopped then b else b.stopThr t 0 0)
  if subst = c then b
  else b.each (upTo 8) (fun b q =>
    let l := b.wq c q ++ b.heldFor c q
    ((b.setWq c q []).setHeldFor c q []).each l (fun b w => b.enqWork subst q w))

/-- The dispatcher of a half takes the next rung 1 frame for the relay cores. -/
def execRelayDispatch (h : Half) (s : State) : Host.Outcome State Fault Refusal := act (fun b => b.dispatch h) s

/-- A work queue has room. -/
def execWqRoom (c : RCore) (q : Fin 8) (s : State) : Host.Outcome State Fault Refusal := act (fun b => b.wqRoomAt c q) s

/-- An outstanding load, atomic or frame load returns. -/
def execMemoryAccessDone (t : Thr) (n : Fin 8) (uncorrectable : Bool) (s : State) : Host.Outcome State Fault Refusal :=
  act (fun b => b.accessDone s.mem t n uncorrectable) s

/-- A thread holds a frame beyond RLY.HOLD_MAX_US. -/
def execHoldLimit (t : Thr) (slot : Fin 4) (s : State) : Host.Outcome State Fault Refusal :=
  act (fun b => b.holdLimit t slot) s

/-- `RLY[c].T[t].CMD` written with RESTART. -/
def execThreadRestart (src : Src) (t : Thr) (s : State) : Host.Outcome State Fault Refusal :=
  act (fun b => b.regWrite src (fun b => (0, b.thrCmd t 1))) s

/-- `RLY[c].T[t].CMD` written with STOP. -/
def execThreadStop (src : Src) (t : Thr) (s : State) : Host.Outcome State Fault Refusal :=
  act (fun b => b.regWrite src (fun b => (0, b.thrCmd t 2))) s

/-- `RLY[c].ISTORE[a]` written. -/
def execIstoreWrite (src : Src) (c : RCore) (a : Fin 16384) (v : BitVec 32) (s : State) :
    Host.Outcome State Fault Refusal :=
  act (fun b => b.regWrite src (fun b => b.writeIstore c a v.toNat)) s

end Sys2Proof.Machine
end

