-- ==== Sys2Proof/Machine/Kri.lean ====
section
/-!
DEFINITION. The KRI instructions of the other slot: scalar arithmetic, branches, memory, atomics, queues, frames and
control (R274 to R281, R284 to R286).
-/
namespace Sys2Proof.Machine

/-! ### Operands -/

/-- Value of an immediate, and length of an instruction that carries it (R279). -/
def immVal : Imm → Int
  | .short v => v.toInt
  | .long v => v.toInt
@[inherit_doc immVal] def immLen : Imm → Nat
  | .short _ => 4
  | .long _ => 8

/-- An address: 64-bit sum of a base and an offset. -/
def addrOf (base : Nat) (off : Int) : Nat := ofSigned 64 ((base : Int) + off)

/-- Effective address and length of a scalar load or store (R280). -/
def maddr (x : Thread) (a : Nat) : MAddr → Nat
  | .imm i => addrOf (x.xr a) (immVal i)
  | .index r sh => (x.xr a + x.xr r * 2 ^ sh.val) % 2 ^ 64
@[inherit_doc maddr] def maddrLen : MAddr → Nat
  | .imm i => immLen i
  | .index .. => 4
@[inherit_doc maddr] def maddrRegs : MAddr → List Nat
  | .imm _ => []
  | .index r _ => [r.val]

/-! ### Class S and SI (R280) -/

/-- A register instruction on scalars. -/
def Box.scalar (b : Box) (t d a c : Nat) (f : Nat → Nat → Nat) : Box :=
  b.issue t 4 false [a, c, d] [] (fun _ b => b.setX t d (f ((b.thr t).xr a) ((b.thr t).xr c)))

/-- An immediate instruction on a scalar. -/
def Box.scalarI (b : Box) (t d a : Nat) (i : Imm) (f : Nat → Nat → Nat) : Box :=
  b.issue t (immLen i) false [a, d] [] (fun _ b => b.setX t d (f ((b.thr t).xr a) (ofSigned 64 (immVal i))))

/-- Signed comparison of 64-bit numbers. -/
def sltB (x y : Nat) : Bool := decide (toSigned 64 x < toSigned 64 y)

/-- ADD. -/
def execAdd (t : Thr) (d a c : XReg) (s : State) : Host.Outcome State Fault Refusal :=
  act (fun b => b.scalar t d a c (fun x y => x + y)) s
/-- SUB. -/
def execSub (t : Thr) (d a c : XReg) (s : State) : Host.Outcome State Fault Refusal :=
  act (fun b => b.scalar t d a c (fun x y => x + 2 ^ 64 - y)) s
/-- AND. -/
def execAnd (t : Thr) (d a c : XReg) (s : State) : Host.Outcome State Fault Refusal :=
  act (fun b => b.scalar t d a c (fun x y => x &&& y)) s
/-- OR. -/
def execOr (t : Thr) (d a c : XReg) (s : State) : Host.Outcome State Fault Refusal :=
  act (fun b => b.scalar t d a c (fun x y => x ||| y)) s
/-- XOR. -/
def execXor (t : Thr) (d a c : XReg) (s : State) : Host.Outcome State Fault Refusal :=
  act (fun b => b.scalar t d a c (fun x y => x ^^^ y)) s
/-- SLL; the shift amount is the low six bits. -/
def execSll (t : Thr) (d a c : XReg) (s : State) : Host.Outcome State Fault Refusal :=
  act (fun b => b.scalar t d a c (fun x y => x * 2 ^ (y % 64))) s
/-- SRL. -/
def execSrl (t : Thr) (d a c : XReg) (s : State) : Host.Outcome State Fault Refusal :=
  act (fun b => b.scalar t d a c (fun x y => x / 2 ^ (y % 64))) s
/-- SRA. -/
def execSra (t : Thr) (d a c : XReg) (s : State) : Host.Outcome State Fault Refusal :=
  act (fun b => b.scalar t d a c (fun x y => ofSigned 64 (toSigned 64 x / (2 ^ (y % 64) : Nat)))) s
/-- MUL: the low 64 bits of the product. -/
def execMul (t : Thr) (d a c : XReg) (s : State) : Host.Outcome State Fault Refusal :=
  act (fun b => b.scalar t d a c (fun x y => x * y)) s
/-- MULH: the high 64 bits of the signed product. -/
def execMulh (t : Thr) (d a c : XReg) (s : State) : Host.Outcome State Fault Refusal :=
  act (fun b => b.scalar t d a c (fun x y => ofSigned 64 (toSigned 64 x * toSigned 64 y / (2 ^ 64 : Nat)))) s
/-- SLT. -/
def execSlt (t : Thr) (d a c : XReg) (s : State) : Host.Outcome State Fault Refusal :=
  act (fun b => b.scalar t d a c (fun x y => flag (sltB x y))) s
/-- SLTU. -/
def execSltu (t : Thr) (d a c : XReg) (s : State) : Host.Outcome State Fault Refusal :=
  act (fun b => b.scalar t d a c (fun x y => flag (decide (x < y)))) s
/-- MIN, signed (PRESUMED, log 86). -/
def execMin (t : Thr) (d a c : XReg) (s : State) : Host.Outcome State Fault Refusal :=
  act (fun b => b.scalar t d a c (fun x y => if sltB y x then y else x)) s
/-- MAX, signed. -/
def execMax (t : Thr) (d a c : XReg) (s : State) : Host.Outcome State Fault Refusal :=
  act (fun b => b.scalar t d a c (fun x y => if sltB x y then y else x)) s
/-- ADDI. -/
def execAddi (t : Thr) (d a : XReg) (i : Imm) (s : State) : Host.Outcome State Fault Refusal :=
  act (fun b => b.scalarI t d a i (fun x y => x + y)) s
/-- ANDI. -/
def execAndi (t : Thr) (d a : XReg) (i : Imm) (s : State) : Host.Outcome State Fault Refusal :=
  act (fun b => b.scalarI t d a i (fun x y => x &&& y)) s
/-- ORI. -/
def execOri (t : Thr) (d a : XReg) (i : Imm) (s : State) : Host.Outcome State Fault Refusal :=
  act (fun b => b.scalarI t d a i (fun x y => x ||| y)) s
/-- XORI. -/
def execXori (t : Thr) (d a : XReg) (i : Imm) (s : State) : Host.Outcome State Fault Refusal :=
  act (fun b => b.scalarI t d a i (fun x y => x ^^^ y)) s
/-- SLLI. -/
def execSlli (t : Thr) (d a : XReg) (i : Imm) (s : State) : Host.Outcome State Fault Refusal :=
  act (fun b => b.scalarI t d a i (fun x y => x * 2 ^ (y % 64))) s
/-- SRLI. -/
def execSrli (t : Thr) (d a : XReg) (i : Imm) (s : State) : Host.Outcome State Fault Refusal :=
  act (fun b => b.scalarI t d a i (fun x y => x / 2 ^ (y % 64))) s
/-- LI: the second word, as a signed number. -/
def execLi (t : Thr) (d : XReg) (v : BitVec 32) (s : State) : Host.Outcome State Fault Refusal :=
  act (fun b => b.issue t 8 false [d] [] (fun _ b => b.setX t d (ofSigned 64 v.toInt))) s

/-! ### Class B (R279, R280) -/

/-- The address an offset of 4-byte units leads to, from a base. -/
def jumpTo (base : Nat) (off : Imm) : Nat := ofSigned 16 ((base : Int) + 4 * immVal off) / 4 * 4

/-- A conditional branch. -/
def Box.branch (b : Box) (t a c : Nat) (off : Imm) (f : Nat → Nat → Bool) : Box :=
  b.issue t (immLen off) false [a, c] [] (fun pc b =>
    if f ((b.thr t).xr a) ((b.thr t).xr c) then b.setPc t (jumpTo pc off) else b)

/-- BEQ. -/
def execBeq (t : Thr) (a c : XReg) (off : Imm) (s : State) : Host.Outcome State Fault Refusal :=
  act (fun b => b.branch t a c off (fun x y => x == y)) s
/-- BNE. -/
def execBne (t : Thr) (a c : XReg) (off : Imm) (s : State) : Host.Outcome State Fault Refusal :=
  act (fun b => b.branch t a c off (fun x y => x != y)) s
/-- BLT. -/
def execBlt (t : Thr) (a c : XReg) (off : Imm) (s : State) : Host.Outcome State Fault Refusal :=
  act (fun b => b.branch t a c off sltB) s
/-- BGE. -/
def execBge (t : Thr) (a c : XReg) (off : Imm) (s : State) : Host.Outcome State Fault Refusal :=
  act (fun b => b.branch t a c off (fun x y => !sltB x y)) s
/-- BLTU. -/
def execBltu (t : Thr) (a c : XReg) (off : Imm) (s : State) : Host.Outcome State Fault Refusal :=
  act (fun b => b.branch t a c off (fun x y => decide (x < y))) s
/-- BGEU. -/
def execBgeu (t : Thr) (a c : XReg) (off : Imm) (s : State) : Host.Outcome State Fault Refusal :=
  act (fun b => b.branch t a c off (fun x y => decide (y ≤ x))) s
/-- JAL: the register takes the address of the next instruction. -/
def execJal (t : Thr) (d : XReg) (off : Imm) (s : State) : Host.Outcome State Fault Refusal :=
  act (fun b => b.issue t (immLen off) false [d] [] (fun pc b => (b.setX t d (b.pc t)).setPc t (jumpTo pc off))) s
/-- JALR: from the address in a register. -/
def execJalr (t : Thr) (d a : XReg) (off : Imm) (s : State) : Host.Outcome State Fault Refusal :=
  act (fun b => b.issue t (immLen off) false [a, d] [] (fun _ b =>
    (b.setX t d (b.pc t)).setPc t (jumpTo ((b.thr t).xr a) off))) s

/-! ### Class M and VM (R263, R269, R280) -/

/-- Start a load whose sites are allowed. -/
def Box.loadFrom (b : Box) (t pc len : Nat) (a : Access) : Box :=
  match b.sites t len len .read a.addrs with
  | .error (c, x) => b.fault t c x
  | .ok l =>
    let tag := match l.head? with | some (.lpddr _ g) => g | _ => 0
    b.ordered t pc false a.ranges (fun b => b.start_ t pc { a with tag := tag })

/-- Whether a store reaches a doorbell. -/
def ringsBell (l : List Site) : Bool := l.any (fun s => match s with | .bell .. => true | _ => false)

/-- Store parts: sites first, then the bytes in order. A doorbell store acts as a release (R276). -/
def Box.storeTo (b : Box) (t pc len : Nat) (parts : List (Nat × List Byte)) : Box :=
  match b.sites t len len .write (parts.map (·.1)) with
  | .error (c, x) => b.fault t c x
  | .ok l =>
    b.ordered t pc (ringsBell l) (parts.map (fun p => (p.1, len))) (fun b => b.writeAll t (l.zip parts))

/-- LD: 2^size bytes, zero-extended (DEDUCED, log 87). -/
def execLd (t : Thr) (d a : XReg) (m : MAddr) (size : Fin 4) (s : State) : Host.Outcome State Fault Refusal :=
  act (fun b => b.issue t (maddrLen m) false (a.val :: d.val :: maddrRegs m) [] (fun pc b =>
    let addr := maddr (b.thr t) a m
    b.loadFrom t pc (2 ^ size.val) ⟨.load (2 ^ size.val), d, [addr], 0, 0, false, false⟩)) s

/-- ST: the low 2^size bytes of a register. -/
def execSt (t : Thr) (d a : XReg) (m : MAddr) (size : Fin 4) (s : State) : Host.Outcome State Fault Refusal :=
  act (fun b => b.issue t (maddrLen m) false (a.val :: d.val :: maddrRegs m) [] (fun pc b =>
    let part : Nat × List Byte := (maddr (b.thr t) a m, leBytes (2 ^ size.val) ((b.thr t).xr d))
    b.storeTo t pc (2 ^ size.val) [part])) s

/-- VLD: 64 bytes. -/
def execVld (t : Thr) (d a : XReg) (i : Imm) (s : State) : Host.Outcome State Fault Refusal :=
  act (fun b => b.issue t (immLen i) false [a] [d] (fun pc b =>
    b.loadFrom t pc 64 ⟨.vload, d, [addrOf ((b.thr t).xr a) (immVal i)], 0, 0, false, false⟩)) s

/-- VST: 64 bytes. -/
def execVst (t : Thr) (d a : XReg) (i : Imm) (s : State) : Host.Outcome State Fault Refusal :=
  act (fun b => b.issue t (immLen i) false [a] [d] (fun pc b =>
    let part : Nat × List Byte := (addrOf ((b.thr t).xr a) (immVal i), leBytes 64 ((b.thr t).vr d))
    b.storeTo t pc 64 [part])) s

/-- Lane `i` of a vector of lanes of `w` bits. -/
def lane_ (w v i : Nat) : Nat := v / 2 ^ (w * i) % 2 ^ w

/-- Byte offset of lane `i`: a stride from a scalar register, or the lane of an index vector. -/
def strideOff (x : Thread) (r i : Nat) : Nat := x.xr r * i
@[inherit_doc strideOff] def indexOff (x : Thread) (f r i : Nat) : Nat := lane_ (laneBits f) (x.vr r) i

/-- A load of lanes at offsets from a base. -/
def Box.lanesLoad (b : Box) (t d a p f : Nat) (xs vs : List Nat) (off : Thread → Nat → Nat) : Box :=
  b.issue t 4 false (a :: xs) (d :: vs) (fun pc b =>
    if !fmtOk f then b.fault t 3 pc
    else
      let x := b.thr t
      let lanes := maskLanes (x.pr p) (fmtLanes f)
      let acc : Access := ⟨.gather f, d, lanes.map (fun i => (x.xr a + off x i) % 2 ^ 64), x.pr p, 0, false, false⟩
      if lanes = [] then b else b.loadFrom t pc (elemBytes f) acc)

/-- A store of lanes at offsets from a base. -/
def Box.lanesStore (b : Box) (t d a p f : Nat) (xs vs : List Nat) (off : Thread → Nat → Nat) : Box :=
  b.issue t 4 false (a :: xs) (d :: vs) (fun pc b =>
    if !fmtOk f then b.fault t 3 pc
    else
      let x := b.thr t
      let put (acc : List (Nat × List Byte) × Box) (i : Nat) : List (Nat × List Byte) × Box :=
        let (v, b) : Nat × Box :=
          if [5, 6, 7, 10].contains f then acc.2.fresh else (lane_ (laneBits f) (x.vr d) i, acc.2)
        (acc.1 ++ [((x.xr a + off x i) % 2 ^ 64, leBytes (elemBytes f) v)], b)
      let (parts, b) := (maskLanes (x.pr p) (fmtLanes f)).foldl put ([], b)
      b.storeTo t pc (elemBytes f) parts)

/-- VLDS: strided load. -/
def execVlds (t : Thr) (d a c : XReg) (p : PReg) (f : Fmt) (s : State) : Host.Outcome State Fault Refusal :=
  act (fun b => b.lanesLoad t d a p f [c] [] (fun x i => strideOff x c i)) s
/-- VSTS: strided store. -/
def execVsts (t : Thr) (d a c : XReg) (p : PReg) (f : Fmt) (s : State) : Host.Outcome State Fault Refusal :=
  act (fun b => b.lanesStore t d a p f [c] [] (fun x i => strideOff x c i)) s
/-- VGTH: gather. -/
def execVgth (t : Thr) (d a c : XReg) (p : PReg) (f : Fmt) (s : State) : Host.Outcome State Fault Refusal :=
  act (fun b => b.lanesLoad t d a p f [] [c] (fun x i => indexOff x f c i)) s
/-- VSCT: scatter. -/
def execVsct (t : Thr) (d a c : XReg) (p : PReg) (f : Fmt) (s : State) : Host.Outcome State Fault Refusal :=
  act (fun b => b.lanesStore t d a p f [] [c] (fun x i => indexOff x f c i)) s

/-- LDF: 64 bytes of a held frame (R263). -/
def Box.ldf (b : Box) (t d slot a : Nat) (i : Imm) : Box :=
  b.issue t (immLen i) false [a] [d] (fun pc b =>
    let off := addrOf ((b.thr t).xr a) (immVal i)
    match (b.thr t).slots.find slot with
    | none => b.fault t 1 off
    | some h =>
      let len := ((b.frameOf h.desc).map (·.bytes.length)).getD (2 ^ 64)
      if len ≤ off then b.fault t 5 off
      else b.start_ t pc ⟨.frame h.desc off, d, [], 0, 0, false, false⟩)

/-- LDF. -/
def execLdf (t : Thr) (d : XReg) (slot : Fin 4) (a : XReg) (i : Imm) (s : State) : Host.Outcome State Fault Refusal :=
  act (fun b => b.ldf t d slot a i) s

/-! ### Class A (R284) -/

/-- The number of an atomic operation. -/
def amoCode : AmoOp → Nat
  | .swap => 0 | .cas => 1 | .add => 2 | .and => 3 | .or => 4 | .xor => 5 | .min => 6 | .max => 7 | .minu => 8
  | .maxu => 9

/-- AMO on 32 or 64 bits in scratch or the baton store; CAS compares with the destination's old value. -/
def Box.amo (b : Box) (t : Nat) (op : AmoOp) (d a c : Nat) (acq rel : Bool) (width : Nat) : Box :=
  b.issue t 4 false [d, a, c] [] (fun pc b =>
    if 2 ≤ width then b.fault t 3 pc
    else
      let n := 4 * (width + 1)
      let x := b.thr t
      match b.site t (x.xr a) n n .atomic with
      | .error e => b.fault t e (x.xr a)
      | .ok _ =>
        let acc : Access := ⟨.amo (amoCode op) n (x.xr c % 2 ^ (8 * n)) (x.xr d % 2 ^ (8 * n)), d, [x.xr a], 0, 0, rel, acq⟩
        b.ordered t pc false [] (fun b => b.start_ t pc acc))

/-- AMO. -/
def execAmo (t : Thr) (op : AmoOp) (d a c : XReg) (acq rel : Bool) (width : Fin 4) (s : State) :
    Host.Outcome State Fault Refusal := act (fun b => b.amo t op d a c acq rel width) s

/-- Operations that a vector atomic has. -/
def vamoOk (op : AmoOp) : Bool := [.add, .and, .or, .xor, .min, .max].contains op

/-- VAMO on INT8 or INT32 lanes of one aligned line of the baton store, or at the offsets of an index vector. -/
def Box.vamo (b : Box) (t : Nat) (op : AmoOp) (form : VamoForm) (a c p : Nat) (acq rel : Bool) (width : Nat) : Box :=
  let idx : List Nat := match form with | .line => [] | .scatter r => [r.val]
  b.issue t 4 false [a] (c :: idx) (fun pc b =>
    let x := b.thr t
    let n := if width = 2 then 1 else 4
    let lanes := maskLanes (x.pr p) (64 / n)
    let off (i : Nat) : Nat := match form with | .line => n * i | .scatter r => lane_ (8 * n) (x.vr r.val) i
    let addrs := lanes.map (fun i => (x.xr a + off i) % 2 ^ 64)
    let notBaton (l : List Site) : Bool := l.any (fun s => match s with | .baton _ => false | _ => true)
    if width < 2 ∨ !vamoOk op then b.fault t 3 pc
    else if form = .line ∧ x.xr a % 64 ≠ 0 then b.fault t 4 (x.xr a)
    else match b.sites t n n .atomic addrs with
      | .error (e, y) => b.fault t e y
      | .ok l =>
        if notBaton l then b.fault t 3 (x.xr a)
        else if lanes = [] then b
        else
          let acc : Access := ⟨.vamo (amoCode op) n (lanes.map (lane_ (8 * n) (x.vr c))), 0, addrs, 0, 0, rel, acq⟩
          b.ordered t pc false [] (fun b => b.start_ t pc acc))

/-- VAMO. -/
def execVamo (t : Thr) (op : AmoOp) (form : VamoForm) (a c : XReg) (p : PReg) (acq rel : Bool) (width : Fin 4) (s : State) :
    Host.Outcome State Fault Refusal := act (fun b => b.vamo t op form a c p acq rel width) s

/-! ### Class Q: queues (R262, R264, R265, R281) -/

/-- WAITQ: the next descriptor, or IDLE; a thread of a bundle that stops becomes FREE when it holds no frame (R290). -/
def Box.waitq (b : Box) (t d q : Nat) : Box :=
  b.issue t 4 false [] [d] (fun pc b =>
    let x := b.thr t
    let c := coreOf t
    if (b.bundleOf t).any (·.stopping) ∧ x.slots = [] then b.freeThr t
    else if 4 ≤ x.slots.length then b.fault t 6 pc
    else if b.wq c q ≠ [] ∧ b.boundTo c q = x.bundle then b.deliver t q d
    else b.setWait t thIdle (.queue q d))

/-- WAITQ. -/
def execWaitq (t : Thr) (d : XReg) (q : Fin 8) (s : State) : Host.Outcome State Fault Refusal :=
  act (fun b => b.waitq t d q) s

/-- Release the frame of a held slot (R264). -/
def Box.relSlot (b : Box) (t slot : Nat) : Box :=
  match (b.thr t).slots.find slot with
  | none => b
  | some h => (b.setThr t (fun x => { x with slots := x.slots.del slot })).release h.desc

/-- REL. -/
def execRel (t : Thr) (slot : Fin 4) (s : State) : Host.Outcome State Fault Refusal :=
  act (fun b => b.issue t 4 false [] [] (fun _ b => b.relSlot t slot)) s

/-- Bit 0 of STATUS: whether the last POST found its queue full. -/
def Box.postStatus (b : Box) (t : Nat) (full : Bool) : Box :=
  b.setThr t (fun x => { x with status := x.status / 2 * 2 + flag full })

/-- POST and POST.F: the device sets POSTED and RUNG; a full queue sets STATUS and takes nothing (DEDUCED, log 94). -/
def Box.post (b : Box) (t a c : Nat) (frame : Bool) : Box :=
  b.issue t 4 false [c] [a] (fun pc b =>
    b.ordered t pc true [] (fun b =>
      let x := b.thr t
      let core := x.xr c % 128
      let q := x.xr c / 128 % 8
      let img := setBits (setBits (x.vr a) 240 240 1) 507 506 x.workRung
      let slot := bits img 503 502
      let held := x.slots.find slot
      let push (b : Box) (w : Work) : Box :=
        match b.boundTo core q with
        | none => (b.bump .rlyWqFullCnt core q).dropWork w
        | some _ => (b.setWq core q (b.wq core q ++ [w])).serve core q
      if frame ∧ halfOfCore core ≠ halfOfCore (coreOf t) then b.fault t 9 pc
      else if frame ∧ held.isNone then b.fault t 1 pc
      else if 64 ≤ (b.wq core q).length then b.postStatus t true
      else
        let b := b.postStatus t false
        if frame then
          let b := b.setThr t (fun x => { x with slots := x.slots.del slot })
          push b ⟨img, held.map (·.desc)⟩
        else push b ⟨img, none⟩))

/-- POST. -/
def execPost (t : Thr) (a c : XReg) (s : State) : Host.Outcome State Fault Refusal := act (fun b => b.post t a c false) s
/-- POST.F. -/
def execPostF (t : Thr) (a c : XReg) (s : State) : Host.Outcome State Fault Refusal := act (fun b => b.post t a c true) s

/-! ### Class Q: frames (R266, R267, R281, R349) -/

/-- The lane of a port that a copy takes: the port's lane on the half, or when that is excluded its other lane. -/
def Box.copyLane (b : Box) (h rung : Nat) (op : Option Nat) (port : Nat) : Option Nat :=
  [2 * port + h, 2 * port + (1 - h)].find? (fun l => b.eligible l rung op)

/-- Enqueue one copy of a built frame per port: a copy that crosses to the other half is counted, one without a lane
is discarded and counted for the group (R349). -/
def Box.sendCopies (b : Box) (d : Desc) (h rung : Nat) (op : Option Nat) (grp : Option Nat) (ports : List Nat) : Box :=
  b.each ports (fun b m =>
    match b.copyLane h rung op m with
    | some l => (if halfOf l = h then b else b.bump .colXhalfOut).placeCopies d [l]
    | none =>
      let b := match grp with | some n => b.bump .colGrpCopyDrop n | none => b
      b.unref d)

/-- A frame that the module built, as its half's buffer holds it: its bytes and their FCS. -/
def Box.builtFrame (b : Box) (h rung alloc : Nat) (bytes : List Byte) : Held :=
  ⟨bytes ++ fcs bytes, b.stamp, rung, h, laneSelf, alloc, 0, 0, []⟩

/-- A frame handed to the pipeline of a half, which forwards it (R170, R266); a refused copy waits (R211). -/
def Box.forwardBuilt (b : Box) (h : Nat) (d : Desc) : Box :=
  match b.frameOf d with
  | none => b.checkFail d
  | some fr =>
    let p := 8 * h
    let q := b.parse fr.bytes
    match b.precheck b fr q with
    | some (.drop c) => b.dropFrame p c d
    | some .relay => { b with rly := { b.rly with inbox := b.rly.inbox.upd h [] (· ++ [d]) } }
    | some .ctl => (b.emit (.toCtl fr.bytes)).release d
    | some (.lane _) => b
    | none =>
      match b.decide_ b p fr q 0 with
      | (.drop c, b) => b.dropFrame p c d
      | (.lane l, b) => (b.rewriteFor b d q l).placeCopies d [l]
      | (_, b) => b

/-- Send a frame of a relay thread: on a lane, to a multicast set, or by the pipeline; false when no cell is free. -/
def Box.trySend (b : Box) (t : Nat) (lane set_ : Option Nat) (rung : Nat) (bytes : List Byte) : Bool × Box :=
  let h := halfOfCore (coreOf t)
  match set_ with
  | some n =>
    let ports := b.mcastPorts n
    if ports = [] then (true, b)
    else match b.build h (b.builtFrame h rung alMulti bytes) ports.length none with
      | (some d, b) => (true, b.sendCopies d h rung none (some n) ports)
      | (none, b) => (false, b)
  | none =>
    match b.build h (b.builtFrame h rung alRelay bytes) 1 none with
    | (none, b) => (false, b)
    | (some d, b) =>
      match lane with
      | some l => (true, b.sendCopies d (halfOf l) rung none none [portOf l])
      | none => (true, b.forwardBuilt h d)

/-- SEND, SEND.F and SEND.M: the source bytes are read when the instruction issues; a refused rung stops the thread
(DEDUCED, log 95). -/
def Box.send (b : Box) (t a c w : Nat) (xs : List Nat) (lane set_ : Thread → Option Nat) : Box :=
  b.issue t 8 false (a :: c :: xs) [] (fun pc b =>
    b.ordered t pc true [] (fun b =>
      let x := b.thr t
      let rung := w % 4
      let len := x.xr c
      let h := halfOfCore (coreOf t)
      if w / 4 ≠ 0 ∨ len < 60 ∨ 9216 < len then b.fault t 3 pc
      else if rung < 2 ∨ rung ≤ x.workRung then
        ((b.bump .bufLadderErr h).raise h .bufLadderErr h sevError 1).fault t 7 pc
      else
        let src := match b.site t (x.xr a) len 1 .read with
          | .ok (.scratch k) => some k
          | .ok (.baton k) => some k
          | _ => none
        match src with
        | none => b.fault t 1 (x.xr a)
        | some _ => b.setWait t thWait (.send (lane x) (set_ x) rung [])))

/-- Fill in the bytes of a SEND that has just issued, and send at once when the buffer has room (R267). -/
def Box.sendNow (b : Box) (m : Mem) (t a c : Nat) : Box :=
  match (b.thr t).waits with
  | .send lane set_ rung [] =>
    let x := b.thr t
    let key := match b.site t (x.xr a) (x.xr c) 1 .read with
      | .ok (.scratch k) => k
      | .ok (.baton k) => k
      | _ => 0
    let bytes := b.peek m key (x.xr c)
    match b.trySend t lane set_ rung bytes with
    | (true, b) => b.setWait t thReady .none
    | (false, b) => b.setWait t thWait (.send lane set_ rung bytes)
  | _ => b

/-- SEND. -/
def execSend (t : Thr) (d a c : XReg) (w : BitVec 32) (s : State) : Host.Outcome State Fault Refusal :=
  act (fun b => (b.send t a c w.toNat [d] (fun x => some (x.xr d % 1024)) (fun _ => none)).sendNow s.mem t a c) s
/-- SEND.F. -/
def execSendF (t : Thr) (a c : XReg) (w : BitVec 32) (s : State) : Host.Outcome State Fault Refusal :=
  act (fun b => (b.send t a c w.toNat [] (fun _ => none) (fun _ => none)).sendNow s.mem t a c) s
/-- SEND.M. -/
def execSendM (t : Thr) (d a c : XReg) (w : BitVec 32) (s : State) : Host.Outcome State Fault Refusal :=
  act (fun b => (b.send t a c w.toNat [d] (fun _ => none) (fun x => some (x.xr d % 16384))).sendNow s.mem t a c) s

/-- The buffer has room for a SEND that waits. -/
def Box.sendRetry (b : Box) (t : Nat) : Box :=
  match (b.thr t).waits with
  | .send lane set_ rung bytes =>
    match b.trySend t lane set_ rung bytes with
    | (true, b) => b.setWait t thReady .none
    | (false, b) => b
  | _ => b

/-- A waiting SEND is admitted. -/
def execSendAdmitted (t : Thr) (s : State) : Host.Outcome State Fault Refusal := act (fun b => b.sendRetry t) s

/-! ### WAITA, YIELD, class X (R275, R285, R286) -/

/-- WAITA: IDLE until the line is written or the timeout passes; a write since the thread's last load of it counts. -/
def Box.waita (b : Box) (t a c : Nat) : Box :=
  b.issue t 4 false [a, c] [] (fun _ b =>
    let x := b.thr t
    match b.site t (x.xr a) 64 64 .read with
    | .ok (.baton addr) =>
      if x.lines.find addr = some true then b else b.setWait t thIdle (.line addr)
    | .error e => b.fault t e (x.xr a)
    | .ok _ => b.fault t 1 (x.xr a))

/-- WAITA. -/
def execWaita (t : Thr) (a c : XReg) (s : State) : Host.Outcome State Fault Refusal := act (fun b => b.waita t a c) s

/-- The timeout of a WAITA passes. -/
def execWaitaTimeout (t : Thr) (s : State) : Host.Outcome State Fault Refusal :=
  act (fun b => match (b.thr t).waits with | .line _ => b.setWait t thReady .none | _ => b) s

/-- YIELD: the thread gives up its issue slot (DESIGN CHOICE, log 92). -/
def execYield (t : Thr) (s : State) : Host.Outcome State Fault Refusal :=
  act (fun b => b.issue t 4 false [] [] (fun _ b => b.setWait t thWait .yield)) s

/-- The windows of a bundle as WINBASE and WINSIZE show them. -/
def windowAt (x : Option Bundle) (n : Nat) : Nat × Nat :=
  match x.bind (fun x => x.windows[n]?) with
  | some w => if w.kind = 1 then (w.base, w.size) else (0x000300000000 + w.size * 2 ^ 30, 2 ^ 30)
  | none => (0, 0)

/-- Position of a thread among its bundle's threads on the core. -/
def Box.thrIndex (b : Box) (t : Nat) : Nat :=
  match (b.thr t).bundle with
  | some slot => (b.bundleThreads slot (coreOf t)).idxOf t
  | none => 0

/-- The value of a control register (R286). CYCLE counts clocks, which the model does not: a free value. -/
def Box.csrVal (b : Box) (t : Nat) (r : Csr) : Nat × Box :=
  let x := b.thr t
  let u := b.bundleOf t
  let scr := ((u.bind (·.at_ (coreOf t))).map (·.2)).getD 0
  match r with
  | .thread => (t, b)
  | .bundle => (x.bundle.getD 0, b)
  | .workrung => (x.workRung, b)
  | .status => (x.status, b)
  | .scrbase => (scr, b)
  | .scrthr => (scr + (u.map (fun u => u.consts.length + b.thrIndex t * u.scratchThr)).getD 0, b)
  | .scrsize => ((u.map (·.scratchThr)).getD 0, b)
  | .batonbase d => ((u.map (·.batonBase d)).getD 0, b)
  | .winbase n => ((windowAt u n).1, b)
  | .winsize n => ((windowAt u n).2, b)
  | .cycle => b.fresh
  | .srseed n => (x.seed.at n 0, b)

/-- CSRR. -/
def execCsrr (t : Thr) (d : XReg) (r : Csr) (s : State) : Host.Outcome State Fault Refusal :=
  act (fun b => b.issue t 4 false [d] [] (fun _ b => let (v, b) := b.csrVal t r; b.setX t d v)) s

/-- CSRW: STATUS and SRSEED are writable; another register is an illegal instruction (DEDUCED, log 96). -/
def Box.csrw (b : Box) (t : Nat) (r : Csr) (a : Nat) : Box :=
  b.issue t 4 false [a] [] (fun pc b =>
    let v := (b.thr t).xr a
    match r with
    | .status => b.setThr t (fun x => { x with status := v % 8 })
    | .srseed n => b.setThr t (fun x => { x with seed := x.seed.put n v })
    | _ => b.fault t 3 pc)

/-- CSRW. -/
def execCsrw (t : Thr) (r : Csr) (a : XReg) (s : State) : Host.Outcome State Fault Refusal := act (fun b => b.csrw t r a) s

/-- A fence holds the thread until its earlier accesses are performed (R275). Every access is performed as seen by the
whole module at once, so the four scopes hold alike (DEDUCED, log 91). -/
def Box.fence (b : Box) (t : Nat) : Box :=
  b.issue t 4 false [] [] (fun _ b => if (b.thr t).out = [] then b else b.setWait t thWait .fence)

/-- FENCE.C. -/
def execFenceC (t : Thr) (s : State) : Host.Outcome State Fault Refusal := act (fun b => b.fence t) s
/-- FENCE.D. -/
def execFenceD (t : Thr) (s : State) : Host.Outcome State Fault Refusal := act (fun b => b.fence t) s
/-- FENCE.H. -/
def execFenceH (t : Thr) (s : State) : Host.Outcome State Fault Refusal := act (fun b => b.fence t) s
/-- FENCE.M. -/
def execFenceM (t : Thr) (s : State) : Host.Outcome State Fault Refusal := act (fun b => b.fence t) s

/-- TIME. -/
def execTime (t : Thr) (d : XReg) (s : State) : Host.Outcome State Fault Refusal :=
  act (fun b => b.issue t 4 false [d] [] (fun _ b => b.setX t d b.ns)) s
/-- HALT: the thread stops without a fault. -/
def execHalt (t : Thr) (s : State) : Host.Outcome State Fault Refusal :=
  act (fun b => b.issue t 4 false [] [] (fun _ b => b.stopThr t 0 0)) s
/-- TRAP. -/
def execTrap (t : Thr) (s : State) : Host.Outcome State Fault Refusal :=
  act (fun b => b.issue t 4 false [] [] (fun pc b => b.fault t 12 pc)) s

end Sys2Proof.Machine
end

