-- ==== Sys2Proof/Machine/Vector.lean ====
section
/-!
DEFINITION. The KRI instructions of the vector slot, classes V and VX (R280, R282, R283, R302, R306, R313 to R328, R352).
-/
namespace Sys2Proof.Machine

/-! ### Lanes of a vector register (R282) -/

/-- The number in lane `i` of a register. -/
def laneNum (f v i : Nat) : Num := if f = fKbp then kbpElem v i else decodeNum f (lane_ (laneBits f) v i)

/-- The two sticky bits of STATUS that a conversion leaves (R301, R304, R320). -/
def Box.noteCoded (b : Box) (t : Nat) (c : Coded) : Box :=
  if c.lost || c.sat then b.setThr t (fun x => { x with status := x.status ||| (2 * flag c.lost) ||| (4 * flag c.sat) })
  else b

/-- Write one lane: its code, or a free value where no result is stated. -/
def Box.setLaneV (b : Box) (t d f i : Nat) (r : Option Coded) : Box :=
  match r with
  | some c => (b.noteCoded t c).setV t d (putLane (laneBits f) ((b.thr t).vr d) i c.raw)
  | none => (b.fresh.2).setV t d (putLane (laneBits f) ((b.thr t).vr d) i b.fresh.1)

/-- Write the lanes that a predicate governs. -/
def Box.setLanes (b : Box) (t d p f : Nat) (g : Nat → Option Coded) : Box :=
  b.each (maskLanes ((b.thr t).pr p) (fmtLanes f)) (fun b i => b.setLaneV t d f i (g i))

/-- Write a KBP block whose governed elements are new; a value that is not stated makes the block free. -/
def Box.setKbp (b : Box) (t d p : Nat) (g : Nat → Option Num) : Box :=
  let old := (b.thr t).vr d
  let m := (b.thr t).pr p
  let l := (upTo 16).map (fun i => if bitAt m i then g i else some (kbpElem old i))
  if l.all (·.isSome) then b.setV t d (kbpBlock (l.map (fun e => (e.getD .nan, Rounding.near))))
  else (b.fresh.2).setV t d b.fresh.1

/-! ### Class V -/

/-- Registers of a class V instruction, and the reserved formats (R282). -/
def Box.vissue (b : Box) (t d a c f : Nat) (g : Thread → Box → Box) : Box :=
  b.issue t 4 true [] [d, a, c] (fun pc b => if fmtOk f then g (b.thr t) b else b.fault t 3 pc)

/-- An operation on numbers, rounded once into the format; for integers an operation of its own on codes. -/
def Box.varith (b : Box) (t d a c p f : Nat) (op : Num → Num → Num → Num) (opI : Int → Int → Int → Option Int) : Box :=
  b.vissue t d a c f (fun x b =>
    let n (r i : Nat) : Num := laneNum f (x.vr r) i
    let z (r i : Nat) : Int := toSigned (laneBits f) (lane_ (laneBits f) (x.vr r) i)
    if f = fKbp then b.setKbp t d p (fun i => some (op (n a i) (n c i) (n d i)))
    else if f = fInt8 ∨ f = fInt32 then
      b.setLanes t d p f (fun i => (opI (z a i) (z c i) (z d i)).map (fun v => { raw := ofSigned (laneBits f) v }))
    else b.setLanes t d p f (fun i => some (encodeNum f .near (op (n a i) (n c i) (n d i)))))

/-- A bitwise operation on lanes; on a KBP block no result is stated. -/
def Box.vbits (b : Box) (t d a c p f : Nat) (op : Nat → Nat → Nat → Option Nat) : Box :=
  b.vissue t d a c f (fun x b =>
    let w := laneBits f
    if f = fKbp then b.setKbp t d p (fun _ => none)
    else b.setLanes t d p f (fun i => (op w (lane_ w (x.vr a) i) (lane_ w (x.vr c) i)).map (fun v => { raw := v })))

/-- VADD; integers wrap. -/
def execVadd (t : Thr) (d a c : XReg) (p : PReg) (f : Fmt) (s : State) : Host.Outcome State Fault Refusal :=
  act (fun b => b.varith t d a c p f (fun x y _ => x.add y) (fun x y _ => some (x + y))) s
/-- VSUB. -/
def execVsub (t : Thr) (d a c : XReg) (p : PReg) (f : Fmt) (s : State) : Host.Outcome State Fault Refusal :=
  act (fun b => b.varith t d a c p f (fun x y _ => x.add y.neg) (fun x y _ => some (x - y))) s
/-- VMUL; for integers no result is stated (DESIGN CHOICE, log 89). -/
def execVmul (t : Thr) (d a c : XReg) (p : PReg) (f : Fmt) (s : State) : Host.Outcome State Fault Refusal :=
  act (fun b => b.varith t d a c p f (fun x y _ => x.mul y) (fun _ _ _ => none)) s
/-- VMULLO: the low bits of the product of integers; for other formats no result is stated. -/
def execVmullo (t : Thr) (d a c : XReg) (p : PReg) (f : Fmt) (s : State) : Host.Outcome State Fault Refusal :=
  act (fun b => b.vbits t d a c p f (fun _ x y => if f = 8 ∨ f = 9 then some (x * y) else none)) s
/-- VFMA: a · b + d, rounded once; integers wrap. -/
def execVfma (t : Thr) (d a c : XReg) (p : PReg) (f : Fmt) (s : State) : Host.Outcome State Fault Refusal :=
  act (fun b => b.varith t d a c p f (fun x y z => (x.mul y).add z) (fun x y z => some (x * y + z))) s
/-- VMAX. -/
def execVmax (t : Thr) (d a c : XReg) (p : PReg) (f : Fmt) (s : State) : Host.Outcome State Fault Refusal :=
  act (fun b => b.varith t d a c p f (fun x y _ => x.max y) (fun x y _ => some (max x y))) s
/-- VMIN. -/
def execVmin (t : Thr) (d a c : XReg) (p : PReg) (f : Fmt) (s : State) : Host.Outcome State Fault Refusal :=
  act (fun b => b.varith t d a c p f (fun x y _ => x.min y) (fun x y _ => some (min x y))) s
/-- VABSMAX; for integers no result is stated. -/
def execVabsmax (t : Thr) (d a c : XReg) (p : PReg) (f : Fmt) (s : State) : Host.Outcome State Fault Refusal :=
  act (fun b => b.varith t d a c p f (fun x y _ => x.absmax y) (fun _ _ _ => none)) s
/-- VAND. -/
def execVand (t : Thr) (d a c : XReg) (p : PReg) (f : Fmt) (s : State) : Host.Outcome State Fault Refusal :=
  act (fun b => b.vbits t d a c p f (fun _ x y => some (x &&& y))) s
/-- VOR. -/
def execVor (t : Thr) (d a c : XReg) (p : PReg) (f : Fmt) (s : State) : Host.Outcome State Fault Refusal :=
  act (fun b => b.vbits t d a c p f (fun _ x y => some (x ||| y))) s
/-- VXOR. -/
def execVxor (t : Thr) (d a c : XReg) (p : PReg) (f : Fmt) (s : State) : Host.Outcome State Fault Refusal :=
  act (fun b => b.vbits t d a c p f (fun _ x y => some (x ^^^ y))) s
/-- VSHL; for an amount of the lane width or more no result is stated. -/
def execVshl (t : Thr) (d a c : XReg) (p : PReg) (f : Fmt) (s : State) : Host.Outcome State Fault Refusal :=
  act (fun b => b.vbits t d a c p f (fun w x y => if y < w then some (x * 2 ^ y) else none)) s
/-- VSHR, logical. -/
def execVshr (t : Thr) (d a c : XReg) (p : PReg) (f : Fmt) (s : State) : Host.Outcome State Fault Refusal :=
  act (fun b => b.vbits t d a c p f (fun w x y => if y < w then some (x / 2 ^ y) else none)) s

/-- Whether a relation holds between two numbers; with a NaN no result is stated (DEDUCED, log 60). Zeros of either
sign are
equal here. -/
def cmpNum (r : CmpRel) (x y : Num) : Option Bool :=
  let zero (n : Num) : Bool := match n with | .fin _ 0 _ => true | _ => false
  let lt (x y : Num) : Bool := x.lt y && !(zero x && zero y)
  if x = .nan ∨ y = .nan then none
  else some (match r with
    | .eq => !lt x y && !lt y x
    | .ne => lt x y || lt y x
    | .lt => lt x y
    | .ge => !lt x y)

/-- VCMP: a predicate bit per governed lane. -/
def Box.vcmp (b : Box) (t : Nat) (r : CmpRel) (d a c p f : Nat) : Box :=
  b.vissue t a a c f (fun x b =>
    b.each (maskLanes (x.pr p) (fmtLanes f)) (fun b i =>
      let (v, b) : Nat × Box := match cmpNum r (laneNum f (x.vr a) i) (laneNum f (x.vr c) i) with
        | some v => (flag v, b)
        | none => b.fresh
      b.setP t d (putLane 1 ((b.thr t).pr d) i v)))

/-- VCMP. -/
def execVcmp (t : Thr) (r : CmpRel) (d : PReg) (a c : XReg) (p : PReg) (f : Fmt) (s : State) :
    Host.Outcome State Fault Refusal := act (fun b => b.vcmp t r d a c p f) s

/-- VSEL: each lane from the first operand where the predicate has 1, else from the second (DEDUCED, log 90). -/
def Box.vsel (b : Box) (t d a c p f : Nat) : Box :=
  b.vissue t d a c f (fun x b =>
    let m := x.pr p
    if f = fKbp then
      b.setKbp t d 0 (fun i => some (kbpElem (x.vr (if bitAt m i then a else c)) i))
    else
      let w := laneBits f
      b.setLanes t d 0 f (fun i => some { raw := lane_ w (x.vr (if bitAt m i then a else c)) i }))

/-- VSEL. -/
def execVsel (t : Thr) (d a c : XReg) (p : PReg) (f : Fmt) (s : State) : Host.Outcome State Fault Refusal :=
  act (fun b => b.vsel t d a c p f) s

/-- VBCAST: the low bits of a scalar register into every governed lane; for KBP no result is stated. -/
def execVbcast (t : Thr) (d a : XReg) (p : PReg) (f : Fmt) (s : State) : Host.Outcome State Fault Refusal :=
  act (fun b => b.issue t 4 true [a] [d] (fun pc b =>
    if !fmtOk f then b.fault t 3 pc
    else if f = 10 then b.setKbp t d p (fun _ => none)
    else
      let v := (b.thr t).xr a % 2 ^ laneBits f
      b.setLanes t d p f (fun _ => some { raw := v }))) s

/-- VPERM: lane i takes the lane that the second operand's lane i numbers; past the last lane no result is stated. -/
def execVperm (t : Thr) (d a c : XReg) (p : PReg) (f : Fmt) (s : State) : Host.Outcome State Fault Refusal :=
  act (fun b => b.vissue t d a c f (fun x b =>
    let w := laneBits f
    if f = 10 then b.setKbp t d p (fun _ => none)
    else b.setLanes t d p f (fun i =>
      let j := lane_ w (x.vr c) i
      if j < fmtLanes f then some { raw := lane_ w (x.vr a) j } else none))) s

/-! ### Class VX: the control word (R283) -/

/-- The control word of a VX instruction. -/
structure VxCtl where
  out : Nat
  acc : Nat
  rnd : Nat
  mxIn : Bool
  mxOut : Bool
  /-- Bits [21:0] are 0. -/
  clean : Bool
  deriving DecidableEq, Repr

/-- Its fields. -/
def vxCtl (w : Nat) : VxCtl := ⟨bits w 31 28, bits w 27 26, bits w 25 24, bitAt w 23, bitAt w 22, w % 2 ^ 22 == 0⟩

/-- Accumulation format of a format under a width (R323). -/
def accFmt (f acc : Nat) : Option Nat :=
  match acc with
  | 0 => some (if f = 8 ∨ f = 9 then 9 else f)
  | 1 => some 0
  | 2 => some 10
  | _ => none

/-- Legal control of VCOMB and VRED (R318, R323). -/
def VxCtl.sumOk (c : VxCtl) (f : Nat) : Bool :=
  c.clean && !c.mxIn && !c.mxOut && c.rnd == 0 && fmtOk f && c.out == f && accFmt f c.acc == some f

/-- The sum of two codes in a format: exact, rounded once; INT32 wraps (R323, R324). -/
def sumCode (f x y : Nat) : Coded :=
  if f = 9 then { raw := (x + y) % 2 ^ 32 } else encodeNum f .near ((decodeNum f x).add (decodeNum f y))

/-- VCOMB. -/
def Box.vcomb (b : Box) (t d a c p f w : Nat) : Box :=
  b.issue t 8 true [] [d, a, c] (fun pc b =>
    let x := b.thr t
    if !(vxCtl w).sumOk f then b.fault t 3 pc
    else if f = fKbp then b.setKbp t d p (fun i => some ((kbpElem (x.vr a) i).add (kbpElem (x.vr c) i)))
    else
      let l := laneBits f
      b.setLanes t d p f (fun i => some (sumCode f (lane_ l (x.vr a) i) (lane_ l (x.vr c) i))))

/-- VCOMB. -/
def execVcomb (t : Thr) (d a c : XReg) (p : PReg) (f : Fmt) (w : BitVec 32) (s : State) :
    Host.Outcome State Fault Refusal := act (fun b => b.vcomb t d a c p f w.toNat) s

/-- One level of a balanced tree. -/
def treeLevel (g : Nat → Nat → Nat) : List (Option Nat) → List (Option Nat)
  | x :: y :: t => (match x, y with | some u, some v => some (g u v) | some u, none => some u | none, v => v) :: treeLevel g t
  | l => l

/-- The root of a balanced tree of `2^n` leaves. -/
def treeRoot (g : Nat → Nat → Nat) : Nat → List (Option Nat) → Option Nat
  | 0, l => l.head?.join
  | n + 1, l => treeRoot g n (treeLevel g l)

/-- VRED (R328). For KBP, and when no lane is selected, no result is stated. -/
def Box.vred (b : Box) (t d a p f w : Nat) : Box :=
  b.issue t 8 true [] [d, a] (fun pc b =>
    let x := b.thr t
    if !(vxCtl w).sumOk f then b.fault t 3 pc
    else if f = fKbp then b.setKbp t d 0 (fun _ => none)
    else
      let l := (upTo (fmtLanes f)).map (fun i => if bitAt (x.pr p) i then some (lane_ (laneBits f) (x.vr a) i) else none)
      let root := treeRoot (fun u v => (sumCode f u v).raw) 7 l
      b.setLaneV t d f 0 (root.map (fun r => encodeNum f .near (decodeNum f r))))

/-- VRED. -/
def execVred (t : Thr) (d a _c : XReg) (p : PReg) (f : Fmt) (w : BitVec 32) (s : State) :
    Host.Outcome State Fault Refusal := act (fun b => b.vred t d a p f w.toNat) s

/-! ### VCVT and VSCALE (R306, R309 to R320, R325) -/

/-- The rounding of element j (R319, R320; DEDUCED, log 99). -/
def Thread.rounding (x : Thread) (stoch : Bool) (j : Nat) : Rounding :=
  if stoch then
    .stoch (randWord (x.seed.at 0 0) (x.seed.at 1 0 % 2 ^ 32) (x.seed.at 1 0 / 2 ^ 32) (x.seed.at 2 0 / 2 ^ 32)
      (x.seed.at 2 0 + j))
  else .near

/-- SRSEED2[31:0] advances by N, modulo 2^32 (R320). -/
def Box.advanceSeed (b : Box) (t n : Nat) : Box :=
  b.setThr t (fun x =>
    let v := x.seed.at 2 0
    { x with seed := x.seed.put 2 (v / 2 ^ 32 * 2 ^ 32 + (v + n) % 2 ^ 32) })

/-- Write elements that have their values and roundings to the register group from `d`: the governed ones, or whole
blocks for KBP. -/
def Box.putElems (b : Box) (t d p out : Nat) (l : List (Num × Rounding)) : Box :=
  if out = fKbp then
    b.each (upTo ((l.length + 15) / 16)) (fun b k => b.setV t (d + k) (kbpBlock ((l.drop (16 * k)).take 16)))
  else
    let n := fmtLanes out
    let m := (b.thr t).pr p
    b.each l.zipIdx (fun b e =>
      if bitAt m e.2 then b.setLaneV t (d + e.2 / n) out (e.2 % n) (some (encodeNum out e.1.2 e.1.1)) else b)

/-- Write elements in MX blocks of 32: codes to the register group, scales to the bytes of xD (R310, R314). -/
def Box.putMx (b : Box) (t d out : Nat) (l : List (Num × Rounding)) : Box :=
  let n := fmtLanes out
  b.each (upTo ((l.length + 31) / 32)) (fun b k =>
    let (z, codes) := mxBlock out ((l.drop (32 * k)).take 32)
    let b := b.each codes.zipIdx (fun b e =>
      let j := 32 * k + e.2
      b.setV t (d + j / n) (putLane (laneBits out) ((b.thr t).vr (d + j / n)) (j % n) e.1))
    b.setX t d (putLane 8 ((b.thr t).xr d) k z))

/-- Registers of a group. -/
def regGroup (r n f : Nat) : List Nat := range' r (n / fmtLanes f)

/-- Whether a conversion's control word is legal: both formats named, one MX side at most and on a format that takes it,
a rounding of the table, stochastic only in a bundle that declares it, register groups within v31 (R308, R313 to R318). -/
def Box.cvtOk (b : Box) (t d a f : Nat) (k : VxCtl) (mx : Bool) : Bool :=
  let n := max (fmtLanes f) (fmtLanes k.out)
  k.clean && fmtOk f && fmtOk k.out && decide (k.rnd < 2) && !(k.mxIn && k.mxOut) && (mx || (!k.mxIn && !k.mxOut))
    && (!k.mxIn || mxOk f) && (!k.mxOut || mxOk k.out) && (k.rnd == 0 || (b.bundleOf t).any (·.sr))
    && decide (a + n / fmtLanes f ≤ 32) && decide (d + n / fmtLanes k.out ≤ 32)

/-- VCVT and VSCALE: `scale` is the multiplier's register, and `mx` whether the instruction honours the MX bits. -/
def Box.convert (b : Box) (t d a c p f w : Nat) (mx : Bool) (scale : Option Nat) : Box :=
  let k := vxCtl w
  let n := max (fmtLanes f) (fmtLanes k.out)
  let vs := regGroup a n f ++ regGroup d n k.out
  b.issue t 8 true ((if k.mxIn then [c] else []) ++ scale.toList ++ (if k.mxOut then [d] else [])) vs (fun pc b =>
    let x := b.thr t
    if !b.cvtOk t d a f k mx then b.fault t 3 pc
    else
      let fl := fmtLanes f
      let num (j : Nat) : Num :=
        let v := x.vr (a + j / fl)
        if k.mxIn then mxElem f (lane_ 8 (x.xr c) (j / 32)) (lane_ (laneBits f) v (j % fl)) else laneNum f v (j % fl)
      let times (v : Num) : Num := match scale with | some r => v.mul (decodeNum 0 (x.xr r % 2 ^ 32)) | none => v
      let l := (upTo n).map (fun j => (times (num j), x.rounding (k.rnd == 1 && !k.mxIn) j))
      let b := if k.mxOut then b.putMx t d k.out l else b.putElems t d p k.out l
      if k.rnd = 1 then b.advanceSeed t n else b)

/-- VCVT. -/
def execVcvt (t : Thr) (d a c : XReg) (p : PReg) (f : Fmt) (w : BitVec 32) (s : State) :
    Host.Outcome State Fault Refusal := act (fun b => b.convert t d a c p f w.toNat true none) s
/-- VSCALE. -/
def execVscale (t : Thr) (d a c : XReg) (p : PReg) (f : Fmt) (w : BitVec 32) (s : State) :
    Host.Outcome State Fault Refusal := act (fun b => b.convert t d a c p f w.toNat false (some c)) s

/-! ### Pairs (R326, R337, R352) -/

/-- The index and the value's code of a pair. -/
def pairIdx (p : Nat) : Nat := p % 2 ^ 32
@[inherit_doc pairIdx] def pairVal (f p : Nat) : Nat := p / 2 ^ 32 % 2 ^ fmtBits f

/-- Whether pair `p` ranks above `q`: by value with NaN above +∞, the lower index first; padding below every other. -/
def pairAbove (f p q : Nat) : Bool :=
  let pad (x : Nat) : Bool := pairIdx x == 0xFFFFFFFF
  if pad p || pad q then !pad p && pad q
  else
    let u := decodeNum f (pairVal f p)
    let v := decodeNum f (pairVal f q)
    v.lt u || (!u.lt v && decide (pairIdx p < pairIdx q))

/-- A pair as a relay core writes it: a NaN becomes the canonical NaN of the format (R302). -/
def canonPair (f p : Nat) : Nat :=
  if decodeNum f (pairVal f p) = .nan then pairIdx p + (encodeNum f .near .nan).raw * 2 ^ 32 else p

/-- Merge two lists sorted from the highest rank down, the left pair first between equals. -/
def mergePairs (f : Nat) : Nat → List Nat → List Nat → List Nat
  | 0, _, _ => []
  | _, [], l => l
  | _, l, [] => l
  | n + 1, p :: t, q :: u => if pairAbove f q p then q :: mergePairs f n (p :: t) u else p :: mergePairs f n t (q :: u)

/-- An instruction on the eight pairs of a vector register, governed pair by pair. -/
def Box.vpairs (b : Box) (t d a c p f w : Nat) (g : List Nat → List Nat → List Nat) : Box :=
  b.issue t 8 true [] [d, a, c] (fun pc b =>
    let x := b.thr t
    let k := vxCtl w
    if !k.clean || k.mxIn || k.mxOut || k.rnd != 0 || decide (10 ≤ f) then b.fault t 3 pc
    else
      let l (r : Nat) : List Nat := (upTo 8).map (lane_ 64 (x.vr r))
      b.each ((g (l a) (l c)).zipIdx) (fun b e =>
        if bitAt (x.pr p) e.2 then b.setV t d (putLane 64 ((b.thr t).vr d) e.2 e.1) else b))

/-- VTOPK: the eight highest pairs of two sorted lists of eight. -/
def execVtopk (t : Thr) (d a c : XReg) (p : PReg) (f : Fmt) (w : BitVec 32) (s : State) :
    Host.Outcome State Fault Refusal :=
  act (fun b => b.vpairs t d a c p f w.toNat (fun l r => ((mergePairs f 16 l r).take 8).map (canonPair f))) s
/-- VARGMAX: at each position the pair that ranks higher. -/
def execVargmax (t : Thr) (d a c : XReg) (p : PReg) (f : Fmt) (w : BitVec 32) (s : State) :
    Host.Outcome State Fault Refusal :=
  act (fun b => b.vpairs t d a c p f w.toNat (fun l r =>
    (l.zip r).map (fun e => canonPair f (if pairAbove f e.2 e.1 then e.2 else e.1)))) s

end Sys2Proof.Machine
end

