-- ==== Sys2Proof/Machine/Collective.lean ====
section
/-!
DEFINITION. Collectives: admission, the canonical tree, batons and where they wait, results, timeouts and aborts, the
mirror checks, quarantine and heats (R28 to R30, R295, R332 to R368).
-/
namespace Sys2Proof.Machine

/-! ### The definition of a group (R332, R334, R344) -/

/-- Operators of a group. -/
def opSum : Nat := 0
@[inherit_doc opSum] def opMean : Nat := 1
@[inherit_doc opSum] def opArgmax : Nat := 8
@[inherit_doc opSum] def opTopk : Nat := 9

/-- A definition as the rules of this file use it. -/
structure Grp where
  kind : Nat
  op : Nat
  fin : Nat
  mxIn : Bool
  acc : Nat
  fout : Nat
  mxOut : Bool
  gen : Nat
  ranks : Nat
  deriving DecidableEq, Repr

/-- The definition in force of group n. -/
def Box.grp (b : Box) (n : Nat) : Grp :=
  ⟨b.get .colGrpKind n, b.get .colGrpOp n, b.get .colGrpFmtIn n % 16, b.bit .colGrpFmtIn 4 n, b.get .colGrpAcc n,
    b.get .colGrpFmtOut n % 16, b.bit .colGrpFmtOut 4 n, b.get .colGrpGen n, b.get .colGrpRanks n⟩

/-- The accumulation format (R323, R344). -/
def accOf (op fin acc : Nat) : Nat := if acc = 1 then fFp32 else if acc = 2 then fKbp else if fin = fInt8 ∧ op = opSum then fInt32 else fin

/-- The accumulation format of a group. -/
def Grp.accF (g : Grp) : Nat := accOf g.op g.fin g.acc

/-- Argmax and top-k work on pairs. -/
def Grp.pairs (g : Grp) : Bool := g.op == opArgmax || g.op == opTopk

/-- An unscaled integer sum, to which ADDSUM applies (R339, R360). -/
def Grp.intSum (g : Grp) : Bool := g.op == opSum && !g.mxIn && (g.fin == fInt8 || g.fin == fInt32)

/-- log2 of P, the smallest power of two at or above the rank count (R345). -/
def logP (ranks : Nat) : Nat := ((upTo 22).find? (fun k => decide (ranks ≤ 2 ^ k))).getD 21

/-- The home half of a chunk: by its number, or the live half in P2 (R27, R28). -/
def Box.homeHalf (b : Box) (chunk : Nat) : Nat :=
  match b.get .pwrPsState % 8 with
  | 2 => 0
  | 3 => 1
  | _ => chunk % 2

/-! ### Frames (R336 to R339) -/

/-- The collective header (R336), CHECK 0. -/
structure CHdr where
  gen : Nat
  nchunk : Nat
  base : Nat
  log : Nat
  fmt : Nat
  mxs : Bool
  stat : Nat
  nelem : Nat
  ranks : Nat
  addsum : Nat
  check : Nat
  deriving DecidableEq, Repr

/-- Its fields. -/
def chdr (x : Nat) : CHdr :=
  ⟨bits x 191 176, bits x 175 160, bits x 159 140, bits x 139 135, bits x 134 131, bitAt x 130, bits x 129 128,
    bits x 127 114, bits x 95 75, bits x 63 32, bits x 31 0⟩

/-- Its number. -/
def CHdr.num (h : CHdr) : Nat :=
  h.gen * 2 ^ 176 + h.nchunk * 2 ^ 160 + h.base * 2 ^ 140 + h.log * 2 ^ 135 + h.fmt * 2 ^ 131 + flag h.mxs * 2 ^ 130
    + h.stat * 2 ^ 128 + h.nelem * 2 ^ 114 + h.ranks * 2 ^ 75 + h.addsum * 2 ^ 32 + h.check

/-- CHECK over KFH bytes 0 to 8, header bytes 0 to 19 and the payload (R338). -/
def checkOf (k hdr : Nat) (payload : List Byte) : Nat :=
  crc32c (beBytes 9 (k / 2 ^ 56) ++ beBytes 20 (hdr / 2 ^ 32) ++ payload)

/-- Bytes of an element array in a payload: blocks of 49 bytes for KBP, eight bytes for a pair (R337). -/
def payBytes (pairs : Bool) (f n : Nat) : Nat :=
  if pairs then 8 * n else if f = fKbp then n / 16 * 49 else n * fmtBits f / 8

/-- Whether a number of elements fits a format's payload (R337). -/
def nelemOk (pairs : Bool) (f n : Nat) : Bool :=
  (pairs || !((f == 5 || f == 6) && n % 4 != 0) && !(f == 7 && n % 2 != 0) && !(f == fKbp && n % 16 != 0))
    && decide (payBytes pairs f n ≤ 4096)

/-- Length of a payload: elements, then one scale byte per block of 32 with MXS. -/
def payLen (pairs : Bool) (f n : Nat) (mxs : Bool) : Nat := payBytes pairs f n + (if mxs then (n + 31) / 32 else 0)

/-- Whether a frame holds exactly a payload of `len` bytes after its headers, or is padded to 64 bytes (R337). -/
def lenFits (fr : List Byte) (off len : Nat) : Bool :=
  off + len == endOf fr || (fr.length == 64 && decide (off + len ≤ endOf fr))

/-- A frame of KFH directly over Ethernet, without FCS: the destination address of a result is not stated (a free
value); short frames are padded with zeros to 60 bytes (DESIGN CHOICE, log 100). -/
def Box.kframe (b : Box) (k : Nat) (body : List Byte) : List Byte × Box :=
  let (n, b) := b.fresh
  let l := beBytes 6 n ++ beBytes 6 (b.get .fwdModMac) ++ beBytes 2 (b.get .fwdKfhEtype) ++ beBytes 16 k ++ body
  (l ++ List.replicate (60 - l.length) 0, b)

/-! ### Elements (R300, R337, R347) -/

/-- Values of a payload: elements, with their block scales when MXS is 1. -/
def payNums (f n : Nat) (mxs : Bool) (pay : List Byte) : List Num :=
  if f = fKbp then
    (upTo n).map (fun i => kbpElem (kbpOfBytes (pay.drop (49 * (i / 16)))) (i % 16))
  else
    let codes := unpackCodes f n (leNat (pay.take (payBytes false f n)))
    if mxs then
      let sc := pay.drop (payBytes false f n)
      codes.zipIdx.map (fun e => mxElem f ((sc.getD (e.2 / 32) 0).toNat) e.1)
    else codes.map (decodeNum f)

/-- Values as a baton keeps them in a format: codes, or whole KBP blocks (R306, R347). -/
def encElems (f : Nat) (l : List (Num × Rounding)) : List Nat :=
  if f = fKbp then
    let pad := l ++ List.replicate ((16 - l.length % 16) % 16) (.fin false 0 0, .near)
    (upTo (pad.length / 16)).map (fun k => kbpBlock ((pad.drop (16 * k)).take 16))
  else l.map (fun e => (encodeNum f e.2 e.1).raw)

/-- Values of a baton's elements. -/
def decElems (f n : Nat) (l : List Nat) : List Num :=
  if f = fKbp then (upTo n).map (fun i => kbpElem (l.getD (i / 16) 0) (i % 16)) else l.map (decodeNum f)

/-- A contribution as a baton keeps it: pairs with canonical NaNs (R302), codes of an unscaled payload already in the accumulation format, or one
conversion (R347). -/
def contribElems (g : Grp) (f n : Nat) (mxs : Bool) (pay : List Byte) : List Nat :=
  if g.pairs then (upTo n).map (fun i => canonPair g.fin (leNat ((pay.drop (8 * i)).take 8)))
  else if f = g.accF ∧ !mxs ∧ f ≠ fKbp then unpackCodes f n (leNat (pay.take (payBytes false f n)))
  else encElems g.accF ((payNums f n mxs pay).map (fun v => (v, Rounding.near)))

/-- The combine of two children (R323, R324, R326, R347, R352). -/
def combineElems (g : Grp) (n topk : Nat) (l r : List Nat) : List Nat :=
  let f := g.accF
  let num (op : Num → Num → Num) : List Nat :=
    encElems f (((decElems f n l).zip (decElems f n r)).map (fun e => (op e.1 e.2, Rounding.near)))
  match g.op with
  | 0 | 1 => if f = fInt32 then (l.zip r).map (fun e => (e.1 + e.2) % 2 ^ 32) else num Num.add
  | 2 => num Num.max
  | 3 => num Num.min
  | 4 => num Num.absmax
  | 5 => (l.zip r).map (fun e => e.1 &&& e.2)
  | 6 => (l.zip r).map (fun e => e.1 ||| e.2)
  | 7 => (l.zip r).map (fun e => e.1 ^^^ e.2)
  | 8 => (l.zip r).map (fun e => if pairAbove g.fin e.2 e.1 then e.2 else e.1)
  | _ => mergePairs g.fin topk l r

/-- The rounding of result element `i` of a chunk (R321, R348). -/
def Box.colRounding (b : Box) (n seq chunk nelem i : Nat) : Rounding :=
  if b.bit .colGrpCtrl 2 n then
    .stoch (randWord (b.get .colGrpSeed n) seq (b.get .colGrpGen n * 2 ^ 16 + n) 0 (chunk * nelem + i))
  else .near

/-- Whether the root of a group takes a scale step and a conversion (R327, R348). -/
def Grp.scales (g : Grp) : Bool := g.op == opMean
@[inherit_doc Grp.scales] def Grp.converts (g : Grp) : Bool := !g.pairs && (g.op != opMean || g.mxOut)

/-- The scale step of a mean: in FMT_OUT by the collective's rounding, or in FP32 to nearest before MX (R327). -/
def Box.scaleRoot (b : Box) (n seq chunk nelem : Nat) (l : List Nat) : List Nat :=
  let g := b.grp n
  let prod := (decElems g.accF nelem l).map (·.mul (recipFp32 g.ranks))
  if g.mxOut then encElems fFp32 (prod.map (fun v => (v, Rounding.near)))
  else encElems g.fout (prod.zipIdx.map (fun e => (e.1, b.colRounding n seq chunk nelem e.2)))

/-- The final conversion: codes or KBP blocks, and with MX the scale bytes after them (R310, R312, R348). -/
def Box.convertRoot (b : Box) (n seq chunk nelem : Nat) (l : List Nat) : List Nat :=
  let g := b.grp n
  let vals := decElems (if g.scales then fFp32 else g.accF) nelem l
  let e := vals.zipIdx.map (fun x => (x.1, b.colRounding n seq chunk nelem x.2))
  if g.mxOut then
    let blocks := (upTo ((nelem + 31) / 32)).map (fun k => mxBlock g.fout ((e.drop (32 * k)).take 32))
    blocks.flatMap (·.2) ++ blocks.map (·.1)
  else encElems g.fout e

/-- Payload bytes of a result from its elements (R337). -/
def Grp.payload (g : Grp) (nelem : Nat) (l : List Nat) : List Byte :=
  if g.pairs then l.flatMap (leBytes 8)
  else if g.fout = fKbp then l.flatMap kbpBytes
  else
    let codes := l.take nelem
    leBytes (payBytes false g.fout nelem) (packCodes g.fout codes)
      ++ (if g.mxOut then (l.drop nelem).map (BitVec.ofNat 8) else [])

/-- The sum of codes, each sign-extended to 32 bits (R339). -/
def signSum (f : Nat) (l : List Nat) : Nat :=
  ofSigned 32 ((l.map (fun v => toSigned (fmtBits f) (v % 2 ^ fmtBits f))).sum)

/-! ### Sequence slots -/

/-- The slot of a group, and a chunk of it. -/
def slotKey (n j : Nat) : Nat := 8 * n + j
@[inherit_doc slotKey] def Box.slot (b : Box) (n j : Nat) : SlotSt := b.col.slots.at (slotKey n j) {}
@[inherit_doc slotKey] def Box.chunk (b : Box) (n j chunk : Nat) : Option ChunkSt := (b.slot n j).chunks.find chunk

/-- Change a slot, and a chunk that it holds. -/
def Box.setSlot (b : Box) (n j : Nat) (f : SlotSt → SlotSt) : Box :=
  { b with col := { b.col with slots := b.col.slots.upd (slotKey n j) {} f } }
@[inherit_doc Box.setSlot] def Box.setChunk (b : Box) (n j chunk : Nat) (f : ChunkSt → ChunkSt) : Box :=
  b.setSlot n j (fun x => { x with chunks := x.chunks.upd chunk { nelem := 0 } f })

/-- States of a slot (R353). -/
def slFree : Nat := 0
@[inherit_doc slFree] def slOpen : Nat := 1
@[inherit_doc slFree] def slDone : Nat := 2
@[inherit_doc slFree] def slAborted : Nat := 3

/-- A slot's state. -/
def Box.slotState (b : Box) (n j : Nat) : Nat := b.get .colGrpSlotState n j

/-! ### Baton space (R354, R355) -/

/-- Bytes of a baton: a header line and its element lines. -/
def Grp.batonBytes (g : Grp) (nelem : Nat) : Nat :=
  let bits := if g.pairs then 64 * nelem else if g.accF = fKbp then (nelem + 15) / 16 * 512 else nelem * fmtBits g.accF
  64 * (1 + (bits + 511) / 512)

/-- Bytes of the shared pool of a die, and of a half's share of the spill region. -/
def sharedPool : Nat := 8192 * 1024
@[inherit_doc sharedPool] def batonShare : Nat := 2 ^ 31

/-- Show the fill registers of a place. -/
def Box.showFill (b : Box) (n place where_ : Nat) : Box :=
  match place with
  | 0 => b.put .colGrpQuotaUsedKib ((b.col.quota.at (4 * n + where_) 0 + 1023) / 1024) n where_
  | 1 => b.put .colDieSharedFreeKib ((sharedPool - b.col.shared.at where_ 0) / 1024) where_
  | 2 =>
    (b.put .colGrpSpillUsedMib ((b.col.grpSpill.at (2 * n + where_) 0 + 2 ^ 20 - 1) / 2 ^ 20) n where_).put
      .colSpillUsedMib ((b.col.halfSpill.at where_ 0 + 2 ^ 20 - 1) / 2 ^ 20) where_
  | _ => b

/-- Take or give back bytes of a place. -/
def Box.fill (b : Box) (n place where_ : Nat) (d : Int) : Box :=
  let add (v : Nat) : Nat := ((v : Int) + d).toNat
  let b := match place with
    | 0 => { b with col := { b.col with quota := b.col.quota.upd (4 * n + where_) 0 add } }
    | 1 => { b with col := { b.col with shared := b.col.shared.upd where_ 0 add } }
    | 2 => { b with col := { b.col with
        grpSpill := b.col.grpSpill.upd (2 * n + where_) 0 add, halfSpill := b.col.halfSpill.upd where_ 0 add } }
    | _ => b
  b.showFill n place where_

/-- Move baton spill bytes of a half within its limit of the present interval (R355, R448). -/
def Box.batonMove (b : Box) (h dir n : Nat) : Option Box :=
  let iv := b.ns / 1000
  let used := match b.col.use.find (2 * h + dir) with
    | some (i, u) => if i = iv then u else 0
    | none => 0
  if used + n ≤ b.get (if dir = 0 then .colSpillWrGbps else .colSpillRdGbps) h * 1000 then
    some { b with col := { b.col with use := b.col.use.put (2 * h + dir) (iv, used + n) } }
  else none

/-- The place of a new baton of a core, the first with room: quota, shared pool, spill (R354, R355). -/
def Box.batonRoom (b : Box) (n core bytes : Nat) : Option (Nat × Nat × Box) :=
  let d := dieOf core
  let h := halfOfCore core
  if b.col.quota.at (4 * n + d) 0 + bytes ≤ b.get .colGrpQuotaKib n * 1024 then some (0, d, b.fill n 0 d bytes)
  else if b.col.shared.at d 0 + bytes ≤ sharedPool then some (1, d, b.fill n 1 d bytes)
  else
    match [h, 1 - h].find? (fun s => b.memReady s && decide (b.col.halfSpill.at s 0 + bytes ≤ batonShare)) with
    | none => none
    | some s =>
      if b.col.grpSpill.at (2 * n + s) 0 + bytes ≤ b.get .colGrpSpillMaxMib n * 2 ^ 20 then
        (b.batonMove h 0 bytes).map (fun b => (2, s, b.fill n 2 s bytes))
      else none

/-- A baton's space is free. -/
def Box.freeBaton (b : Box) (n : Nat) (x : Baton) : Box := b.fill n x.place x.where_ (-(x.bytes : Int))

/-- The batons of every chunk of a slot are freed. -/
def Box.freeBatons (b : Box) (n j : Nat) : Box :=
  let l := (b.slot n j).chunks.flatMap (fun e => e.2.batons)
  let b := b.each l (fun b x => b.freeBaton n x)
  let b := b.setSlot n j (fun x => { x with chunks := x.chunks.map (fun e => (e.1, { e.2 with batons := [] })) })
  { b with col := { b.col with mirrors := b.col.mirrors.filter (fun m => !(m.n == n && m.j == j)) } }

/-! ### Sending (R349 to R351, R358) -/

/-- Send a built frame on the home half's lanes of ports; without cells it waits. -/
def Box.colSend (b : Box) (x : ColSend) : Bool × Box :=
  if x.ports = [] then (true, b)
  else match b.build x.half (b.builtFrame x.half x.rung x.alloc x.bytes) x.ports.length none with
    | (some d, b) => (true, b.sendCopies d x.half x.rung (some opResult) x.grp x.ports)
    | (none, b) => (false, b)

/-- Send, or keep the frame until cells are free. -/
def Box.colPush (b : Box) (x : ColSend) : Box :=
  match b.colSend x with
  | (true, b) => b
  | (false, b) => { b with col := { b.col with sends := b.col.sends ++ [x] } }

/-- Result frames that wait try again, in order. -/
def Box.colRetry (b : Box) : Box :=
  let l := b.col.sends
  ({ b with col := { b.col with sends := [] } }).each l Box.colPush

/-- A RESULT frame of a group (R349); ENTROPY is not stated: a free value. -/
def Box.resultFrame (b : Box) (n seq chunk : Nat) (h : CHdr) (payload : List Byte) : List Byte × Box :=
  let (e, b) := b.fresh
  let k := kfhOf 2 opResult n seq chunk (b.get .colGrpRfeid n) 0 (e % 65536)
  b.kframe k (beBytes 24 ({ h with check := checkOf k h.num payload }).num ++ payload)

/-- The ports of a chunk's result: one member for reduce-scatter, every member otherwise (R349, R350). -/
def Box.resultPorts (b : Box) (n chunk : Nat) : List Nat × Nat :=
  let ports := b.groupPorts n
  if b.get .colGrpKind n = 1 then
    ((ports[chunk / b.get .colGrpRsDiv n % ports.length]?).toList, alRelay)
  else (ports, alMulti)

/-- The header of a group's own results. -/
def Box.resultHdr (b : Box) (n nchunk nelem : Nat) : CHdr :=
  let g := b.grp n
  ⟨g.gen, nchunk, 0, logP g.ranks, g.fout, g.mxOut, 0, nelem, g.ranks, 0, 0⟩

/-- Multicast the abort notice of a sequence (R358). CHUNK 0xFFFF is odd: its home half is south but in P2. -/
def Box.notice (b : Box) (n seq nchunk cause : Nat) : Box :=
  let h := { b.resultHdr n nchunk 0 with stat := 1, ranks := 0, addsum := cause }
  let (bytes, b) := b.resultFrame n seq 0xFFFF h []
  b.colPush ⟨b.homeHalf 0xFFFF, 2, some n, b.groupPorts n, alMulti, bytes⟩

/-- BASE passes every consecutive sequence that has completed or aborted, at most eight (R341). -/
def Box.advanceBase (b : Box) (n : Nat) : Nat → Box
  | 0 => b
  | k + 1 =>
    let base := b.get .colGrpBase n
    let j := base % 8
    if (b.slotState n j = slDone ∨ b.slotState n j = slAborted) ∧ b.get .colGrpSlotSeq n j = base then
      let b := (b.setSlot n j (fun _ => {})).put .colGrpSlotState slFree n j
      (b.put .colGrpBase ((base + 1) % 2 ^ 32) n).advanceBase n k
    else b

/-- An OPEN sequence is aborted with a cause; `later` keeps its notice for a reset exit (R357, R358, R368). -/
def Box.abortSeq (b : Box) (n j cause : Nat) (later : Bool := false) : Box :=
  if b.slotState n j ≠ slOpen then b
  else
    let x := b.slot n j
    let b := ((b.freeBatons n j).put .colGrpSlotState slAborted n j).bump .colGrpAborted n
    let b := b.raise (b.homeHalf 0xFFFF) .colGrpAborted n sevNotice 10
    let b := if later then { b with col := { b.col with notices := b.col.notices ++ [(n, x.seq, cause + 256 * x.nchunk)] } }
      else b.notice n x.seq x.nchunk cause
    b.advanceBase n 8

/-- Every OPEN slot. -/
def Box.openSlots (b : Box) : List (Nat × Nat) :=
  (b.col.slots.filter (fun e => b.slotState (e.1 / 8) (e.1 % 8) == slOpen)).map (fun e => (e.1 / 8, e.1 % 8))

/-- A reset aborts every OPEN sequence with cause 5, and sends the notices at its exit (R357, R368). -/
def Box.abortAll (b : Box) : Box := b.each b.openSlots (fun b s => b.abortSeq s.1 s.2 5 true)

/-- Notices that waited for a reset exit go out. -/
def Box.sendNotices (b : Box) : Box :=
  let l := b.col.notices
  ({ b with col := { b.col with notices := [] } }).each l (fun b e => b.notice e.1 e.2.1 (e.2.2 / 256) (e.2.2 % 256))

/-- A commit applied a definition of group n (R335; DEDUCED, log 130). -/
def Box.groupCommit (b : Box) (n : Nat) : Box :=
  let opens := (upTo 8).filter (fun j => b.slotState n j == slOpen)
  let b := b.each (upTo 8) (fun b j =>
    ((b.freeBatons n j).setSlot n j (fun _ => {})).put .colGrpSlotState slFree n j |>.put .colGrpSlotDoneChunks 0 n j)
  let b := b.bump .colGrpGenDiscard n (by_ := opens.length)
  ((b.put .colGrpBase (b.get .colGrpFirstSeq n) n).put .colGrpSeqDone 0 n).put .colGrpChunkDone 0 n

/-! ### Quarantine (R295, R364, R365) -/

/-- Whether a core may take work. -/
def Box.usable (b : Box) (c : Nat) : Bool := b.get .rlyState c != coreQuar && b.get .rlyState c != coreHeat

/-- Quarantine a core: sequences with a baton it wrote or a step it computes are aborted with cause 3, and its work
moves to a substitute of its half (R295, R365). Which core substitutes is CTL's choice: a free value when none is
named (DESIGN CHOICE, log 102). -/
def Box.quarantine (b : Box) (c : Nat) (cause : Option Nat) (subst : Option Nat) : Box :=
  let hit (s : Nat × Nat) : Bool :=
    ((b.slot s.1 s.2).chunks.any (fun e => e.2.batons.any (·.core == c)))
      || b.col.mirrors.any (fun m => m.n == s.1 && m.j == s.2 && m.core == c)
  let b := b.each (b.openSlots.filter hit) (fun b s => b.abortSeq s.1 s.2 3)
  let cands := (range' (c / 64 * 64) 64).filter (fun d => d != c && b.usable d)
  let (n, b) := b.fresh
  let pick := match subst with
    | some d => if cands.contains d then some d else none
    | none => cands[n % cands.length]?
  let b := match cause with | some k => b.put .colQuarCause k c | none => b
  match pick with
  | some d => b.quarThreads c d
  | none => b.quarThreads c c

/-- A failure of core c in its suspect bin. Which region the core lies in, and the issue rate, are not known: the bin is
free (R364). -/
def Box.suspect (b : Box) (c : Nat) : Box :=
  let (n, b) := b.fresh
  let v := b.get .colSuspect c (n % 8) (n / 8 % 4)
  if v < 65535 then b.put .colSuspect (v + 1) c (n % 8) (n / 8 % 4) else b

/-- A mismatch record (R363): key, step, cores and digests as the model lays them out, the rest free; the operands go to
the log ring, and are kept for heat program 4 (R362, R366; DEDUCED, log 103). -/
def Box.mismatch (b : Box) (x : Mirror) (cores : List Nat) (outvoted contain : Nat) : Box :=
  let sl := b.slot x.n x.j
  let dig (l : List Nat) : Nat := crc32c (l.flatMap (leBytes 8))
  let key := x.n + b.get .colGrpGen x.n * 2 ^ 14 + sl.seq * 2 ^ 30 + x.chunk * 2 ^ 62 + x.b * 2 ^ 78 + x.l * 2 ^ 98
  let who := x.step * 2 ^ 103 + (cores.zipIdx.map (fun e => e.1 * 2 ^ (105 + 8 * e.2))).sum + outvoted * 2 ^ 129
  let digs := dig x.result * 2 ^ 138 + dig (x.second.getD []) * 2 ^ 170
  let (n, b) := b.fresh
  let h := halfOfCore x.core
  let (tj, b) := b.fresh
  let b := b.monEvent h 5 (dieOf x.core) (toSigned 12 (tj % 2 ^ 12))
  let b := { b with col := { b.col with lastMis := b.col.lastMis.put x.core x } }
  let b := b.raise h .colSuspect x.core sevError contain (key + who + digs + n % 2 ^ 512 * 2 ^ 202)
  let (k, b) := b.fresh
  let (q, b) := b.nextLogSeq (16 + h)
  b.logPush h (k % 16) 2 sevError (k / 16 % 65536) q (leNat ((x.left ++ x.right ++ x.result).flatMap (leBytes 8)))

/-! ### The tree (R345 to R348, R360, R361) -/

/-- Whether a chunk is mirrored (R361). -/
def Box.mirrored (b : Box) (n seq chunk : Nat) : Bool :=
  b.bit .colGrpCtrl 1 n &&
    crc32c (beBytes 2 0 ++ beBytes 2 n ++ beBytes 2 (b.get .colGrpGen n) ++ beBytes 4 seq ++ beBytes 2 chunk)
      % 2 ^ b.get .colGrpMirrorExp n == 0

/-- A result as a core that errs computes it: an error pattern on its first element (DESIGN CHOICE, log 135). -/
def errElems (err : Nat) (l : List Nat) : List Nat :=
  match l with
  | [] => []
  | v :: t => (v ^^^ err) :: t

/-- What a step computes from its operands (R361). -/
def Box.stepValue (b : Box) (n seq chunk nelem step : Nat) (l r : List Nat) : List Nat :=
  match step with
  | 0 => combineElems (b.grp n) nelem (b.get .colGrpTopk n) l r
  | 1 => b.scaleRoot n seq chunk nelem l
  | _ => b.convertRoot n seq chunk nelem l

/-- A step of a mirrored chunk is kept for its comparison. -/
def Box.keepStep (b : Box) (n j chunk bb l step core : Nat) (left right res : List Nat) : Box :=
  if b.mirrored n (b.slot n j).seq chunk then
    let m : Mirror := { n := n, j := j, chunk := chunk, b := bb, l := l, step := step, core := core
                        left := left, right := right, result := res }
    { b with col := { b.col with mirrors := b.col.mirrors ++ [m] } }
  else b

/-- Put a baton in a chunk, in a place with room; without room the sequence is aborted with cause 2. -/
def Box.putBaton (b : Box) (n j chunk bb l core half : Nat) (elems : List Nat) (addsum : Nat) : Bool × Box :=
  let ne := ((b.chunk n j chunk).map (·.nelem)).getD 0
  let bytes := (b.grp n).batonBytes ne
  match b.batonRoom n core bytes with
  | none => (false, b.abortSeq n j 2)
  | some (place, w, b) =>
    let x : Baton := ⟨bb, l, elems, addsum, core, half, place, w, bytes⟩
    (true, b.setChunk n j chunk (fun c => { c with batons := c.batons ++ [x] }))

/-- Drop a baton of a chunk and free its space. -/
def Box.dropBaton (b : Box) (n j chunk : Nat) (x : Baton) : Box :=
  (b.setChunk n j chunk (fun c => { c with batons := c.batons.erase x })).freeBaton n x

/-- The batons at which a node can form on a half: both children stored in its baton stores, or a left child whose
sibling is empty (R346, R347). -/
def formable (ranks half : Nat) (l : List Baton) : Option (Baton × Option Baton) :=
  l.findSome? (fun x =>
    if x.b % 2 = 0 ∧ x.half = half ∧ x.l < logP ranks then
      if ranks ≤ (x.b + 1) * 2 ^ x.l then some (x, none)
      else if x.place = 2 then none
      else (l.find? (fun y => y.b == x.b + 1 && y.l == x.l && y.half == half && y.place != 2)).map (fun y => (x, some y))
    else none)

/-- Climb a chunk's tree on a half as far as its batons go, at most `n` steps: the core combines, errors of it on the
results. A failed additive check quarantines the core (R347, R360). -/
def Box.climb (b : Box) (n j chunk half core err : Nat) : Nat → Box
  | 0 => b
  | k + 1 =>
    match b.chunk n j chunk with
    | none => b
    | some c =>
      let g := b.grp n
      match formable g.ranks half c.batons with
      | none => b
      | some (x, none) =>
        let up := { x with b := x.b / 2, l := x.l + 1 }
        (b.setChunk n j chunk (fun c => { c with batons := c.batons.map (fun y => if y = x then up else y) })).climb n j
          chunk half core err k
      | some (x, some y) =>
        let seq := (b.slot n j).seq
        let res := errElems err (b.stepValue n seq chunk c.nelem 0 x.elems y.elems)
        let sum := if g.intSum then signSum fInt32 res else 0
        let b := b.keepStep n j chunk (x.b / 2) (x.l + 1) 0 core x.elems y.elems res
        if g.intSum ∧ sum ≠ (x.addsum + y.addsum) % 2 ^ 32 then
          let m : Mirror := { n := n, j := j, chunk := chunk, b := x.b / 2, l := x.l + 1, step := 3, core := core
                              left := x.elems, right := y.elems, result := res }
          let b := ((b.mismatch m [core] core 4).suspect core)
          (b.abortSeq n j 3).quarantine core (some 2) none
        else
          let b := (b.dropBaton n j chunk x).dropBaton n j chunk y
          match b.putBaton n j chunk (x.b / 2) (x.l + 1) core half res sum with
          | (false, b) => b
          | (true, b) => b.climb n j chunk half core err k

/-- The root baton of a chunk. -/
def rootOf (ranks : Nat) (c : ChunkSt) : Option Baton := c.batons.find? (fun x => x.b == 0 && x.l == logP ranks)

/-- A sequence whose last contribution preceded its first result copy by more than MAR.SLOW_US counts; enough of them within
10 ms set SLOW (R613). -/
def Box.slowCheck (b : Box) (n j : Nat) : Box :=
  let x := b.slot n j
  let last := (x.chunks.map (·.2.last)).foldl max 0
  match x.first with
  | some t =>
    if last + b.get .marSlowUs * 1000 * 65536 < t then
      let l := b.ns :: b.mar.slowAt.filter (fun a => b.ns < a + 10000000)
      { b with mar := { b.mar with slowAt := l, slow := b.mar.slow || decide (b.get .marSlowCnt ≤ l.length) } }
    else b
  | none => b

/-- A result copy of a sequence is sent. -/
def Box.firstCopy (b : Box) (n j : Nat) : Box :=
  if (b.slot n j).first.isSome then b
  else b.setSlot n j (fun x => { x with first := some b.stamp })

/-- A chunk is complete: counts, and with the last chunk the sequence (R353, R359). -/
def Box.chunkDone (b : Box) (n j chunk : Nat) : Box :=
  let b := match b.chunk n j chunk with
    | some c => b.each c.batons (fun b x => b.freeBaton n x)
    | none => b
  let b := b.setChunk n j chunk (fun c => { c with batons := [], done := true })
  let last : Nat := ((b.chunk n j chunk).map (·.last)).getD 0
  let lag : Int := ((b.stamp : Int) - (last : Int)) / 65536
  let b : Box := b.monEvent (b.homeHalf chunk) 2 n lag
  let b := (b.bump .colGrpSlotDoneChunks n j).bump .colGrpChunkDone n
  if b.get .colGrpSlotDoneChunks n j = (b.slot n j).nchunk then
    (((b.put .colGrpSlotState slDone n j).bump .colGrpSeqDone n).slowCheck n j).advanceBase n 8
  else b

/-- The result of a chunk from its root: scale, conversion, ADDSUM, CHECK, send (R348; DEDUCED, log 101). -/
def Box.sendRoot (b : Box) (n j chunk err : Nat) (root : List Nat) (nelem : Nat) : Box :=
  let g := b.grp n
  let seq := (b.slot n j).seq
  let l := if g.scales then errElems err (b.stepValue n seq chunk nelem 1 root []) else root
  let l := if g.converts then errElems err (b.stepValue n seq chunk nelem 2 l []) else l
  let pay := g.payload nelem l
  let intOut := !g.mxOut && (g.fout == fInt8 || g.fout == fInt32)
  let (a, b) : Nat × Box :=
    if g.intSum then (if intOut then (signSum g.fout (l.take nelem), b) else let (v, b) := b.fresh; (v % 2 ^ 32, b))
    else (0, b)
  let hdr := { b.resultHdr n (b.slot n j).nchunk nelem with addsum := a }
  let (bytes, b) := b.resultFrame n seq chunk hdr pay
  let (ports, al) := b.resultPorts n chunk
  ((b.colPush ⟨b.homeHalf chunk, 2, some n, ports, al, bytes⟩).firstCopy n j).chunkDone n j chunk

/-- At the root: the additive check, then for a mirrored chunk the steps to compare, else the result (R348, R360, R361). -/
def Box.finish (b : Box) (n j chunk core err : Nat) : Box :=
  match b.chunk n j chunk with
  | none => b
  | some c =>
    let g := b.grp n
    match rootOf g.ranks c with
    | none => b
    | some r =>
      if r.half ≠ b.homeHalf chunk ∨ c.done ∨ r.place = 2 then b
      else if g.intSum ∧ r.addsum ≠ c.sum % 2 ^ 32 then
        let m : Mirror := { n := n, j := j, chunk := chunk, b := 0, l := r.l, step := 3, core := r.core
                            left := r.elems, right := [], result := r.elems }
        let b := ((b.mismatch m [r.core] r.core 4).suspect r.core)
        (b.abortSeq n j 3).quarantine r.core (some 2) none
      else
        let seq := (b.slot n j).seq
        if b.mirrored n seq chunk then
          let l1 := if g.scales then errElems err (b.stepValue n seq chunk c.nelem 1 r.elems []) else r.elems
          let b := if g.scales then b.keepStep n j chunk 0 r.l 1 core r.elems [] l1 else b
          let b := if g.converts then
              b.keepStep n j chunk 0 r.l 2 core l1 [] (errElems err (b.stepValue n seq chunk c.nelem 2 l1 []))
            else b
          if b.col.mirrors.any (fun m => m.n == n && m.j == j && m.chunk == chunk) then b
          else b.sendRoot n j chunk 0 r.elems c.nelem
        else b.sendRoot n j chunk err r.elems c.nelem

/-- Combine what a half can, then finish at the root. -/
def Box.advance (b : Box) (n j chunk half core err : Nat) : Box :=
  let b := b.climb n j chunk half core err 64
  if b.slotState n j = slOpen ∧ half = b.homeHalf chunk then b.finish n j chunk core err else b

/-! ### Admission (R341 to R344) -/

/-- A dropped contribution: its counter, and for some a notice record and points of its port (R342, R594). -/
def Box.colDrop (b : Box) (r : Reg) (n : Nat) (rec_ : Bool) (port : Nat) : Box :=
  let b := b.bump r n
  if rec_ then (b.raise (b.homeHalf 0) r n sevNotice 1 0).scorePort port 6 else b

/-- The checks of R342 after the window, in order: the counter of the first that fails, and whether it is recorded. -/
def Box.contribCheck (b : Box) (n j : Nat) (p : Parsed) (fr : List Byte) (h : CHdr) (pay : List Byte) :
    Option (Reg × Bool) :=
  let g := b.grp n
  let opened := b.slotState n j == slOpen
  let c := b.chunk n j p.chunk
  let part := decide (0 < h.log)
  let wantF := if part && !g.pairs then g.accF else g.fin
  let wantM := if part then false else g.mxIn
  let off := (p.kfh.getD 0) + 40
  let nelemFits := c.all (fun c => c.nelem == h.nelem)
    && (g.op != opTopk || h.nelem == b.get .colGrpTopk n) && (g.op != opArgmax || decide (h.nelem ≤ 512))
  if h.nchunk < 1 ∨ 32768 < h.nchunk ∨ h.nchunk ≤ p.chunk ∨ (opened && (b.slot n j).nchunk != h.nchunk)
    ∨ !nelemOk g.pairs h.fmt h.nelem ∨ !lenFits fr off (payLen g.pairs h.fmt h.nelem h.mxs) then some (.colGrpHdrBad, true)
  else if h.fmt ≠ wantF ∨ h.mxs ≠ wantM ∨ !nelemFits then some (.colGrpFmtBad, true)
  else if h.base % 2 ^ h.log ≠ 0 ∨ logP g.ranks < h.log ∨ g.ranks ≤ h.base then some (.colGrpSpanBad, true)
  else if g.intSum ∧ h.addsum ≠ signSum h.fmt (unpackCodes h.fmt h.nelem (leNat (pay.take (payBytes false h.fmt h.nelem)))) then
    some (.colGrpAddBad, true)
  else if c.any (fun c => c.done || c.batons.any (fun x =>
      decide (x.b * 2 ^ x.l < h.base + 2 ^ h.log) && decide (h.base < (x.b + 1) * 2 ^ x.l))) then some (.colGrpSpanOvl, false)
  else none

/-- The window of a group: whether a sequence is late, beyond it, or in it (R341). -/
def Box.windowDrop (b : Box) (n s : Nat) : Option Reg :=
  let d := (s + 2 ^ 32 - b.get .colGrpBase n) % 2 ^ 32
  if 2 ^ 31 ≤ d then some .colGrpLate
  else if 7 < d then some .colGrpWindow
  else if b.slotState n (s % 8) = slDone ∨ b.slotState n (s % 8) = slAborted then some .colGrpLate
  else none

/-- An accepted all-gather contribution goes out at once (R351). -/
def Box.gatherSend (b : Box) (n j : Nat) (p : Parsed) (h : CHdr) (pay : List Byte) : Box :=
  let ranks := min (2 ^ h.log) (b.get .colGrpRanks n - h.base)
  let (bytes, b) := b.resultFrame n p.seq p.chunk { h with ranks := ranks, addsum := 0 } pay
  let b := (b.colPush ⟨b.homeHalf p.chunk, 2, some n, b.groupPorts n, alMulti, bytes⟩).firstCopy n j
  let x : Baton := ⟨h.base / 2 ^ h.log, h.log, [], 0, 0, b.homeHalf p.chunk, 3, 0, 0⟩
  let b := b.setChunk n j p.chunk (fun c => { c with batons := c.batons ++ [x] })
  if ((b.chunk n j p.chunk).map (·.ranks)).getD 0 = b.get .colGrpRanks n then b.chunkDone n j p.chunk else b

/-- A contribution is admitted, or dropped with its counter (R342). The definition in force at its receive stamp decides
(R77); the sequences of one that a commit replaced since are gone, so it is late. -/
def Box.contrib (b : Box) (core err : Nat) (fr : Held) : Box :=
  let p := b.parse fr.bytes
  let n := p.group
  let h := chdr (kHeader fr.bytes p)
  let off := (p.kfh.getD 0) + 40
  let j := p.seq % 8
  let plen := payLen (b.grp n).pairs h.fmt h.nelem h.mxs
  let pay := ((fr.bytes.take (endOf fr.bytes)).drop off).take (if lenFits fr.bytes off plen then plen else endOf fr.bytes)
  let v := b.asOf fr.stamp
  if endOf fr.bytes < off ∨ h.stat ≠ 0 ∨ !v.bit .colGrpCtrl 0 n ∨ v.get .colGrpKind n = 15 then b.bump .colDropNogrp
  else if h.check ≠ checkOf p.k (kHeader fr.bytes p) pay then b.colDrop .colGrpCrcBad n true (portOf fr.lane)
  else if !(v.groupPorts n).contains (portOf fr.lane) then b.colDrop .colGrpNotMember n false 0
  else if h.gen ≠ v.get .colGrpGen n then b.colDrop .colGrpGenDrop n false 0
  else if v.get .colGrpGen n ≠ b.get .colGrpGen n then b.colDrop .colGrpLate n false 0
  else match b.windowDrop n p.seq with
    | some r => b.colDrop r n false 0
    | none =>
      match b.contribCheck n j p fr.bytes h pay with
      | some (r, rec_) => b.colDrop r n rec_ (portOf fr.lane)
      | none =>
        let half := halfOfCore core
        let b := if halfOf fr.lane ≠ b.homeHalf p.chunk then b.bump .colXhalfIn else b
        let b := if b.slotState n j = slFree then
            (((b.setSlot n j (fun _ => { seq := p.seq, nchunk := h.nchunk })).put .colGrpSlotState slOpen n j).put
              .colGrpSlotSeq p.seq n j).put .colGrpSlotDoneChunks 0 n j
          else b
        let was := ((b.chunk n j p.chunk).map (·.last)).getD fr.stamp
        let b := b.setChunk n j p.chunk (fun c => { c with nelem := h.nelem, sum := (c.sum + h.addsum) % 2 ^ 32
                                                           ranks := c.ranks + min (2 ^ h.log) (b.get .colGrpRanks n - h.base)
                                                           last := fr.stamp })
        let b := if ((b.chunk n j p.chunk).map (·.ranks)).getD 0 = b.get .colGrpRanks n
            ∧ was + b.get .marLagUs * 1000 * 65536 < fr.stamp then b.scorePort (portOf fr.lane) 7 else b
        if b.get .colGrpKind n = 2 then b.gatherSend n j p h pay
        else
          let elems := contribElems (b.grp n) h.fmt h.nelem h.mxs pay
          match b.putBaton n j p.chunk (h.base / 2 ^ h.log) h.log core half elems h.addsum with
          | (false, b) => b
          | (true, b) => b.advance n j p.chunk half core err

/-- The head of a core's work queue when it is work of an opcode that the core may take. -/
def Box.takeWork (b : Box) (c q : Nat) (ops : List Nat) : Option (Work × Box) :=
  match b.wq c q with
  | w :: rest =>
    if b.get .rlyState c = coreRun ∧ ops.contains (bits w.img 511 508) ∧ bits w.img 240 240 = 0 then
      some (w, b.setWq c q rest)
    else none
  | [] => none

/-- The standard bundle takes a contribution of a core's queue. -/
def Box.admitFirst (b : Box) (c q err : Nat) : Box :=
  let b := b.colRetry
  match b.takeWork c q [opContrib] with
  | none => b
  | some (w, b) =>
    match w.desc with
    | none => b
    | some d =>
      match b.frameOf d with
      | none => b.checkFail d
      | some fr => (b.contrib c err fr).release d

/-! ### Batons between halves and from spill (R30, R355) -/

/-- The core that works on a chunk of a group on a half (R260, R340). -/
def Box.chunkCore (b : Box) (n chunk half : Nat) : Nat :=
  b.substOf (b.get .rlySteer half (((chunk ^^^ (n * 4)) % 65536) % 1024))

/-- The non-home half forwards the batons of a chunk that it holds to the home half (R30). -/
def Box.forward (b : Box) (n j chunk h : Nat) : Box :=
  let home := b.homeHalf chunk
  if b.slotState n j ≠ slOpen ∨ h = home then b
  else
    let core := b.chunkCore n chunk home
    let l := ((b.chunk n j chunk).map (·.batons)).getD [] |>.filter (fun x => x.half == h && x.place != 2)
    let move (b : Box) (x : Baton) : Box :=
      if b.slotState n j ≠ slOpen then b
      else
        let b := b.dropBaton n j chunk x
        match b.batonRoom n core x.bytes with
        | none => b.abortSeq n j 2
        | some (place, w, b) =>
          let y := { x with half := home, place := place, where_ := w }
          b.setChunk n j chunk (fun c => { c with batons := c.batons ++ [y] })
    let b := b.each l move
    if b.slotState n j = slOpen then b.advance n j chunk home core 0 else b

/-- Spilled batons of a chunk whose sibling is present, or that are the root. -/
def readyToRead (ranks : Nat) (l : List Baton) : List Baton :=
  l.filter (fun x => x.place == 2 &&
    (x.l == logP ranks || l.any (fun y => y.l == x.l && y.b / 2 == x.b / 2 && y.b != x.b && y.half == x.half)))

/-- Batons are read back from spill within the limit; an uncorrectable one aborts the sequence with cause 4 (R355, R443). -/
def Box.batonBack (b : Box) (n j chunk : Nat) (bad : Bool) : Box :=
  if b.slotState n j ≠ slOpen then b
  else if bad then b.abortSeq n j 4
  else
    let l := readyToRead (b.get .colGrpRanks n) (((b.chunk n j chunk).map (·.batons)).getD [])
    let back (b : Box) (x : Baton) : Box :=
      match b.batonMove x.half 1 x.bytes with
      | none => b
      | some b =>
        let y := { x with place := 3 }
        (b.setChunk n j chunk (fun c => { c with batons := c.batons.map (fun z => if z = x then y else z) })).freeBaton n x
    let b := b.each l back
    b.each [0, 1] (fun b h =>
      if b.slotState n j = slOpen then b.advance n j chunk h (b.chunkCore n chunk h) 0 else b)

/-! ### Mirror checks (R361, R362) -/

/-- The mirror core of a core: on the other die of its half; a quarantined one is replaced by the next usable core of
that die. -/
def Box.mirrorOf (b : Box) (c : Nat) : Nat :=
  let m := c ^^^ 32
  if b.usable m then m
  else (((range' (m + 1) 32).map (fun d => m / 32 * 32 + d % 32)).find? b.usable).getD m

/-- The third core of a check (R362). -/
def Box.thirdOf (b : Box) (c : Nat) : Option Nat := [c ^^^ 1, c ^^^ 2, c ^^^ 3].find? b.usable

/-- A mirrored step as its operands give it. -/
def Box.mirrorValue (b : Box) (m : Mirror) : List Nat :=
  b.stepValue m.n (b.slot m.n m.j).seq m.chunk (((b.chunk m.n m.j m.chunk).map (·.nelem)).getD 0) m.step m.left m.right

/-- A check of a mirrored chunk has passed: the last one lets its result go. -/
def Box.mirrorPassed (b : Box) (m : Mirror) : Box :=
  let left := b.col.mirrors.any (fun x => x.n == m.n && x.j == m.j && x.chunk == m.chunk)
  match b.chunk m.n m.j m.chunk with
  | none => b
  | some c =>
    match rootOf (b.get .colGrpRanks m.n) c with
    | some r =>
      if left ∨ c.done ∨ r.half ≠ b.homeHalf m.chunk ∨ b.slotState m.n m.j ≠ slOpen then b
      else b.sendRoot m.n m.j m.chunk 0 r.elems c.nelem
    | none => b

/-- Forget a check. -/
def Box.dropMirror (b : Box) (m : Mirror) : Box := { b with col := { b.col with mirrors := b.col.mirrors.erase m } }

/-- The mirror core's result of the oldest unchecked step is compared. -/
def Box.compare (b : Box) (err : Nat) : Box :=
  match b.col.mirrors.find? (·.second.isNone) with
  | none => b
  | some m =>
    let v := errElems err (b.mirrorValue m)
    let (n, b) := b.fresh
    let b := b.bump .colDieMirrorRuns (dieOf m.core) (n % 8) (n / 8 % 4)
    if v = m.result then (b.dropMirror m).mirrorPassed m
    else
      let m' := { m with second := some v }
      match b.thirdOf m.core with
      | some _ => { b with col := { b.col with mirrors := b.col.mirrors.map (fun x => if x = m then m' else x) } }
      | none => ((b.mismatch m' [m.core, b.mirrorOf m.core] 256 10).dropMirror m).abortSeq m.n m.j 4

/-- The third core's result decides a disagreement (R362). -/
def Box.tiebreak (b : Box) (err : Nat) : Box :=
  match b.col.mirrors.find? (·.second.isSome) with
  | none => b
  | some m =>
    let v := errElems err (b.mirrorValue m)
    let mc := b.mirrorOf m.core
    let cores := [m.core, mc, (b.thirdOf m.core).getD 0]
    if v = m.result then
      let b := ((b.mismatch m cores mc 4).suspect mc).dropMirror m
      (b.quarantine mc (some 1) none).mirrorPassed m
    else if some v = m.second then
      ((b.mismatch m cores m.core 4).suspect m.core).quarantine m.core (some 1) none |>.dropMirror m
    else ((b.mismatch m cores 256 10).dropMirror m).abortSeq m.n m.j 4

/-! ### Quarantine by the agent, and heats (R365 to R367) -/

/-- A write of COL.QUAR[c].CMD. -/
def Box.quarCmd (b : Box) (c v : Nat) : Nat × Box :=
  if v = 2 ∧ b.get .rlyState c = coreHeat then (1, b)
  else
    let b := b.put .colQuarCmd v c
    if v = 1 ∧ b.usable c then (0, b.quarantine c (some 3) none)
    else if v = 2 ∧ b.get .rlyState c = coreQuar then
      (0, ((b.put .rlySubst c c).put .colQuarCause 0 c).put .rlyState (if b.rly.parked.contains (halfOfCore c) then coreParked else coreRun) c)
    else (0, b)

/-- A write of COL.HEAT[c].CMD = 1: a heat of one of the four programs starts on a quarantined core. -/
def Box.heatCmd (b : Box) (c : Nat) : Box :=
  let b := b.put .colHeatCmd 1 c
  if b.get .rlyState c = coreQuar ∧ 1 ≤ b.get .colHeatProg c ∧ b.get .colHeatProg c ≤ 4 then
    (b.put .rlyState coreHeat c).put .colHeatResult 0 c
  else b

/-- A heat ends with a result. -/
def Box.heatEnd (b : Box) (c result : Nat) : Box :=
  if b.get .rlyState c = coreHeat then
    ((b.put .colHeatResult result c).put .rlyState coreQuar c).put .colHeatCmd 0 c
  else b

/-! ### The commands -/

/-- The standard bundle takes the contribution at the head of a queue; `err` is an error pattern of the core. -/
def execContributionAdmission (c : RCore) (q : Fin 8) (err : BitVec 32) (s : State) : Host.Outcome State Fault Refusal :=
  act (fun b => b.admitFirst c q err.toNat) s

/-- XHOLD_NS ends on the non-home half of a chunk. -/
def execBatonForward (n : Fin 16384) (j : Fin 8) (chunk : BitVec 16) (h : Half) (s : State) :
    Host.Outcome State Fault Refusal := act (fun b => b.forward n j chunk.toNat h) s

/-- Spilled batons of a chunk are read back. -/
def execBatonReadback (n : Fin 16384) (j : Fin 8) (chunk : BitVec 16) (uncorrectable : Bool) (s : State) :
    Host.Outcome State Fault Refusal := act (fun b => b.batonBack n j chunk.toNat uncorrectable) s

/-- TIMEOUT_US of a sequence passes. -/
def execSequenceTimeout (n : Fin 16384) (j : Fin 8) (s : State) : Host.Outcome State Fault Refusal :=
  act (fun b => b.abortSeq n j 1) s

/-- A mirror core has computed its step. -/
def execMirrorCompare (err : BitVec 32) (s : State) : Host.Outcome State Fault Refusal :=
  act (fun b => b.compare err.toNat) s

/-- A third core has computed its step. -/
def execMirrorTiebreak (err : BitVec 32) (s : State) : Host.Outcome State Fault Refusal :=
  act (fun b => b.tiebreak err.toNat) s

/-- `COL.QUAR[c].CMD` written with 1. -/
def execColQuarantine (src : Src) (c : RCore) (s : State) : Host.Outcome State Fault Refusal :=
  act (fun b => b.regWrite src (fun b => b.quarCmd c 1)) s

/-- `COL.QUAR[c].CMD` written with 2. -/
def execColRelease (src : Src) (c : RCore) (s : State) : Host.Outcome State Fault Refusal :=
  act (fun b => b.regWrite src (fun b => b.quarCmd c 2)) s

/-- `COL.HEAT[c].CMD` written with 1. -/
def execHeatStart (src : Src) (c : RCore) (s : State) : Host.Outcome State Fault Refusal :=
  act (fun b => b.regWrite src (fun b => (0, b.heatCmd c))) s

/-- The region of a heat does not reach its temperature. -/
def execHeatTempMiss (c : RCore) (s : State) : Host.Outcome State Fault Refusal :=
  act (fun b => b.heatEnd c (2 ^ 63)) s

/-- A heat ends. -/
def execHeatDone (c : RCore) (passes : BitVec 32) (fails : BitVec 31) (s : State) : Host.Outcome State Fault Refusal :=
  act (fun b => b.heatEnd c (passes.toNat + fails.toNat * 2 ^ 32)) s

/-- CTL quarantines a core with a substitute of its choice. -/
def execCoreQuarantine (c subst : RCore) (s : State) : Host.Outcome State Fault Refusal :=
  act (fun b => b.quarantine c none (some subst.val)) s

end Sys2Proof.Machine
end

