-- ==== Sys2Proof/Machine/Sprint.lean ====
section
/-!
DEFINITION. The sprint path: groups, admission, the tree, results, votes, keepalives and sprint-present lanes
(R371 to R395, R70, R73).
-/
namespace Sys2Proof.Machine

/-! ### Groups (R374 to R377) -/

/-- Whether a sprint definition is VALID, a vote group, and one whose tree this module finishes. -/
def Box.sprValid (b : Box) (n : Nat) : Bool := b.bit .sprGrpCtrl 0 n
@[inherit_doc Box.sprValid] def Box.sprVote (b : Box) (n : Nat) : Bool := b.bit .sprGrpCtrl 1 n
@[inherit_doc Box.sprValid] def Box.sprRoot (b : Box) (n : Nat) : Bool := b.bit .sprGrpCtrl 2 n

/-- A sprint definition in the terms of the collective tree: 0 sum, 1 max, 2 min (R381, R395). -/
def Box.sprGrp (b : Box) (n : Nat) : Grp :=
  let op := match b.get .sprGrpOp n with | 0 => opSum | 1 => 2 | _ => 3
  ⟨0, op, b.get .sprGrpFmt n, false, b.get .sprGrpAcc n, b.get .sprGrpFmt n, false, b.get .sprGrpGen n, b.get .sprGrpRanks n⟩

/-- Member ports of a sprint group (R374). -/
def Box.sprPorts (b : Box) (n : Nat) : List Nat :=
  memberPorts (b.get .sprGrpOrder n) (b.get .sprGrpAxG n) (b.get .sprGrpAxI n) (b.get .sprGrpAxP n)

/-- The five sprint formats (R371). -/
def sprFmt (f : Nat) : Bool := [fFp32, fBf16, fFp16, fInt8, fInt32].contains f

/-- Whether axes and order meet R334: no coordinate beyond its range, no stride 0 with several values, each coordinate
named once. -/
def axesOk (ord g i p : Nat) : Bool :=
  let ok (a top : Nat) : Bool :=
    let base := bits a 12 9
    let count := bits a 8 4
    let stride := bits a 3 0
    decide (1 ≤ count) && decide (base + (count - 1) * stride ≤ top) && !(stride == 0 && decide (1 < count))
  let c (k : Nat) : Nat := bits ord (2 * k + 1) (2 * k)
  ok g 7 && ok i 15 && ok p 3 && c 0 != 3 && c 1 != 3 && c 2 != 3 && c 0 != c 1 && c 0 != c 2 && c 1 != c 2

/-- The fields of a sprint definition (R374). -/
def sprFields : List Reg :=
  [.sprGrpCtrl, .sprGrpOp, .sprGrpFmt, .sprGrpAcc, .sprGrpNelemMax, .sprGrpGen, .sprGrpRanks, .sprGrpFirstSeq, .sprGrpAxG,
   .sprGrpAxI, .sprGrpAxP, .sprGrpOrder, .sprGrpRfeid, .sprGrpLines, .sprGrpTimeoutUs, .sprGrpSelfRank, .sprGrpSelfPort]

/-- Whether two register states define group n differently. -/
def Box.sprDiffers (b v : Box) (n : Nat) : Bool := sprFields.any (fun r => b.get r n != v.get r n)

/-- Whether a definition of group n, staged in `v` over `b`, fails R375 by itself. -/
def Box.sprBad (b v : Box) (n : Nat) : Bool :=
  let g := v.sprGrp n
  v.sprValid n &&
    (!sprFmt g.fin || v.get .sprGrpOp n == 3 || (g.acc == 1 && g.fin != fBf16 && g.fin != fFp16)
      || decide (256 < v.get .sprGrpNelemMax n * fmtBits g.accF / 8)
      || (v.sprVote n && (v.get .sprGrpOp n != 2 || g.fin != fInt8 || v.get .sprGrpNelemMax n != 1))
      || g.ranks == 0 || decide (2 ^ 20 < g.ranks)
      || !axesOk (v.get .sprGrpOrder n) (v.get .sprGrpAxG n) (v.get .sprGrpAxI n) (v.get .sprGrpAxP n)
      || (b.sprValid n && b.sprDiffers v n && b.get .sprGrpGen n == v.get .sprGrpGen n))

/-- The valid groups. -/
def Box.sprGroups (b : Box) : List Nat :=
  b.regs.filterMap (fun e => if e.1.reg = .sprGrpCtrl ∧ bitAt e.2 0 then some e.1.i else none)

/-- Baton lines that the valid groups homed on a half reserve (R375, R395). -/
def Box.sprLines (b : Box) (h : Nat) : Nat := ((b.sprGroups.filter (fun n => n % 2 == h)).map (fun n => b.get .sprGrpLines n)).sum

/-- The value of SPR[h].LINES_FREE. -/
def Box.sprLinesFree (b : Box) (h : Nat) : Nat := 8192 - b.sprLines h

/-- Whether a vote group number is one that R375 lets a commit group name. -/
def Box.voteGrpOk (b : Box) (g : Nat) : Bool := decide (g < 256) && b.sprValid g && b.sprVote g

/-- Whether a half's reducer runs (R392). -/
def Box.sprRuns (b : Box) (h : Nat) : Bool := !b.darkHalf h && !b.halfReset h

/-! ### Lanes (R386, R392, R393) -/

/-- The value of SPR.LANE[l].STATE: the first condition of R386 that fails. -/
def Box.sprState (b : Box) (l : Nat) : Nat :=
  let f := fibreOf l
  let s := b.slotOf l
  let r := b.rxSlot f (colourOf l)
  if !b.laneUp f s then 1
  else if b.get .prtLaneFecMode f s % 2 = 0 then 2
  else if !(b.lane f s).merge then 3
  else if !(b.lane f r).kaNs.any (fun t => decide (b.ns ≤ t + b.get .sprKaLossNs)) then 4
  else if (b.lane f r).kaState ≠ 0 then 5
  else if !b.eligible l 2 (some opSprintResult) then 6
  else 0

/-- Whether a logical lane is sprint-present. -/
def Box.sprPresent (b : Box) (l : Nat) : Bool := b.sprState l == 0

/-- Whether a physical lane is UP and in KL-FEC mode (R102). -/
def Box.klUp (b : Box) (f s : Nat) : Bool := b.laneUp f s && b.get .prtLaneFecMode f s % 2 == 1

/-- Whether frames can arrive on a physical lane in KL-FEC mode. -/
def Box.klRx (b : Box) (f s : Nat) : Bool := b.lnRx f s && b.get .prtLaneFecMode f s % 2 == 1

/-- The sprint header (R373), CHECK 0 until it is computed. -/
structure SHdr where
  gen : Nat
  base : Nat
  log : Nat
  fmt : Nat
  stat : Nat
  nbytes : Nat
  ranks : Nat
  cause : Nat
  check : Nat
  deriving DecidableEq, Repr

/-- Its fields. -/
def shdr (x : Nat) : SHdr :=
  ⟨bits x 127 112, bits x 111 92, bits x 91 87, bits x 86 83, bits x 82 81, bits x 80 72, bits x 71 51, bits x 47 40, bits x 31 0⟩

/-- Its number. -/
def SHdr.num (h : SHdr) : Nat :=
  h.gen * 2 ^ 112 + h.base * 2 ^ 92 + h.log * 2 ^ 87 + h.fmt * 2 ^ 83 + h.stat * 2 ^ 81 + h.nbytes * 2 ^ 72 + h.ranks * 2 ^ 51
    + h.cause * 2 ^ 40 + h.check

/-- CHECK over KFH bytes 0 to 8, header bytes 0 to 11 and the element array (R373). -/
def sprCheck (k hdr : Nat) (payload : List Byte) : Nat :=
  crc32c (beBytes 9 (k / 2 ^ 56) ++ beBytes 12 (hdr / 2 ^ 32) ++ payload)

/-- A frame of the sprint path, with its FCS. -/
def Box.sprFrame (b : Box) (k : Nat) (h : SHdr) (payload : List Byte) : List Byte × Box :=
  let (l, b) := b.kframe k (beBytes 16 ({ h with check := sprCheck k h.num payload }).num ++ payload)
  (l ++ fcs l, b)

/-- Send a frame on a logical lane, or keep it in the transmit store while its rung is paused there (R240, R382). -/
def Box.sprOut (b : Box) (l rung : Nat) (bytes : List Byte) : Box :=
  if b.paused l rung then
    let x : SprHeld := ⟨bytes, rung, [], [l]⟩
    { b with spr := { b.spr with store := b.spr.store ++ [x] } }
  else match b.sprintSend l rung bytes with
    | (none, b) => b
    | (some u, b) =>
      let x : SprHeld := ⟨bytes, rung, [u], []⟩
      { b with spr := { b.spr with store := b.spr.store ++ [x] } }

/-- One copy per member port: on the home half's lane, else over the bridge on the other lane, else lost (R382). -/
def Box.sprCopies (b : Box) (n op rung seq : Nat) (h : SHdr) (payload : List Byte) : Box :=
  let home := b.homeHalf n
  b.each (b.sprPorts n) (fun b m =>
    let l := 2 * m + home
    let o := 2 * m + (1 - home)
    let lane := if b.sprPresent l then some l else if b.sprPresent o then some o else none
    match lane with
    | none => b.bump .sprGrpCopyDrop n
    | some x =>
      let b := if x = l then b else b.bump .sprXhalfOut
      let (e, b) := b.fresh
      let (bytes, b) := b.sprFrame (kfhOf rung op n seq 0 (b.get .sprGrpRfeid n) 0 (e % 65536)) h payload
      b.sprOut x rung bytes)

/-! ### Sequences (R378 to R383) -/

/-- A group's slot. -/
def Box.sprSlot (b : Box) (n j : Nat) : SprSlot := b.spr.slots.at (4 * n + j) {}
@[inherit_doc Box.sprSlot] def Box.setSprSlot (b : Box) (n j : Nat) (f : SprSlot → SprSlot) : Box :=
  { b with spr := { b.spr with slots := b.spr.slots.upd (4 * n + j) {} f } }

/-- Batons of a group that hold a line: those that the home reducer stores (R381). -/
def Box.sprHeldLines (b : Box) (n : Nat) : Nat :=
  ((upTo 4).map (fun j => ((b.sprSlot n j).batons.filter (·.place == 0)).length)).sum

/-- BASE passes every consecutive sequence that has completed or aborted (R341, R378). -/
def Box.sprAdvance (b : Box) (n : Nat) : Nat → Box
  | 0 => b
  | k + 1 =>
    let base := b.get .sprGrpBase n
    let j := base % 4
    let st := b.get .sprGrpSlotState n j
    if (st = slDone ∨ st = slAborted) ∧ (b.sprSlot n j).seq = base then
      ((b.setSprSlot n j (fun _ => {})).put .sprGrpSlotState slFree n j |>.put .sprGrpBase ((base + 1) % 2 ^ 32) n).sprAdvance n k
    else b

/-- The sequence numbers of a vote group are commit laps: only an all-reduce group moves BASE. -/
def Box.sprMoveBase (b : Box) (n : Nat) : Box := if b.sprVote n then b else b.sprAdvance n 4

/-- The header of a group's own frames. -/
def Box.sprHdr (b : Box) (n stat nbytes ranks cause : Nat) : SHdr :=
  ⟨b.get .sprGrpGen n, 0, logP (b.get .sprGrpRanks n), b.get .sprGrpFmt n, stat, nbytes, ranks, cause, 0⟩

/-- Multicast an abort notice (R383). -/
def Box.sprNotice (b : Box) (n seq cause : Nat) : Box := b.sprCopies n opSprintResult 2 seq (b.sprHdr n 1 0 0 cause) []

/-- Abort an OPEN sequence; `later` keeps its notice for a reset exit (R383, R394). -/
def Box.sprAbort (b : Box) (n j cause : Nat) (later : Bool := false) : Box :=
  if b.get .sprGrpSlotState n j ≠ slOpen then b
  else
    let seq := (b.sprSlot n j).seq
    let b := ((b.setSprSlot n j (fun x => { x with batons := [] })).put .sprGrpSlotState slAborted n j).bump .sprGrpAborted n
    let b := b.raise (b.homeHalf n) .sprGrpAborted n sevError 10
    let b := if later then { b with spr := { b.spr with notices := b.spr.notices ++ [(n, seq, cause)] } }
      else b.sprNotice n seq cause
    b.sprMoveBase n

/-- Every OPEN sequence of the groups homed on a half is aborted with cause 5, its notice kept (R394). -/
def Box.sprAbortHalf (b : Box) (h : Nat) : Box :=
  let l := b.spr.slots.filter (fun e => b.homeHalf (e.1 / 4) == h)
  b.each l (fun b e => b.sprAbort (e.1 / 4) (e.1 % 4) 5 true)

/-- Notices that waited for a reset exit go out. -/
def Box.sprSendNotices (b : Box) : Box :=
  let l := b.spr.notices
  ({ b with spr := { b.spr with notices := [] } }).each l (fun b e => b.sprNotice e.1 e.2.1 e.2.2)

/-- A commit applied a new definition of group n (R377). -/
def Box.sprCommit (b : Box) (n : Nat) : Box :=
  let opens := (upTo 4).filter (fun j => b.get .sprGrpSlotState n j == slOpen)
  let b := b.each (upTo 4) (fun b j => (b.setSprSlot n j (fun _ => {})).put .sprGrpSlotState slFree n j)
  (b.bump .sprGrpGenDiscard n (by_ := opens.length)).put .sprGrpBase (b.get .sprGrpFirstSeq n) n

/-- Whether a span overlaps a baton, stored or on the bridge. -/
def overlaps (base log : Nat) (l : List Baton) : Bool :=
  l.any (fun x => decide (x.b * 2 ^ x.l < base + 2 ^ log) && decide (base < (x.b + 1) * 2 ^ x.l))

/-- Combine stored batons as far as they go, at most `n` steps (R345 to R347). -/
def sprClimb (g : Grp) (nelem home : Nat) : Nat → List Baton → List Baton
  | 0, l => l
  | n + 1, l =>
    match formable g.ranks home l with
    | none => l
    | some (x, none) => sprClimb g nelem home n (l.map (fun y => if y = x then { x with b := x.b / 2, l := x.l + 1 } else y))
    | some (x, some y) =>
      let z : Baton := { x with b := x.b / 2, l := x.l + 1, elems := combineElems g nelem 0 x.elems y.elems }
      sprClimb g nelem home n (((l.erase x).erase y) ++ [z])

/-- The result of a sequence whose root the home reducer holds: one conversion, copies, completion (R381, R382). -/
def Box.sprFinish (b : Box) (n j : Nat) : Box :=
  let g := b.sprGrp n
  let x := b.sprSlot n j
  match x.batons.find? (fun y => y.b == 0 && y.l == logP g.ranks && y.place == 0) with
  | none => b
  | some r =>
    let codes := (decElems g.accF x.nelem r.elems).map (fun v => (encodeNum g.fin .near v).raw)
    let pay := leBytes (x.nelem * fmtBits g.fin / 8) (packCodes g.fin codes)
    let b := b.sprCopies n opSprintResult 2 x.seq (b.sprHdr n 0 pay.length g.ranks 0) pay
    let (v, b) := b.fresh
    let b := b.monEvent (n % 2) 3 n (v % 2 ^ 31)
    let b := ((b.setSprSlot n j (fun x => { x with batons := [] })).put .sprGrpSlotState slDone n j).bump .sprGrpDone n
    b.sprMoveBase n

/-- The home reducer stores a baton in a line, combines, and sends the result of an all-reduce at its root; no line free
aborts the sequence with cause 2 (R381, R383). -/
def Box.sprStore (b : Box) (n j bb l : Nat) (elems : List Nat) : Box :=
  if b.get .sprGrpLines n ≤ b.sprHeldLines n then b.sprAbort n j 2
  else
    let home := b.homeHalf n
    let x : Baton := ⟨bb, l, elems, 0, 0, home, 0, 0, 0⟩
    let b := b.setSprSlot n j (fun s => { s with batons := sprClimb (b.sprGrp n) s.nelem home 64 (s.batons ++ [x]) })
    if b.sprVote n then b else b.sprFinish n j

/-- Check 4: the sequence is in the window, its slot FREE or OPEN. A vote group's window is the slot that its commit lap
picks, which a closed vote leaves to the next (DEDUCED, log 131). -/
def Box.sprWindow (b : Box) (n seq : Nat) : Bool :=
  let j := seq % 4
  let st := b.get .sprGrpSlotState n j
  if b.sprVote n then decide (st = slFree) || (st == slOpen && (b.sprSlot n j).seq == seq)
    || (decide (2 ≤ st) && (b.sprSlot n j).seq != seq)
  else decide ((seq + 2 ^ 32 - b.get .sprGrpBase n) % 2 ^ 32 ≤ 3) && decide (st ≤ slOpen)

/-- A slot opens for a sequence. -/
def Box.sprOpen (b : Box) (n seq nelem : Nat) : Box :=
  if b.get .sprGrpSlotState n (seq % 4) = slOpen then b
  else (b.setSprSlot n (seq % 4) (fun _ => ⟨seq, nelem, []⟩)).put .sprGrpSlotState slOpen n (seq % 4)

/-- The first check of R379 that a contribution fails, under the definition in force at its receive stamp (R77). -/
def Box.sprFails (b v : Box) (lane : Nat) (fr : List Byte) (p : Parsed) : Option Nat :=
  let n := p.group
  let j := p.seq % 4
  let off := (p.kfh.getD 0) + 32
  let raw := hdrAt fr ((p.kfh.getD 0) + 16) 16
  let h := shdr raw
  let pay := (fr.drop off).take h.nbytes
  let g := v.sprGrp n
  let size := fmtBits h.fmt / 8
  let opened := b.get .sprGrpSlotState n j == slOpen
  if endOf fr < off ∨ !v.sprValid n ∨ h.stat ≠ 0 ∨ endOf fr < off + h.nbytes ∨ h.check ≠ sprCheck p.k raw pay then some 1
  else if !(v.sprPorts n).contains (portOf lane) then some 2
  else if h.gen ≠ v.get .sprGrpGen n then some 3
  else if v.get .sprGrpGen n ≠ b.get .sprGrpGen n ∨ !b.sprWindow n p.seq then some 4
  else if h.fmt ≠ (if 0 < h.log then g.accF else g.fin) ∨ h.nbytes % size ≠ 0 ∨ v.get .sprGrpNelemMax n < h.nbytes / size
    ∨ (opened && (b.sprSlot n j).nelem != h.nbytes / size) ∨ !lenFits fr off h.nbytes then some 5
  else if h.base % 2 ^ h.log ≠ 0 ∨ g.ranks ≤ h.base ∨ logP g.ranks < h.log then some 6
  else if opened && overlaps h.base h.log (b.sprSlot n j).batons then some 7
  else none

/-- Elements of an accepted contribution; an empty vote counts as 0. -/
def Box.sprElems (b : Box) (n : Nat) (h : SHdr) (pay : List Byte) : List Nat :=
  let g := b.sprGrp n
  let e := contribElems g h.fmt (h.nbytes / (fmtBits h.fmt / 8)) false pay
  if b.sprVote n ∧ e = [] then [0] else e

/-- A contribution that the reducer of its half takes from its input: dropped and counted (R372, R379, R607), stored by the
home reducer, or put on the bridge by the other one (R376). -/
def Box.sprTake (b : Box) (f s stamp : Nat) (fr : List Byte) : Box :=
  let p := b.parse fr
  match b.rxColour f s with
  | none => b
  | some w =>
    let l := laneOf f w
    let v := b.asOf stamp
    if p.udp.isSome ∨ 256 ≤ p.group ∨ !v.ownFeid p.feid ∨ p.ver ≠ 1 ∨ p.kRung ≠ 1 then b.bump .sprDropNogrp
    else if b.expelledSelf then b.bump .marSelfDrop
    else match b.sprFails v l fr p with
      | some c =>
        let b := b.bump .sprGrpDrop p.group c
        if [1, 5, 6].contains c then b.scorePort (portOf l) 6 else b
      | none =>
        let n := p.group
        let j := p.seq % 4
        let h := shdr (hdrAt fr ((p.kfh.getD 0) + 16) 16)
        let elems := b.sprElems n h ((fr.drop ((p.kfh.getD 0) + 32)).take h.nbytes)
        let b := b.sprOpen n p.seq (h.nbytes / (fmtBits h.fmt / 8))
        let bb := h.base / 2 ^ h.log
        if halfOf l = b.homeHalf n then b.sprStore n j bb h.log elems
        else
          let x : Baton := ⟨bb, h.log, elems, 0, 0, halfOf l, 1, 0, 0⟩
          let b := (b.setSprSlot n j (fun s => { s with batons := s.batons ++ [x] })).bump .sprXhalfIn
          let q := b.spr.bridge.at (b.homeHalf n) [] ++ [(4 * n + j, p.seq, bb, h.log)]
          { b with spr := { b.spr with bridge := b.spr.bridge.put (b.homeHalf n) q } }

/-- The oldest contribution on the bridge toward a half reaches its reducer; one whose sequence has ended is gone. -/
def Box.sprBridge (b : Box) (h : Nat) : Box :=
  match b.spr.bridge.at h [] with
  | [] => b
  | (k, seq, bb, l) :: t =>
    let b := { b with spr := { b.spr with bridge := b.spr.bridge.put h t } }
    let n := k / 4
    let j := k % 4
    let x := b.sprSlot n j
    if b.get .sprGrpSlotState n j ≠ slOpen ∨ x.seq ≠ seq then b
    else match x.batons.find? (fun y => y.b == bb && y.l == l && y.place == 1) with
      | none => b
      | some y => (b.setSprSlot n j (fun s => { s with batons := s.batons.erase y })).sprStore n j bb l y.elems

/-! ### The input queue (R380) -/

/-- A half's input queue, and its room. -/
def Box.sprInq (b : Box) (h : Nat) : List (Nat × Nat × List Byte) := b.spr.inq.at h []
@[inherit_doc Box.sprInq] def Box.sprRoom (b : Box) (h : Nat) : Bool := decide ((b.sprInq h).length < 2048)
@[inherit_doc Box.sprInq] def Box.setSprInq (b : Box) (h : Nat) (q : List (Nat × Nat × List Byte)) : Box :=
  { b with spr := { b.spr with inq := b.spr.inq.put h q } }

/-- The receive lane electronics hand a contribution to the reducer of their half: false when the queue is full and the
lane does not accept it. A stopped reducer takes nothing, and the contribution is lost. -/
def Box.sprArrive (b : Box) (f s stamp : Nat) (fr : List Byte) : Bool × Box :=
  let h := halfOf s
  if !b.sprRuns h then (true, b)
  else if b.sprRoom h then (true, b.setSprInq h (b.sprInq h ++ [(phys f s, stamp, fr)]))
  else (false, b.bump .sprOverrun h)

/-- The receive stamp of a frame that a physical lane has just received (R50). -/
def Box.rxStamp (b : Box) (f s : Nat) : Nat := b.stamp - b.get .prtLanePfRxdly f s

/-- The reducer takes a contribution: the one that waits in its queue, else one that arrives now. On a lane that is not
in KL-FEC mode the frame is the pipeline's, which drops it with cause 7 (R169). -/
def Box.sprContrib (b : Box) (f s : Nat) (fr : List Byte) : Box :=
  let h := halfOf s
  let p := b.parse fr
  match (b.sprInq h).find? (fun e => e.1 == phys f s && e.2.2 == fr) with
  | some e => (b.setSprInq h ((b.sprInq h).erase e)).sprTake f s e.2.1 fr
  | none =>
    if !b.lnRx f s ∨ !p.hasK ∨ p.op ≠ opSprint then b
    else if !b.klRx f s then
      match b.rxColour f s with
      | some w => b.bump .fwdDrop (b.pipeOf (laneOf f w)) 7
      | none => b
    else if !b.sprRuns h then b
    else if b.sprRoom h then b.sprTake f s (b.rxStamp f s) fr
    else b.bump .sprOverrun h

/-! ### Votes (R70, R384, R385) -/

/-- This module casts its vote in a vote group for a commit lap: rank SELF_RANK of the own tree, or a contribution to the
folding leaf. A rank that is none of the group's, or that a partner's span covers, leaves the own vote out. -/
def Box.castVote (b : Box) (g lap : Nat) (ready : Bool) : Box :=
  if !b.voteGrpOk g then b
  else
    let seq := lap % 2 ^ 32
    let rank := b.get .sprGrpSelfRank g
    if b.sprRoot g then
      if !b.sprWindow g seq ∨ b.get .sprGrpRanks g ≤ rank then b
      else
        let b := b.sprOpen g seq 1
        if overlaps rank 0 (b.sprSlot g (seq % 4)).batons then b else b.sprStore g (seq % 4) rank 0 [flag ready]
    else
      let h : SHdr := ⟨b.get .sprGrpGen g, rank, 0, fInt8, 0, 1, 0, 0, 0⟩
      let (e, b) := b.fresh
      let (bytes, b) := b.sprFrame (kfhOf 1 opSprint g seq 0 (b.get .sprGrpRfeid g) 0 (e % 65536)) h [BitVec.ofNat 8 (flag ready)]
      b.sprOut (2 * b.get .sprGrpSelfPort g + b.homeHalf g) 1 bytes

/-- The minimum of the ranks that a list of batons covers, 0 when one is missing (R71, R384). -/
def voteMin (ranks : Nat) (l : List Baton) : Nat :=
  let covered := (l.map (fun x => min (2 ^ x.l) (ranks - x.b * 2 ^ x.l))).sum
  let m := (l.map (fun x => toSigned 8 (x.elems.headD 0))).foldl min 127
  ofSigned 8 (if covered < ranks then min m 0 else m)

/-- The tree of a vote group is closed for a commit lap: the outcome is multicast on rung 3 (R384). None when this
module does not finish the tree, or the sequence is closed. -/
def Box.closeVote (b : Box) (g lap : Nat) : Option Nat × Box :=
  let seq := lap % 2 ^ 32
  let j := seq % 4
  if !b.voteGrpOk g ∨ !b.sprRoot g ∨ !b.sprWindow g seq then (none, b)
  else
    let b := b.sprOpen g seq 1
    let v := voteMin (b.get .sprGrpRanks g) ((b.sprSlot g j).batons.filter (·.place == 0))
    let h := { b.sprHdr g 2 1 (b.get .sprGrpRanks g) 0 with fmt := fInt8 }
    let b := b.sprCopies g opCtrl 3 seq h [BitVec.ofNat 8 v]
    (some v, ((b.setSprSlot g j (fun x => { x with batons := [] })).put .sprGrpSlotState slDone g j).bump .sprGrpDone g)

/-! ### Keepalives -/

/-- A partner's KEEPALIVE on a KL-FEC lane: dropped when it is not addressed to the module, else its time and STATE hold
for the lane. -/
def Box.keepaliveRx (b : Box) (f s : Nat) (fr : List Byte) : Box :=
  let p := b.parse fr
  if !b.lnRx f s ∨ !p.hasK ∨ p.op ≠ opKeepalive then b
  else if !b.klRx f s then
    match b.rxColour f s with
    | some w => b.bump .fwdDrop (b.pipeOf (laneOf f w)) 7
    | none => b
  else if !b.sprRuns (halfOf s) then b
  else
    let v := b.asOf (b.rxStamp f s)
    if p.udp.isSome ∨ 256 ≤ p.group ∨ p.ver ≠ 1 ∨ p.kRung ≠ 3 ∨ !(p.feid == 2 ^ 32 - 1 || v.ownFeid p.feid) then
      b.bump .sprDropNogrp
    else
      let st := bits (hdrAt fr ((p.kfh.getD 0) + 16) 16) 95 88
      b.setLane f s (fun x => { x with kaNs := some b.ns, kaState := st })

/-- Send a KEEPALIVE on an UP KL-FEC lane of a half whose reducer runs (DEDUCED, log 104). -/
def Box.keepaliveTx (b : Box) (f s : Nat) : Box :=
  if b.klUp f s ∧ b.sprRuns (halfOf s) then
    let n := (b.lane f s).kaSent
    let pay := beBytes 16 (b.sec.plid * 2 ^ 96 + n % 2 ^ 32 * 2 ^ 32)
    let (e, b) := b.fresh
    let (l, b) := b.kframe (kfhOf 3 opKeepalive 0 0 0 (2 ^ 32 - 1) 0 (e % 65536)) pay
    (b.setLane f s (fun x => { x with kaSent := n + 1 })).emit (.keepalive f s (l ++ fcs l))
  else b

/-- No KEEPALIVE for KA_LOSS_NS on an UP KL-FEC lane: the lane is not sprint-present, the loss is counted and scored. Only
a stream that stops is lost. -/
def Box.keepaliveLoss (b : Box) (f s : Nat) : Box :=
  if !b.klUp f s ∨ (b.lane f s).kaNs.isNone then b
  else
    let b := b.setLane f s (fun x => { x with kaNs := none })
    match b.rxColour f s with
    | some w => (b.bump .sprLaneKaLost (laneOf f w)).scoreLane (laneOf f w) 4
    | none => b

/-! ### The commands -/

/-- A sprint contribution reaches the reducer of the lane's half. -/
def execSprintContrib (f : Fibre) (sl : Slot) (frame : List Byte) (s : State) : Host.Outcome State Fault Refusal :=
  act (fun b => b.sprContrib f sl frame) s

/-- A contribution on the sprint bridge reaches the home reducer of half `h`. -/
def execSprintBridgeContrib (h : Half) (s : State) : Host.Outcome State Fault Refusal := act (fun b => b.sprBridge h) s

/-- TIMEOUT_US of a sequence passes; a vote ends at its close alone. -/
def execSprintTimeout (n : Fin 256) (j : Fin 4) (s : State) : Host.Outcome State Fault Refusal :=
  act (fun b => if b.sprVote n then b else b.sprAbort n j 1) s

/-- A partner's KEEPALIVE. -/
def execKeepalive (f : Fibre) (sl : Slot) (frame : List Byte) (s : State) : Host.Outcome State Fault Refusal :=
  act (fun b => b.keepaliveRx f sl frame) s

/-- KA_TX_NS has passed on a lane. -/
def execKeepaliveTx (f : Fibre) (sl : Slot) (s : State) : Host.Outcome State Fault Refusal :=
  act (fun b => b.keepaliveTx f sl) s

/-- KA_LOSS_NS has passed without a KEEPALIVE. -/
def execKeepaliveLoss (f : Fibre) (sl : Slot) (s : State) : Host.Outcome State Fault Refusal :=
  act (fun b => b.keepaliveLoss f sl) s

end Sys2Proof.Machine
end

