-- ==== Sys2Proof/Machine/Embed.lean ====
section
/-!
DEFINITION. The embedding service: tables and shard entries, rows and the copy a reader sees, gathers, updates, closing,
committing and folding a step (R396 to R428).
-/
namespace Sys2Proof.Machine

/-! ### Tables, shards, rows (R396 to R400) -/

/-- A table definition. -/
structure Tbl where
  valid : Bool
  sr : Bool
  opt : Nat
  f : Nat
  mx : Bool
  dim : Nat
  deriving DecidableEq, Repr

/-- The definition of table t. -/
def Box.tbl (b : Box) (t : Nat) : Tbl :=
  ⟨b.bit .embTblCtrl 0 t, b.bit .embTblCtrl 1 t, b.get .embTblCtrl t / 4 % 4, b.get .embTblFmt t % 16, b.bit .embTblFmt 4 t,
    b.get .embTblDim t⟩

/-- Row formats (R399): floating-point formats, with MX scaling where R308 has it, and INT8 with MX scaling alone. -/
def rowFmt (f : Nat) (mx : Bool) : Bool := if mx then mxOk f else decide (f ≤ 7)

/-- Whether DIM suits the packing of a format (R398). -/
def dimOk (f : Nat) (mx : Bool) (dim : Nat) : Bool :=
  decide (1 ≤ dim) && decide (dim ≤ 1024) && !((f == 5 || f == 6) && dim % 4 != 0) && !(f == 7 && dim % 2 != 0)
    && !(mx && dim % 32 != 0)

/-- Bytes of elements with their scales, of the inline state, of a slot, and of the external state. -/
def Tbl.rowBytes (x : Tbl) : Nat := arrayBytes x.f x.dim + if x.mx then x.dim / 32 else 0
@[inherit_doc Tbl.rowBytes] def Tbl.inl (x : Tbl) : Nat := if 2 ≤ x.opt then 4 else 0
@[inherit_doc Tbl.rowBytes] def Tbl.slot (x : Tbl) : Nat := (8 + x.rowBytes + x.inl + 3) / 4 * 4
@[inherit_doc Tbl.rowBytes] def Tbl.ext (x : Tbl) : Nat := if x.opt % 2 = 1 then 4 * x.dim else 0

/-- Bytes of a staged entry (R416). -/
def Tbl.staged (x : Tbl) : Nat := 64 * ((32 + max (8 * x.dim) (x.slot + x.ext) + 63) / 64)

/-- The valid shard entries, and the one of a table that holds a row. -/
def Box.embEntries (b : Box) : List Nat :=
  b.regs.filterMap (fun e => if e.1.reg = .embMapCtrl ∧ bitAt e.2 0 then some e.1.i else none)
@[inherit_doc Box.embEntries] def Box.embEntry (b : Box) (t r : Nat) : Option Nat :=
  b.embEntries.find? (fun e =>
    b.get .embMapTable e == t && decide (b.get .embMapRowLo e ≤ r) && decide (r < b.get .embMapRowHi e))

/-- The half that owns a row, and its local index there (R397). -/
def Box.rowHalf (b : Box) (t r : Nat) : Nat := bits r (b.get .embTblHalfBit t) (b.get .embTblHalfBit t)
@[inherit_doc Box.rowHalf] def Box.rowIdx (b : Box) (t e r : Nat) : Nat :=
  let hb := b.get .embTblHalfBit t
  (r - b.get .embMapRowLo e) / 2 ^ (hb + 1) * 2 ^ hb + r % 2 ^ hb

/-- Local indices of an entry per half. -/
def Box.rowCount (b : Box) (e : Nat) : Nat := (b.get .embMapRowHi e - b.get .embMapRowLo e) / 2

/-- Module-wide offset of a slot and of an external state record, by local index and OPTR. -/
def Box.slotOff (b : Box) (t e h k : Nat) : Nat :=
  h * halfBytes + rowSpace + b.get (if h = 0 then .embMapBaseN else .embMapBaseS) e + k * (b.tbl t).slot
@[inherit_doc Box.slotOff] def Box.extOff (b : Box) (t e h optr : Nat) : Nat :=
  h * halfBytes + rowSpace + b.get (if h = 0 then .embMapStateN else .embMapStateS) e + optr * (b.tbl t).dim * 4

/-- The CRC-16 of R399. -/
def crc16 (l : List Byte) : Nat := l.foldl (fun c x => crcMsb 0x8BB7 16 x.toNat 8 c) 0

/-- Fields of a slot's header: OPTR, CHK, PEND, VER. -/
def slotHdr (slot : List Byte) : Nat := leNat (slot.take 8)
@[inherit_doc slotHdr] def slotChk (slot : List Byte) : Nat := bits (slotHdr slot) 47 32
@[inherit_doc slotHdr] def slotPend (slot : List Byte) (k : Nat) : Bool := bitAt (slotHdr slot) (48 + k)
@[inherit_doc slotHdr] def slotOptr (slot : List Byte) : Nat := slotHdr slot % 2 ^ 32

/-- CHK of a slot: over it with CHK and PEND read as 0. -/
def slotCrc (slot : List Byte) : Nat :=
  crc16 (leBytes 8 (slotHdr slot / 2 ^ 50 * 2 ^ 50 + slotOptr slot) ++ slot.drop 8)

/-- A slot from its parts, with CHK. -/
def mkSlot (ver pend optr : Nat) (body : List Byte) : List Byte :=
  let s := leBytes 8 (ver % 2 ^ 14 * 2 ^ 50 + optr % 2 ^ 32) ++ body
  leBytes 8 (ver % 2 ^ 14 * 2 ^ 50 + pend % 4 * 2 ^ 48 + slotCrc s * 2 ^ 32 + optr % 2 ^ 32) ++ body

/-- FILL of an entry on a half is complete: every slot is written, and the count shows it (R400; DEDUCED, log 107). -/
def Box.fillDone (b : Box) (e h : Nat) : Box :=
  let t := b.get .embMapTable e
  let x := b.tbl t
  let n := b.rowCount e
  if b.get .embMapCtrl e % 4 = 3 ∧ b.get .embMapFilled e h < n then
    let b := b.memZero (b.slotOff t e h 0) (n * x.slot)
    let b := if x.ext = 0 then b else b.memZero (b.extOff t e h 0) (n * x.ext)
    let b := b.each (upTo n) (fun b k =>
      b.poke (memAddr (b.slotOff t e h k)) (mkSlot 0 0 k (List.replicate (x.slot - 8) 0)))
    b.put .embMapFilled n e h
  else b

/-- Elements of a slot, and its inline state word. -/
def rowNums (x : Tbl) (slot : List Byte) : List Num :=
  let codes := unpackCodes x.f x.dim (leNat ((slot.drop 8).take (arrayBytes x.f x.dim)))
  if x.mx then
    let sc := slot.drop (8 + arrayBytes x.f x.dim)
    codes.zipIdx.map (fun e => mxElem x.f ((sc.getD (e.2 / 32) 0).toNat) e.1)
  else codes.map (decodeNum x.f)
@[inherit_doc rowNums] def rowInl (x : Tbl) (slot : List Byte) : Nat := leNat ((slot.drop (8 + x.rowBytes)).take 4)

/-- Bytes of elements with scales from rounded values (R310, R312). -/
def rowEnc (f : Nat) (mx : Bool) (l : List (Num × Rounding)) : List Byte :=
  if mx then
    let bl := (upTo ((l.length + 31) / 32)).map (fun k => mxBlock f ((l.drop (32 * k)).take 32))
    leBytes (arrayBytes f l.length) (packCodes f (bl.flatMap (·.2))) ++ bl.map (fun z => BitVec.ofNat 8 z.1)
  else leBytes (arrayBytes f l.length) (packCodes f (l.map (fun e => (encodeNum f e.2 e.1).raw)))

/-! ### The copy a reader sees (R401 to R404) -/

/-- States of a table (R420) and of a bank (R401). -/
def tbOff : Nat := 0
@[inherit_doc tbOff] def tbOpen : Nat := 1
@[inherit_doc tbOff] def tbClosing : Nat := 2
@[inherit_doc tbOff] def tbClosed : Nat := 3
@[inherit_doc tbOff] def tbFailed : Nat := 4
@[inherit_doc tbOff] def tbDiscarding : Nat := 5
@[inherit_doc tbOff] def tbWait : Nat := 6
@[inherit_doc tbOff] def bkFree : Nat := 0
@[inherit_doc tbOff] def bkStaging : Nat := 1
@[inherit_doc tbOff] def bkCommitted : Nat := 2
@[inherit_doc tbOff] def bkFolding : Nat := 3
@[inherit_doc tbOff] def bkDraining : Nat := 4
@[inherit_doc tbOff] def bkDiscarding : Nat := 5

/-- A table's and a bank's state. -/
def Box.tbState (b : Box) (t : Nat) : Nat := b.get .embTblState t
@[inherit_doc Box.tbState] def Box.bkState (b : Box) (t k : Nat) : Nat := b.get .embTblBankState t k

/-- Whether a view stamp sees a bank (R402). -/
def Box.bankSeen (b : Box) (t k view : Nat) : Bool :=
  decide (bkCommitted ≤ b.bkState t k) && decide (b.bkState t k ≤ bkDraining)
    && decide (b.lapStart (b.get .embTblBankClap t k) * 65536 ≤ view)

/-- The newest bank that a view sees. -/
def Box.newestBank (b : Box) (t view : Nat) (l : List Nat) : Option Nat :=
  match l.filter (fun k => b.bankSeen t k view) with
  | [] => none
  | [k] => some k
  | k :: k' :: _ => some (if b.get .embTblBankStep t k' < b.get .embTblBankStep t k then k else k')

/-- STEP of a response: that of the newest bank in the view, or the last folded one (R405). -/
def Box.viewStep (b : Box) (t view : Nat) : Nat :=
  match b.newestBank t view [0, 1] with
  | some k => b.get .embTblBankStep t k
  | none => b.emb.folded.at t 0

/-- The staged entry of a row in a bank. -/
def Box.stagedOf (b : Box) (t k r : Nat) : Option Staged :=
  b.emb.staged.find? (fun x => x.table == t && x.bank == k && x.row == r)

/-- An unreadable row (R404): copy 0 the home copy, k + 1 that of bank k. -/
def Box.rowBad (b : Box) (t r copy : Nat) : Box :=
  (b.bump .embRowBad).raise (b.rowHalf t r) .embRowBad t sevError 0 (t * 2 ^ 50 + copy * 2 ^ 48 + r)

/-- Read a memory range of the service whole (R403); none on a memory error. -/
def Box.embRead (b : Box) (m : Mem) (off len : Nat) : Option (List Byte) × Box :=
  if len = 0 then (some [], b)
  else if !b.memReady (memHalf off) then (none, b)
  else match b.readBursts (off / 32) 0x06 [] (burstsOf off len) with
    | (.ok, b) => (some (b.peek m (memAddr off) len), b)
    | (_, b) => (none, b)

/-- Read a row at a view: slot and external state, none where it is unreadable. `bad` names rows whose copy meets an
uncorrectable memory error. -/
def Box.readRow (b : Box) (m : Mem) (t e r view : Nat) (bad : List Nat) : Option (List Byte × List Byte) × Box :=
  let h := b.rowHalf t r
  let x := b.tbl t
  match b.embRead m (b.slotOff t e h (b.rowIdx t e r)) x.slot with
  | (none, b) => (none, b.rowBad t r 0)
  | (some slot, b) =>
    if slotChk slot ≠ slotCrc slot then (none, b.rowBad t r 0)
    else match b.newestBank t view ([0, 1].filter (slotPend slot)) with
      | some k =>
        match b.stagedOf t k r with
        | some s => if bad.contains r then (none, b.rowBad t r (k + 1)) else (s.done, b)
        | none => (none, b.rowBad t r (k + 1))
      | none =>
        if bad.contains r then (none, b.rowBad t r 0)
        else match b.embRead m (b.extOff t e h (slotOptr slot)) x.ext with
          | (some ext, b) => (some (slot, ext), b)
          | (none, b) => (none, b.rowBad t r 0)

/-! ### FP32 arithmetic of the service (R408, R418) -/

/-- A value rounded to FP32, and the operations that round once. -/
def r32 (v : Num) : Num := decodeNum fFp32 (encodeNum fFp32 .near v).raw
@[inherit_doc r32] def add32 (a c : Num) : Num := r32 (a.add c)
@[inherit_doc r32] def sub32 (a c : Num) : Num := r32 (a.add c.neg)
@[inherit_doc r32] def mul32 (a c : Num) : Num := r32 (a.mul c)

/-- The largest number whose square is at most `n`, found bit by bit. -/
def isqrt (n : Nat) : Nat → Nat → Nat
  | 0, r => r
  | k + 1, r => isqrt n k (if (r + 2 ^ k) * (r + 2 ^ k) ≤ n then r + 2 ^ k else r)

/-- The square root and the quotient, rounded to FP32 (IEEE 754). -/
def sqrt32 : Num → Num
  | .nan => .nan
  | .inf neg => if neg then .nan else .inf false
  | .fin neg m e =>
    if m = 0 then .fin neg 0 e
    else if neg then .nan
    else
      let k := 64 + (e % 2).toNat
      let n := m * 2 ^ k
      let r := isqrt n ((Nat.log2 n) / 2 + 1) 0
      r32 (.fin false (2 * r + flag (r * r != n)) ((e - k) / 2 - 1))
@[inherit_doc sqrt32] def div32 : Num → Num → Num
  | .nan, _ | _, .nan => .nan
  | .inf _, .inf _ => .nan
  | .inf a, .fin n _ _ => .inf (a != n)
  | .fin n _ e, .inf a => .fin (n != a) 0 e
  | .fin na ma ea, .fin nb mb eb =>
    if mb = 0 then (if ma = 0 then .nan else .inf (na != nb))
    else
      let q := ma * 2 ^ 64 / mb
      r32 (.fin (na != nb) (2 * q + flag (ma * 2 ^ 64 % mb != 0)) (ea - eb - 65))

/-- One level of the canonical tree over list positions: neighbours combined, a last one alone carried up (R346). -/
def pairUp {α : Type} (g : α → α → α) : List α → List α
  | a :: c :: t => g a c :: pairUp g t
  | l => l

/-- The root of the canonical tree of a list, none of an empty one. -/
def treeFold {α : Type} (g : α → α → α) : Nat → List α → Option α
  | 0, l => l.head?
  | n + 1, l => treeFold g n (pairUp g l)

/-- Sum of vectors of FP32 values, element by element. -/
def vecAdd (l r : List Num) : List Num := (l.zip r).map (fun e => add32 e.1 e.2)

/-! ### Frames (R405, R414) -/

/-- The embedding header, CHECK 0 until it is computed. -/
structure EHdr where
  table : Nat
  mode : Nat
  fmt : Nat
  mxs : Bool
  stat : Nat
  cause : Nat
  nelem : Nat
  nids : Nat
  errpos : Nat
  rfeid : Nat
  step : Nat
  check : Nat
  deriving DecidableEq, Repr

/-- Its fields. -/
def ehdr (x : Nat) : EHdr :=
  ⟨bits x 191 186, bits x 185 184, bits x 183 180, bitAt x 179, bits x 178 178, bits x 177 170, bits x 169 159, bits x 158 150,
    bits x 149 142, bits x 127 96, bits x 95 64, bits x 31 0⟩

/-- Its number. -/
def EHdr.num (h : EHdr) : Nat :=
  h.table * 2 ^ 186 + h.mode * 2 ^ 184 + h.fmt * 2 ^ 180 + flag h.mxs * 2 ^ 179 + h.stat * 2 ^ 178 + h.cause * 2 ^ 170
    + h.nelem * 2 ^ 159 + h.nids * 2 ^ 150 + h.errpos * 2 ^ 142 + h.rfeid * 2 ^ 96 + h.step * 2 ^ 64 + h.check

/-- Hand a built frame to the pipeline of a half; without cells it waits. -/
def Box.embPush (b : Box) (x : Nat × Nat × List Byte) : Box :=
  match b.build x.1 (b.builtFrame x.1 x.2.1 alRelay x.2.2) 1 none with
  | (some d, b) => b.forwardBuilt x.1 d
  | (none, b) => { b with emb := { b.emb with sends := b.emb.sends ++ [x] } }

/-- Frames that wait try again, in order. -/
def Box.embRetry (b : Box) : Box :=
  let l := b.emb.sends
  ({ b with emb := { b.emb with sends := [] } }).each l Box.embPush

/-- Send a GATHER_RSP. GROUP, CHUNK and ENTROPY are not stated: free values (DESIGN CHOICE, log 105). -/
def Box.embRespond (b : Box) (stamp half seq rfeid : Nat) (h : EHdr) (payload : List Byte) : Box :=
  let (e, b) := b.fresh
  let k := kfhOf 2 opGatherRsp (e % 2 ^ 14) seq (e / 2 ^ 14 % 2 ^ 16) rfeid 0 (e / 2 ^ 30 % 2 ^ 16)
  let (l, b) := b.kframe k (beBytes 24 ({ h with check := checkOf k h.num payload }).num ++ payload)
  ((b.monEvent half 4 h.table (((b.stamp : Int) - stamp) / 65536)).bump .embTblGathers h.table).embPush (half, 2, l)

/-- An error response (R409). -/
def Box.embError (b : Box) (stamp half seq : Nat) (q : EHdr) (step cause pos : Nat) : Box :=
  let b := b.bump .embTblGatherErr q.table cause
  b.embRespond stamp half seq q.rfeid
    { q with mode := 0, stat := 1, cause := cause, nelem := 0, nids := 0, errpos := pos, rfeid := 0, step := step, check := 0 } []

/-! ### GATHER (R406 to R410) -/

/-- The row ID at a position of a payload of records of `len` bytes. -/
def rowId (pay : List Byte) (len j : Nat) : Nat := beNat ((pay.drop (len * j)).take 8) % 2 ^ 48

/-- Whether a half serves rows of an entry (R409, R427). -/
def Box.rowLost (b : Box) (e h : Nat) : Bool := b.darkHalf h || b.halfReset h || b.emb.stale.contains (e, h)

/-- Whether FILL has yet to write a row (R400). -/
def Box.rowUnfilled (b : Box) (t e r : Nat) : Bool :=
  b.bit .embMapCtrl 1 e && decide (b.get .embMapFilled e (b.rowHalf t r) ≤ b.rowIdx t e r)

/-- Read the rows of a gather in order: leaves with their halves, or the position of the first unreadable one. -/
def Box.readLeaves (b : Box) (m : Mem) (t view : Nat) (bad : List Nat) :
    List (Nat × Nat × Nat × Option Num) → Except Nat (List (Nat × List Num)) × Box
  | [] => (.ok [], b)
  | (j, e, r, w) :: rest =>
    match b.readRow m t e r view bad with
    | (none, b) => (.error j, b)
    | (some (slot, _), b) =>
      let v := (rowNums (b.tbl t) slot).map r32
      let leaf := match w with | some w => v.map (mul32 · w) | none => v
      match b.readLeaves m t view bad rest with
      | (.ok l, b) => (.ok ((b.rowHalf t r, leaf) :: l), b)
      | r => r

/-- The response's payload from the module root (R408). -/
def poolOut (mode f : Nat) (mxs : Bool) (nids : Nat) (root : List Num) : List Byte :=
  let near (l : List Num) : List (Num × Rounding) := l.map (fun v => (v, .near))
  if mode = 1 then
    let prod := root.map (·.mul (recipFp32 nids))
    if mxs then rowEnc f true (near (prod.map r32)) else rowEnc f false (near prod)
  else rowEnc f mxs (near root)

/-- The receiving half has both partials: the root, and the response. -/
def Box.gatherEnd (b : Box) (x : Gather) : Box :=
  let dec (l : List Nat) : List Num := l.map (decodeNum fFp32)
  let (n, s) := if x.half = 0 then (x.own, x.other) else (x.other, x.own)
  let root := match n, s with
    | some l, some r => vecAdd (dec l) (dec r)
    | some l, none | none, some l => dec l
    | none, none => []
  let h : EHdr := ⟨x.table, 0, x.fmt, x.mxs, 0, 0, root.length, 0, 0, 0, x.step, 0⟩
  b.embRespond x.stamp x.half x.seq x.rfeid h (poolOut x.mode x.fmt x.mxs x.nids root)

/-- Serve a GATHER_REQ on a half (R407 to R410; DEDUCED, log 106). -/
def Box.gather (b : Box) (m : Mem) (half : Nat) (fr : Held) (bad : List Nat) : Box :=
  let p := b.parse fr.bytes
  let hn := kHeader fr.bytes p
  let q := ehdr hn
  let off := (p.kfh.getD 0) + 40
  let t := q.table
  let v := b.asOf fr.stamp
  let x := v.tbl t
  let want := q.nids * (if q.mode = 2 then 12 else 8)
  let fits := lenFits fr.bytes off want
  let pay := ((fr.bytes.take (endOf fr.bytes)).drop off).take (if fits then want else endOf fr.bytes)
  let ids := (upTo (min q.nids (pay.length / 8))).map (rowId pay 8)
  let view := fr.stamp
  if endOf fr.bytes < off ∨ q.check ≠ checkOf p.k hn pay then (b.bump .embCrcBad).scorePort (portOf fr.lane) 6
  else if !x.valid then b.embError fr.stamp half p.seq q 0 1 0
  else
    let step := b.viewStep t view
    let first (g : Nat → Bool) : Option Nat := (ids.zipIdx.find? (fun e => g e.1)).map (·.2)
    let ent (r : Nat) : Nat := (v.embEntry t r).getD 0
    match first (fun r => (v.embEntry t r).isNone) with
    | some j => b.embError fr.stamp half p.seq q step 2 j
    | none =>
      if q.nelem ≠ x.dim ∨ q.nids = 0 ∨ 256 < q.nids ∨ 2 < q.mode ∨ !rowFmt q.fmt q.mxs ∨ !dimOk q.fmt q.mxs x.dim ∨ !fits then
        b.embError fr.stamp half p.seq q step 3 0
      else if fr.stamp + b.get .embGatherToUs * 1000 * 65536 ≤ b.stamp then b.embError fr.stamp half p.seq q step 6 0
      else match first (fun r => b.rowLost (ent r) (v.rowHalf t r)) with
        | some j => b.embError fr.stamp half p.seq q step 5 j
        | none =>
          match first (fun r => b.rowUnfilled t (ent r) r) with
          | some j => b.embError fr.stamp half p.seq q step 7 j
          | none =>
            let wt (j : Nat) : Option Num :=
              if q.mode = 2 then some (decodeNum fFp32 (leNat ((pay.drop (8 * q.nids + 4 * j)).take 4))) else none
            match b.readLeaves m t view bad (ids.zipIdx.map (fun e => (e.2, ent e.1, e.1, wt e.2))) with
            | (.error j, b) => b.embError fr.stamp half p.seq q step 4 j
            | (.ok l, b) =>
              let part (h : Nat) : Option (List Nat) :=
                (treeFold vecAdd 9 ((l.filter (·.1 == h)).map (·.2))).map (·.map (fun v => (encodeNum fFp32 .near v).raw))
              let g : Gather := ⟨half, p.seq, q.rfeid, t, q.mode, q.fmt, q.mxs, fr.stamp, q.nids, step, part half, part (1 - half)⟩
              if g.other.isNone then b.gatherEnd g
              else { b with emb := { b.emb with gathers := b.emb.gathers ++ [g] } }

/-- A gather that waits, and the list without it. -/
def Box.waitingGather (b : Box) (seq rfeid : Nat) : Option (Gather × Box) :=
  (b.emb.gathers.find? (fun g => g.seq == seq && g.rfeid == rfeid)).map (fun g =>
    (g, { b with emb := { b.emb with gathers := b.emb.gathers.erase g } }))

/-- The other half's partial arrives. -/
def Box.gatherPartial (b : Box) (seq rfeid : Nat) : Box :=
  match b.waitingGather seq rfeid with
  | none => b
  | some (g, b) => b.gatherEnd g

/-- GATHER_TO_US has passed on a gather that waits. -/
def Box.gatherLate (b : Box) (seq rfeid : Nat) : Box :=
  match b.waitingGather seq rfeid with
  | none => b
  | some (g, b) =>
    b.embError g.stamp g.half seq ⟨g.table, 0, g.fmt, g.mxs, 0, 0, 0, 0, 0, rfeid, 0, 0⟩ g.step 6 0

/-! ### SCATTER-UPDATE (R411 to R416) -/

/-- Bytes of the staging pool that a half's entries use. -/
def Box.stageUsed (b : Box) (h : Nat) : Nat :=
  ((b.emb.staged.filter (·.half == h)).map (fun x => (b.tbl x.table).staged)).sum

/-- Show the pool's free space and the entries of a bank. -/
def Box.showStage (b : Box) (t k : Nat) : Box :=
  b.each [0, 1] (fun b h =>
    (b.put .embStageFreeKib (2064384 - (b.stageUsed h + 1023) / 1024) h).put .embTblBankEntries
      (b.emb.staged.filter (fun x => x.table == t && x.bank == k && x.half == h)).length t k h)

/-- Write PEND[k] of a row's home header (R399), as one byte of its slot. -/
def Box.putPend (b : Box) (m : Mem) (t r k : Nat) (v : Bool) : Box :=
  match b.embEntry t r with
  | none => b
  | some e =>
    let a := memAddr (b.slotOff t e (b.rowHalf t r) (b.rowIdx t e r)) + 6
    let x := b.peekNat m a 1
    b.poke a [BitVec.ofNat 8 (if v then Sys2Proof.setBit x k else clearBit x k)]

/-- The integer of a gradient element (R415), none when it is NaN or infinite. -/
def gradInt (gfrac : Nat) : Num → Option Nat
  | .fin neg m e =>
    let n := min (roundTo .near m (e + gfrac) 0) (2 ^ 63 - 1)
    some (ofSigned 64 (if neg then -(n : Int) else n))
  | _ => none

/-- One record of an update, applied to the staged entry of its row (R415). -/
def Box.stageRow (b : Box) (m : Mem) (t k r : Nat) (grad : Option (List Nat)) (row : List Byte) : Box :=
  match b.stagedOf t k r with
  | some x =>
    let acc := (x.acc.zip (grad.getD [])).map (fun e => (e.1 + e.2) % 2 ^ 64)
    { b with emb := { b.emb with staged := b.emb.staged.map (fun y => if y = x then { x with acc := acc } else y) } }
  | none =>
    let x : Staged := ⟨t, k, r, b.rowHalf t r, grad.getD [], if grad.isSome then none else some row, none⟩
    ({ b with emb := { b.emb with staged := b.emb.staged ++ [x] } }).putPend m t r k true

/-- The first cause of R413 that applies to an update, 0 for none. -/
def Box.updCause (b : Box) (q : EHdr) (seq : Nat) (fits : Bool) (rec_ : Nat) (ids : List Nat) (grads : List (List (Option Nat))) :
    Nat :=
  let t := q.table
  let x := b.tbl t
  let k := b.get .embTblStep t % 2
  let fresh := (ids.filter (fun r => (b.stagedOf t k r).isNone)).eraseDups
  let room (h : Nat) : Bool :=
    decide (b.stageUsed h + (fresh.filter (fun r => b.rowHalf t r == h)).length * x.staged ≤ 2016 * 2 ^ 20)
  let badHdr := q.nelem != x.dim || q.nids == 0 || decide (64 < q.nids) || decide (1 < q.mode) || decide (8192 < q.nids * rec_)
    || !fits || (if q.mode = 0 then decide (2 < q.fmt) || q.mxs else q.fmt != x.f || q.mxs != x.mx)
  let clash (r : Nat) : Bool :=
    if q.mode = 1 then (b.stagedOf t k r).isSome || decide (1 < ids.count r)
    else (b.stagedOf t k r).any (·.assign.isSome)
  if !x.valid then 1
  else if ids.any (fun r => (b.embEntry t r).isNone) then 2
  else if q.step ≠ b.get .embTblStep t ∨ b.tbState t ≠ tbOpen then 3
  else if badHdr then 4
  else if q.mode = 0 ∧ grads.any (·.any Option.isNone) then 5
  else if !room 0 ∨ !room 1 then 6
  else if b.emb.applied.contains (t, q.rfeid, seq) then 7
  else if ids.any clash then 8
  else 0

/-- Take a SCATTER_UPD: applied whole or not at all; its completion waits in `comps` (R413, R414). -/
def Box.scatter (b : Box) (m : Mem) (key half : Nat) (fr : Held) : Box :=
  let p := b.parse fr.bytes
  let hn := kHeader fr.bytes p
  let q := ehdr hn
  let off := (p.kfh.getD 0) + 40
  let t := q.table
  let x := b.tbl t
  let body := if q.mode = 0 then x.dim * fmtBits q.fmt / 8 else x.rowBytes
  let rec_ := 8 + body
  let want := q.nids * rec_
  let fits := lenFits fr.bytes off want
  let pay := ((fr.bytes.take (endOf fr.bytes)).drop off).take (if fits then want else endOf fr.bytes)
  if endOf fr.bytes < off ∨ q.check ≠ checkOf p.k hn pay then (b.bump .embCrcBad).scorePort (portOf fr.lane) 6
  else
    let ids := (upTo (min q.nids (pay.length / rec_))).map (rowId pay rec_)
    let elems (j : Nat) : List Byte := (pay.drop (rec_ * j + 8)).take body
    let grad (j : Nat) : List (Option Nat) :=
      (unpackCodes q.fmt x.dim (leNat (elems j))).map (fun c => gradInt (b.get .embTblGfrac t) (decodeNum q.fmt c))
    let js := upTo ids.length
    let c := b.updCause q p.seq fits rec_ ids (if q.mode = 0 then js.map grad else [])
    let b := if c = 0 then
        let k := b.get .embTblStep t % 2
        let b := b.each js (fun b j =>
          b.stageRow m t k (ids.getD j 0) (if q.mode = 0 then some ((grad j).map (·.getD 0)) else none) (elems j))
        let b := { b with emb := { b.emb with applied := b.emb.applied ++ [(t, q.rfeid, p.seq)] } }
        (b.showStage t k).bump .embTblUpdates t
      else
        let b := b.bump .embTblUpdRefused t c
        if c = 6 then b.put .embTblState tbFailed t else b
    let d : EmbDone := ⟨half, q.rfeid, p.seq, c, t, if c = 0 then ids.length else 0, q.step⟩
    { b with emb := { b.emb with comps := b.emb.comps.put key (b.emb.comps.at key [] ++ [d]) } }

/-- The oldest completion of a core's queue goes out (R414). -/
def Box.complete (b : Box) (key : Nat) : Box :=
  match b.emb.comps.at key [] with
  | [] => b
  | d :: t =>
    let b := { b with emb := { b.emb with comps := b.emb.comps.put key t } }
    let pay := beBytes 16 (b.sec.plid * 2 ^ 96 + 0x02 * 2 ^ 88 + d.cause * 2 ^ 80 + d.table * 2 ^ 72 + d.rows * 2 ^ 64
      + d.step * 2 ^ 32)
    let (e, b) := b.fresh
    let (l, b) := b.kframe (kfhOf 3 opCtrl 0 d.seq 0 d.rfeid 0 (e % 65536)) pay
    b.embPush (d.half, 3, l)

/-- Take the work at the head of a queue and hand its frame to `g`. -/
def Box.embWork (b : Box) (c q op : Nat) (g : Box → Held → Box) : Box :=
  let b := b.embRetry
  match b.takeWork c q [op] with
  | none => b
  | some (w, b) =>
    match w.desc with
    | none => b
    | some d =>
      match b.frameOf d with
      | none => b.checkFail d
      | some fr => (g b fr).release d

/-! ### Closing a step (R417 to R419) -/

/-- A write of CMD: status and effect (R417, R420). -/
def Box.embCmd (b : Box) (t v : Nat) : Nat × Box :=
  match v with
  | 0 => (0, b.put .embTblCmd 0 t)
  | 1 =>
    if b.tbState t ≠ tbOpen then (1, b)
    else
      let b := (b.put .embTblCmd 1 t).put .embTblState tbClosing t
      let b := b.each (upTo 6) (fun b j => { b with emb := { b.emb with hp := b.emb.hp.put (8 * t + j) (b.get .embTblHp t j) } })
      (0, { b with emb := { b.emb with closeAt := b.emb.closeAt.put t b.stamp } })
  | 2 =>
    let g := b.get .embTblCg t
    if b.tbState t ≠ tbFailed ∨ (g < 16 ∧ [cgSealed, cgVoted, cgInDoubt].contains (b.cgState g)) then (1, b)
    else
      let k := b.get .embTblStep t % 2
      (0, ((b.put .embTblCmd 2 t).put .embTblState tbDiscarding t).put .embTblBankState bkDiscarding t k)
  | _ => (1, b)

/-- New elements, inline state and external state of a row (R418). -/
def Box.optimize (b : Box) (t : Nat) (w g : List Num) (inl : Nat) (ext : List Num) : List Num × Num × List Num :=
  let x := b.tbl t
  let hp (j : Nat) : Num := decodeNum fFp32 (b.emb.hp.at (8 * t + j) 0)
  let lr := hp 0
  let one : Num := .fin false 1 0
  let mean : Num := mul32 ((treeFold add32 11 (g.map (fun v => mul32 v v))).getD (.fin false 0 0)) (recipFp32 x.dim)
  let st := decodeNum fFp32 inl
  match x.opt with
  | 0 => (w.zip g |>.map (fun e => sub32 e.1 (mul32 lr e.2)), st, ext)
  | 1 =>
    let m := ext.zip g |>.map (fun e => add32 (mul32 (hp 1) e.1) e.2)
    (w.zip m |>.map (fun e => sub32 e.1 (mul32 lr e.2)), st, m)
  | 2 =>
    let a := add32 st mean
    let r := div32 lr (add32 (sqrt32 a) (hp 3))
    (w.zip g |>.map (fun e => sub32 e.1 (mul32 r e.2)), a, ext)
  | _ =>
    let c1 := sub32 one (hp 1)
    let m := ext.zip g |>.map (fun e => add32 (mul32 (hp 1) e.1) (mul32 c1 e.2))
    let sum := (treeFold add32 11 (g.map (fun v => mul32 v v))).getD (.fin false 0 0)
    let v := add32 (mul32 (hp 2) st) (mul32 (mul32 (sub32 one (hp 2)) sum) (recipFp32 x.dim))
    let r := div32 lr (add32 (sqrt32 (mul32 v (hp 5))) (hp 3))
    (w.zip m |>.map (fun e => sub32 e.1 (mul32 r (mul32 e.2 (hp 4)))), v, m)

/-- The rounding of element d of a new row (R419). -/
def Box.rowRounding (b : Box) (t step row d : Nat) : Rounding :=
  if (b.tbl t).sr then
    .stoch (randWord (b.get .embTblSeed t) step (row % 2 ^ 32) (2 ^ 31 + t * 2 ^ 16 + row / 2 ^ 32) d)
  else .near

/-- Pad a slot's body to its length. -/
def Tbl.body (x : Tbl) (row : List Byte) (inl : Nat) : List Byte :=
  let l := row ++ (if x.inl = 4 then leBytes 4 inl else [])
  l ++ List.replicate (x.slot - 8 - l.length) 0

/-- The optimizer pass replaces one staged entry (R417 to R419). A base row that is unreadable has no value: the new
row's elements and states are then free. -/
def Box.closeEntry (b : Box) (m : Mem) (t step : Nat) (bad : List Nat) (s : Staged) : Box :=
  let x := b.tbl t
  match b.embEntry t s.row with
  | none => b
  | some e =>
    let (base, b) := b.readRow m t e s.row (b.emb.closeAt.at t 0) bad
    let optr := match base with | some (slot, _) => slotOptr slot | none => b.rowIdx t e s.row
    let finish (b : Box) (body ext : List Byte) : Box :=
      { b with emb := { b.emb with staged := b.emb.staged.map (fun y =>
          if y = s then { s with done := some (mkSlot step 0 optr body, ext) } else y) } }
    match s.assign, base with
    | some row, _ => finish b (x.body row 0) (List.replicate x.ext 0)
    | none, none =>
      let (v, b) := b.fresh
      let (u, b) := b.fresh
      finish b (leBytes (x.slot - 8) v) (leBytes x.ext u)
    | none, some (slot, ext) =>
      let gf : Int := b.get .embTblGfrac t
      let g := s.acc.map (fun a => let z := toSigned 64 a; r32 (.fin (decide (z < 0)) z.natAbs (-gf)))
      let en := (upTo (x.ext / 4)).map (fun d => decodeNum fFp32 (leNat ((ext.drop (4 * d)).take 4)))
      let (w, st, en') := b.optimize t (rowNums x slot) g (rowInl x slot) en
      let code (v : Num) : Nat := (encodeNum fFp32 .near v).raw
      let row := rowEnc x.f x.mx (w.zipIdx.map (fun v => (v.1, b.rowRounding t step s.row v.2)))
      finish b (x.body row (code st)) (en'.flatMap (fun v => leBytes 4 (code v)))

/-- The optimizer pass ends. -/
def Box.closeDone (b : Box) (m : Mem) (t : Nat) (bad : List Nat) : Box :=
  if b.tbState t ≠ tbClosing then b
  else
    let step := b.get .embTblStep t
    let l := b.emb.staged.filter (fun x => x.table == t && x.bank == step % 2)
    (b.each l (fun b s => b.closeEntry m t step bad s)).put .embTblState tbClosed t

/-! ### Steps and banks (R420 to R424) -/

/-- The table moves to OPEN for a step, or waits for its bank (R420). -/
def Box.openStep (b : Box) (t step : Nat) : Box :=
  let k := step % 2
  let b := { b with emb := { b.emb with applied := b.emb.applied.filter (fun (e : Nat × Nat × Nat) => e.1 != t) } }
  if b.bkState t k = bkFree then
    (((b.put .embTblStep step t).put .embTblState tbOpen t).put .embTblBankState bkStaging t k).put .embTblBankStep step t k
  else b.put .embTblState tbWait t

/-- The commit of a table's step at a lap (R423). -/
def Box.commitStep (b : Box) (t lap : Nat) : Box :=
  let step := b.get .embTblStep t
  let k := step % 2
  let b := ((b.put .embTblBankState bkCommitted t k).put .embTblBankClap lap t k).put .embTblCg 0x1F t
  b.openStep t ((step + 1) % 2 ^ 32)

/-- The abort of the group that a table's step is bound to (R423). -/
def Box.abortStep (b : Box) (t : Nat) : Box :=
  let b := b.put .embTblCg 0x1F t
  if b.tbState t = tbClosed ∨ b.tbState t = tbFailed then
    (b.put .embTblState tbDiscarding t).put .embTblBankState bkDiscarding t (b.get .embTblStep t % 2)
  else b

/-- Entries of a bank are freed, and PEND of their home rows cleared. -/
def Box.freeBank (b : Box) (m : Mem) (t k : Nat) (pend : Bool) : Box :=
  let l := b.emb.staged.filter (fun x => x.table == t && x.bank == k)
  let b := if pend then b.each l (fun b x => b.putPend m t x.row k false) else b
  ({ b with emb := { b.emb with staged := b.emb.staged.filter (fun (x : Staged) => !(x.table == t && x.bank == k)) } }).showStage t k

/-- Discarding ends: the same step opens again (R420). -/
def Box.discardEnd (b : Box) (m : Mem) (t : Nat) : Box :=
  if b.tbState t ≠ tbDiscarding then b
  else
    let step := b.get .embTblStep t
    ((b.freeBank m t (step % 2) true).put .embTblBankState bkFree t (step % 2)).openStep t step

/-- GATHER_TO_US + 10 µs have passed since the lap of a committed bank (R424). -/
def Box.foldStart (b : Box) (t k : Nat) : Box :=
  if b.bkState t k = bkCommitted then b.put .embTblBankState bkFolding t k else b

/-- One entry is folded into its home slot. -/
def Box.foldEntry (b : Box) (m : Mem) (t k : Nat) (s : Staged) : Box :=
  match b.embEntry t s.row, s.done with
  | some e, some (slot, ext) =>
    let off := b.slotOff t e s.half (b.rowIdx t e s.row)
    let pend := b.peekNat m (memAddr off + 6) 1 % 4
    let keep := clearBit pend k
    let hdr := slotHdr slot / 2 ^ 50 * 2 ^ 50 + keep * 2 ^ 48 + slotHdr slot % 2 ^ 48
    let b := if ext = [] then b else b.poke (memAddr (b.extOff t e s.half (slotOptr slot))) ext
    b.poke (memAddr off) (leBytes 8 hdr ++ slot.drop 8)
  | _, _ => b

/-- Every entry of a bank is folded. -/
def Box.foldEnd (b : Box) (m : Mem) (t k : Nat) : Box :=
  if b.bkState t k ≠ bkFolding then b
  else
    let b := b.each (b.emb.staged.filter (fun x => x.table == t && x.bank == k)) (fun b s => b.foldEntry m t k s)
    let b := { b with emb := { b.emb with folded := b.emb.folded.put t (b.get .embTblBankStep t k) } }
    b.put .embTblBankState bkDraining t k

/-- GATHER_TO_US has passed since draining began: the bank is FREE, and a table that waits for it opens its next step. -/
def Box.bankFree (b : Box) (m : Mem) (t k : Nat) : Box :=
  if b.bkState t k ≠ bkDraining then b
  else
    let b := (b.freeBank m t k false).put .embTblBankState bkFree t k
    let next := (b.get .embTblStep t + 1) % 2 ^ 32
    if b.tbState t = tbWait ∧ next % 2 = k then b.openStep t next else b

/-! ### Definitions (R396, R398, R400, R420, R427) -/

/-- A commit changed a table definition: a table that is OFF and VALID opens its first step; one that is no longer VALID
is OFF. -/
def Box.tblCommit (b : Box) (t : Nat) : Box :=
  if !(b.tbl t).valid then b.put .embTblState tbOff t
  else if b.tbState t = tbOff then b.openStep t (b.get .embTblFirstStep t)
  else b

/-- A commit changed a shard entry: it is STALE no longer, and with FILL its slots are to be written. -/
def Box.mapCommit (b : Box) (e : Nat) : Box :=
  let b := { b with emb := { b.emb with stale := b.emb.stale.filter (fun (x : Nat × Nat) => x.1 != e) } }
  ((b.clrBit .embMapCtrl 2 e).put .embMapFilled 0 e 0).put .embMapFilled 0 e 1

/-- Whether two half-open ranges meet. -/
def meet (a n c k : Nat) : Bool := decide (0 < n) && decide (0 < k) && decide (a < c + k) && decide (c < a + n)

/-- Byte ranges of an entry's slots and state records in a half's row space. -/
def Box.entryRanges (b : Box) (e h : Nat) : List (Nat × Nat) :=
  let x := b.tbl (b.get .embMapTable e)
  let n := b.rowCount e
  [(b.get (if h = 0 then .embMapBaseN else .embMapBaseS) e, n * x.slot),
   (b.get (if h = 0 then .embMapStateN else .embMapStateS) e, n * x.ext)]

/-- Whether a staged table definition, or a valid entry's shape, fails R398 (and the window reserve of R438). -/
def Box.tblBad (b v : Box) (t : Nat) : Bool :=
  let x := v.tbl t
  x.valid && (!rowFmt x.f x.mx || !dimOk x.f x.mx x.dim || decide (40 < v.get .embTblHalfBit t)
    || ((b.tbl t).dim != x.dim || (b.tbl t).f != x.f || (b.tbl t).mx != x.mx || (b.tbl t).opt != x.opt)
      && b.embEntries.any (fun e => b.get .embMapTable e == t))
@[inherit_doc Box.tblBad] def Box.mapBad (v : Box) (e : Nat) : Bool :=
  let t := v.get .embMapTable e
  let u := 2 ^ (v.get .embTblHalfBit t + 1)
  let others := v.embEntries.filter (· != e)
  v.bit .embMapCtrl 0 e &&
    (v.get .embMapRowLo e % u != 0 || v.get .embMapRowHi e % u != 0 || decide (v.get .embMapRowHi e ≤ v.get .embMapRowLo e)
      || others.any (fun o => v.get .embMapTable o == t && meet (v.get .embMapRowLo e) (v.get .embMapRowHi e - v.get .embMapRowLo e)
          (v.get .embMapRowLo o) (v.get .embMapRowHi o - v.get .embMapRowLo o))
      || [0, 1].any (fun h =>
          let rs := v.entryRanges e h
          rs.any (fun r => decide (0 < r.2) && decide (v.winBase h - rowSpace < r.1 + r.2))
            || (match rs with | [r, s] => meet r.1 r.2 s.1 s.2 | _ => false)
            || others.any (fun o => (v.entryRanges o h).any (fun y => rs.any (fun r => meet r.1 r.2 y.1 y.2)))))

/-! ### Resets and power states (R426) -/

/-- Gathers in progress are dropped without response. -/
def Box.dropGathers (b : Box) : Box := { b with emb := { b.emb with gathers := [], sends := [] } }

/-- Steps of every table when a half is lost: OPEN and CLOSING fail, CLOSED ones are discarded. -/
def Box.embHalfLost (b : Box) : Box :=
  let b := b.embFail [tbOpen, tbClosing]
  b.each (b.regs.filter (fun e => e.1.reg == .embTblState && e.2 == tbClosed)) (fun b e => b.abortStep e.1.i)

/-- Entries of a half become STALE as the half goes dark. -/
def Box.embStale (b : Box) (h : Nat) : Box :=
  b.each b.embEntries (fun b e =>
    ({ b with emb := { b.emb with stale := with_ b.emb.stale (e, h) } }).setBit .embMapCtrl 2 e)

/-! ### The commands -/

/-- A GATHER_REQ at the head of a work queue is served; the rows named cannot be read. -/
def execGatherReq (c : RCore) (q : Fin 8) (badRows : List (BitVec 48)) (s : State) : Host.Outcome State Fault Refusal :=
  act (fun b => b.embWork c q opGatherReq (fun b fr => b.gather s.mem (halfOfCore c) fr (badRows.map (·.toNat)))) s

/-- The other half's partial of a gather arrives. -/
def execGatherPartial (seq rfeid : BitVec 32) (s : State) : Host.Outcome State Fault Refusal :=
  act (fun b => b.embRetry.gatherPartial seq.toNat rfeid.toNat) s

/-- GATHER_TO_US has passed since a gather's receive stamp. -/
def execGatherTimeout (seq rfeid : BitVec 32) (s : State) : Host.Outcome State Fault Refusal :=
  act (fun b => b.embRetry.gatherLate seq.toNat rfeid.toNat) s

/-- A SCATTER_UPD at the head of a work queue is checked and applied or refused. -/
def execScatterUpd (c : RCore) (q : Fin 8) (s : State) : Host.Outcome State Fault Refusal :=
  act (fun b => b.embWork c q opScatter (fun b fr => b.scatter s.mem (8 * c + q) (halfOfCore c) fr)) s

/-- Every row of the oldest update of a queue is staged on both halves. -/
def execScatterCompletion (c : RCore) (q : Fin 8) (s : State) : Host.Outcome State Fault Refusal :=
  act (fun b => b.embRetry.complete (8 * c + q)) s

/-- `EMB.TBL[t].CMD` written with 1. -/
def execTableClose (src : Src) (t : Fin 64) (s : State) : Host.Outcome State Fault Refusal :=
  act (fun b => b.regWrite src (fun b => b.embCmd t 1)) s

/-- The optimizer pass of a table ends; the base rows named cannot be read. -/
def execCloseDone (t : Fin 64) (badRows : List (BitVec 48)) (s : State) : Host.Outcome State Fault Refusal :=
  act (fun b => b.closeDone s.mem t (badRows.map (·.toNat))) s

/-- `EMB.TBL[t].CMD` written with 2. -/
def execTableDiscard (src : Src) (t : Fin 64) (s : State) : Host.Outcome State Fault Refusal :=
  act (fun b => b.regWrite src (fun b => b.embCmd t 2)) s

/-- Every staged entry of a step that is discarded is freed. -/
def execDiscardDone (t : Fin 64) (s : State) : Host.Outcome State Fault Refusal := act (fun b => b.discardEnd s.mem t) s

/-- A committed bank's first delay has passed. -/
def execFoldStart (t : Fin 64) (b : Fin 2) (s : State) : Host.Outcome State Fault Refusal := act (fun x => x.foldStart t b) s

/-- The fold of a bank ends. -/
def execFoldDone (t : Fin 64) (b : Fin 2) (s : State) : Host.Outcome State Fault Refusal := act (fun x => x.foldEnd s.mem t b) s

/-- A draining bank's delay has passed. -/
def execBankFree (t : Fin 64) (b : Fin 2) (s : State) : Host.Outcome State Fault Refusal :=
  act (fun x => x.bankFree s.mem t b) s

/-- The background fill of an entry on a half ends. -/
def execFillDone (e : Fin 65536) (h : Half) (s : State) : Host.Outcome State Fault Refusal := act (fun b => b.fillDone e h) s

end Sys2Proof.Machine
end

