-- ==== Sys2Proof/Machine/Down.lean ====
section
/-!
DEFINITION. What goes when a part of the device stops: frames of a cell buffer, lanes, relay cores, batons and tables of
a half that goes dark or is reset (R27, R93, R116, R368, R426, R451, R565, R588, R684).
-/
namespace Sys2Proof.Machine

/-- Whether a descriptor names cells of none of the halves, and a lane-and-rung key a lane of none. -/
def descKept (hs : List Nat) (d : Desc) : Bool := !hs.contains d.half
@[inherit_doc descKept] def keyKept (hs : List Nat) (k : Nat) : Bool := !hs.contains (halfOf (k / 4))

/-- A table of descriptor queues without those of the halves' cells or lanes. -/
def dropDescs (hs : List Nat) (s : Store (List Desc)) : Store (List Desc) :=
  ((s.filter (fun e => keyKept hs e.1)).map (fun e => (e.1, e.2.filter (descKept hs)))).filter (fun e => e.2 ≠ [])

/-- Spilled frames that go with the halves: those of their lanes and those their shares hold. -/
def spillLostOf (hs : List Nat) (s : Store (List Spilled)) : Nat :=
  (s.map (fun e => (e.2.filter (fun x => !keyKept hs (4 * e.1) || hs.contains x.share)).length)).sum

/-- The spill table without them. -/
def spillKept (hs : List Nat) (s : Store (List Spilled)) : Store (List Spilled) :=
  ((s.filter (fun e => keyKept hs (4 * e.1))).map
    (fun e => (e.1, e.2.filter (fun (x : Spilled) => !hs.contains x.share)))).filter (fun e => e.2 ≠ [])

/-- The cell buffers and rung 0 spill of halves are emptied; how many frames were lost. Every account of their lanes holds
0 cells, and rung 0 queues are NORMAL (R684). Frames that waited for an acknowledgement are lost too, and their link
sequence numbers are freed (DEDUCED, log 22). Fenced cells stay fenced. -/
def Box.loseFrames (b : Box) (hs : List Nat) : Nat × Box :=
  let held (h : Nat) : Nat := (b.hb h).frames.length
  let n := (hs.map held).sum + spillLostOf hs b.buf.spill
  let emptied (x : HalfBuf) : HalfBuf :=
    { cells := (x.cells.filter (fun e => e.2.fence)).map (fun e => (e.1, { e.2 with used := false, refs := 0, next := none })) }
  let dead (r : Reg) (i : Nat) : Bool :=
    hs.contains (halfOf i)
      && (r == .bufIqDepth || r == .bufEqDepth || r == .bufEqState || r == .bufEqSpillBytes)
  let retryKept (x : RetrySt) : RetrySt :=
    { x with
      unacked := x.unacked.filter (fun (u : Nat × Nat × Option Desc) => !(u.2.2.any (fun d => !descKept hs d)))
      replay := x.replay.filter (fun n => x.unacked.any
        (fun (u : Nat × Nat × Option Desc) => u.1 == n && !(u.2.2.any (fun d => !descKept hs d)))) }
  let fwd := { b.fwd with
    adm := dropDescs hs b.fwd.adm
    wait := b.fwd.wait.filter (fun e => keyKept hs e.1) }
  let buf := { b.buf with
    half := b.buf.half.map (fun e => if hs.contains e.1 then (e.1, emptied e.2) else e)
    eq := dropDescs hs b.buf.eq
    hdrm := b.buf.hdrm.filter (fun e => keyKept hs e.1)
    xoff := b.buf.xoff.filter (keyKept hs)
    red := b.buf.red.filter (fun e => !hs.contains (halfOf e.1))
    spill := spillKept hs b.buf.spill
    copies := b.buf.copies.filter (fun (c : Desc × Nat) => descKept hs c.1 && !hs.contains (halfOf c.2))
    test := b.buf.test.filter (fun e => !hs.contains e.1) }
  let pac := { b.pac with
    sending := b.pac.sending.filter (fun e => !hs.contains (halfOf e.1) && descKept hs e.2.desc) }
  let ddl := { b.ddl with
    held := b.ddl.held.filter (fun (m : HeldMsg) => descKept hs m.desc && !hs.contains (halfOf m.lane)) }
  (n, { b with
    fwd := fwd, buf := buf, pac := pac, ddl := ddl
    retry := b.retry.map (fun e => (e.1, retryKept e.2))
    regs := b.regs.filter (fun e => !dead e.1.reg e.1.i) })

/-! ### Lanes -/

/-- The physical lanes of a half that hold a state other than DARK and FAULT. -/
def Box.litLanes (b : Box) (h : Nat) : List (Nat × Nat) :=
  (b.regs.filter (fun e => e.1.reg == .prtLaneState && e.2 != lnDark && e.2 != lnFault && halfOf e.1.j == h)).map
    (fun e => (e.1.i, e.1.j))

/-- A lane loses its electronics and light at once, with no DRAIN (R561, R574, R588); it retrains when it may. -/
def Box.laneCut (b : Box) (f s : Nat) : Box :=
  ((b.lnGo f s lnDark).setLane f s (fun x => { x with relight := !x.holdDark })).laneLost f s |>.emit (.light f s false)

/-- A lane drains: DRAIN goes out with a time, and its light off when that has passed (R119, R565, R568). -/
def Box.laneGo (b : Box) (us : Nat) (f s : Nat) : Box :=
  if b.lnState f s = lnDraining then b
  else ((b.lnGo f s lnDraining).setLane f s (fun x => { x with relight := !x.holdDark })).os f s 8 s us

/-- A lane whose electronics may run again trains when it was darkened or lost light (R98, R683). -/
def Box.laneRise (b : Box) (f s : Nat) : Box :=
  if b.lnState f s = lnDark ∧ (b.lane f s).relight ∧ !(b.lane f s).holdDark ∧ b.laneMay f s then b.detect f s else b

/-- Every lane of a half that was darkened trains (R565). -/
def Box.riseAll (b : Box) (h : Nat) : Box :=
  b.each ((b.lanes.filter (fun e => e.2.relight && halfOf (e.1 % 10) == h)).map (fun e => (e.1 / 10, e.1 % 10)))
    (fun b p => b.laneRise p.1 p.2)

/-! ### Relay cores, batons and tables -/

/-- Whether the cores of a half are held parked: P1 in force or forced, or PWR of the half has FAILED (R296, R518,
R533). -/
def Box.parkWanted (b : Box) (h : Nat) : Bool :=
  (b.get .pwrPsState % 8 == 1 && b.pwr.requested == 1) || b.pwr.forces.any (fun x => x.code == 1 && x.cause != 2) || b.fwm.pwrPark.contains h

/-- Relay cores show whether they run, are parked, or are off with a dark half; quarantined cores and cores under heat
test keep their state. Off before start-up step 4 has released them, and in a reset of their half. -/
def Box.showCores (b : Box) (h : Nat) : Box :=
  let on := b.start.live.contains h && !b.darkHalf h && !b.halfReset h
  let st := if !on then 0 else if b.parkWanted h then coreParked else coreRun
  let parked := if on && b.parkWanted h then with_ b.rly.parked h else b.rly.parked.erase h
  ({ b with rly := { b.rly with parked := parked } }).each (range' (64 * h) 64) (fun b c =>
    if b.get .rlyState c = coreQuar ∨ b.get .rlyState c = coreHeat then b else b.put .rlyState st c)

/-- A relay thread's program begins anew at its entry, its frames and queues gone with the cell buffer. -/
def Box.rebootThr (b : Box) (t : Nat) : Box :=
  let b := b.setThr t (fun x => { x with slots := [], out := [] })
  if b.tst t = thFree then b else b.startThr t

/-- The relay cores of a half lose their threads' registers, queues, scratch and baton store with their power. The
specification gives no way back but the power state's; the threads begin anew at their entries, the instruction store
and bindings are kept as register fields (DEDUCED, log 30). -/
def Box.relayOff (b : Box) (h : Nat) : Box :=
  let own (k : Nat) : Bool := halfOfCore (k / 8) == h
  let rly := { b.rly with
    wq := b.rly.wq.filter (fun e => !own e.1)
    heldWork := b.rly.heldWork.filter (fun e => !own e.1)
    inbox := b.rly.inbox.del h
    bells := b.rly.bells }
  let depth (e : RegKey × Nat) : Bool := e.1.reg == Reg.rlyWqDepth && halfOfCore e.1.i == h
  let b : Box := { b with rly := rly, regs := b.regs.filter (fun e => !depth e) }
  let b := b.each ((b.rly.th.map (·.1)).filter (fun t => halfOfCore (coreOf t) == h)) Box.rebootThr
  let b := b.write (.zero (scratchKey (64 * h) 0) (64 * 2 ^ 18))
  b.write (.zero (batonAddr + 2 * h * 0x03000000) (2 * 0x03000000))

/-- Batons that a half holds are gone: collective and sprint sequences that held them complete no more (R368, R376). -/
def Box.batonsGone (b : Box) (h : Nat) : Box :=
  let gone : List (Nat × Baton) := b.col.slots.flatMap (fun e =>
    (e.2.chunks.flatMap (fun c => c.2.batons)).filterMap (fun x => if x.half = h then some (e.1 / 8, x) else none))
  let b := b.each gone (fun b e => b.freeBaton e.1 e.2)
  let kept (l : List Baton) : List Baton := l.filter (fun x => x.half != h)
  let col := { b.col with
    slots := b.col.slots.map (fun e =>
      (e.1, { e.2 with chunks := e.2.chunks.map (fun c => (c.1, { c.2 with batons := kept c.2.batons })) }))
    sends := b.col.sends.filter (fun (x : ColSend) => x.half != h) }
  let spr := { b.spr with
    slots := b.spr.slots.map (fun e => (e.1, { e.2 with batons := kept e.2.batons }))
    inq := b.spr.inq.del h
    bridge := b.spr.bridge.del h }
  { b with col := col, spr := spr }

/-- The memory of a half goes to self-refresh, and runs again (R451). -/
def Box.memSleep (b : Box) (h : Nat) : Box := b.putIf (b.get .memState h == 3) .memState 5 h
@[inherit_doc Box.memSleep] def Box.memWake (b : Box) (h : Nat) : Box := b.putIf (b.get .memState h == 5) .memState 3 h

/-- The budgets of a number of live bundles (R457). -/
def Box.budgets (b : Box) (live : Nat) : Box :=
  b.each [0, 1] (fun b h => b.each (range' 1 3) (fun b k =>
    b.put .ddlBudgetGbps (b.get .ddlSharePct k * 2816 * live / 100) h k))

/-- The serial die links carry nothing (R565): no width is in force. -/
def Box.linksOff (b : Box) : Box :=
  let b := ((b.put .ddlWidthState 6).put .ddlHealth 0).budgets 0
  let b := b.each (upTo 7) (fun b m => b.put .ddlMaskAgreed 0 m)
  let b := b.each [0, 1] (fun b h => b.each (upTo 8) (fun b x => b.putIf (b.get .ddlBState h x != 4) .ddlBState 0 h x))
  let ddl := { b.ddl with
    bund := [], remaps := [], adv := [], got := [], plan := none, fromReset := false, bridge := [], sprFails := [], win := [] }
  { b with ddl := ddl }

/-- A width agreement starts (R466): bundles that carry nothing train again, RETIRED ones where it may bring them back
(R465). Not while a half is dark. -/
def Box.agreeStart (b : Box) (fromReset unretire : Bool) : Box :=
  if b.darkHalf 0 || b.darkHalf 1 then b
  else
    let b := (b.put .ddlWidthState 1).put .ddlConfirmFail 0
    let b := b.each [0, 1] (fun b h => b.each (upTo 8) (fun b x =>
      let st := b.get .ddlBState h x
      b.putIf (fromReset && st != 4 || st == 0 || st == 5 || (unretire && st == 4)) .ddlBState 1 h x))
    let ddl := { b.ddl with adv := [], got := [], plan := none, fromReset := fromReset || b.ddl.fromReset }
    { b with ddl := ddl }

/-- Combs whose lines serve no lit half hold no lane; what the block of a half keeps of traffic is gone when it goes
dark (R565). The lanes are cut or drained by the caller. -/
def Box.halfGone (b : Box) (h : Nat) : Box :=
  let b := (b.loseFrames [h]).2
  let b := ((b.relayOff h).batonsGone h).embStale h
  (b.embHalfLost.memSleep h).linksOff

end Sys2Proof.Machine
end

