-- ==== Sys2Proof/Machine/Groups.lean ====
section
/-!
DEFINITION. Commit groups as other blocks see them: what a group holds, how it breaks, and how it ends without effect
(R63 to R72, R79, R80).
-/
namespace Sys2Proof.Machine

/-- What a group holds beside its registers. -/
def Box.cg (b : Box) (n : Nat) : CgSt := b.tim.cg.at n {}
@[inherit_doc Box.cg] def Box.setCg (b : Box) (n : Nat) (g : CgSt → CgSt) : Box :=
  { b with tim := { b.tim with cg := b.tim.cg.upd n {} g } }

/-- A group enters a state (R67). -/
def Box.cgGo (b : Box) (n st : Nat) : Box := b.put .timCgState st n

/-- Whether a group votes on the sprint path (R70). -/
def CgSt.voting (g : CgSt) : Bool := g.grp != 0xFFFF

/-- The table units of staged content, in staging order. -/
def CgSt.units (g : CgSt) : List (Nat × Nat) :=
  g.staged.filterMap (fun u => match u with | .tbl a d => some (a, d) | .reg _ _ => none)

/-- The register writes of staged content, in staging order. -/
def CgSt.writes (g : CgSt) : List (Nat × Nat) :=
  g.staged.filterMap (fun u => match u with | .reg a d => some (a, d) | .tbl _ _ => none)

/-- Whole records of table units: four consecutive units each (R655); none where the units form no whole records. -/
def recordsOf : List (Nat × Nat) → Option (List Record)
  | [] => some []
  | (a, w0) :: (a1, w1) :: (a2, w2) :: (a3, w3) :: t =>
    if a1 = a + 8 ∧ a2 = a + 16 ∧ a3 = a + 24 then (recordsOf t).map (Record.ofWords w0 w1 w2 w3 :: ·) else none
  | _ => none

/-- The records of a group. -/
def CgSt.records (g : CgSt) : List Record := (recordsOf g.units).getD []

/-- The module votes once for a group (R69, R71). -/
def Box.cgCast (b : Box) (n : Nat) (ready : Bool) : Box :=
  let g := b.cg n
  if g.voting && g.cast.isNone then
    (b.setCg n (fun x => { x with cast := some ready })).castVote g.grp g.lap ready
  else b

/-- Embedding tables whose step is bound to a group (R421). -/
def Box.boundTables (b : Box) (n : Nat) : List Nat :=
  (b.regs.filter (fun e => e.1.reg == .embTblCg && e.2 == n)).map (·.1.i)

/-- The staged content of a group is discarded: placed records go, the counts return to 0. -/
def Box.cgDrop (b : Box) (n : Nat) : Box :=
  let g := b.cg n
  let b := if g.placed then b.unstageRecords g.records else b
  ((b.setCg n (fun x => { x with staged := [], placed := false, resolve := false })).put .timCgWrites 0 n).put .timCgBytes 0 n

/-- A group enters ABORTED: its content is discarded, its calendar entries are EMPTY, and the steps of tables bound to
it are discarded (R71, R72, R79, R423). -/
def Box.cgAbort (b : Box) (n : Nat) : Box :=
  let tables := b.boundTables n
  (((((b.cgDrop n).cgGo n cgAborted).calDrop 1 n).calDrop 2 n).each tables Box.abortStep)

/-- A group enters BROKEN with a cause in ERR; a voting group casts 0 at once (R65, R69, R71). -/
def Box.cgBreak (b : Box) (n err : Nat) : Box := ((b.setBit .timCgErr err n).cgGo n cgBroken).cgCast n false

/-- The groups that a reset discards (R79): those that hold content: neither FREE, COMMITTED nor ABORTED. -/
def Box.cgLost (b : Box) : List Nat := (upTo 16).filter (fun n => !([cgFree, cgCommitted, cgAborted] : List _).contains (b.cgState n))

/-- A per-half or warm reset discards them; the groups as a bitmap. -/
def Box.cgDiscard (b : Box) : Nat × Box :=
  let l := b.cgLost
  ((l.map (2 ^ ·)).sum, b.each l Box.cgAbort)

/-- The lease has ended: a local group not yet VOTED aborts at once, a voting one at its VOTE_CLOSE (R80). -/
def Box.cgLeaseEnd (b : Box) : Box :=
  b.each (upTo 16) (fun b n =>
    if b.cgState n = cgOpen ∨ b.cgState n = cgBroken ∨ b.cgState n = cgSealed then
      if (b.cg n).voting then b.setCg n (fun x => { x with doomed := true }) else b.cgAbort n
    else b)

/-! ### The lease and the mailboxes as resets see them (R503, R507, R509) -/

/-- A lock is released (R503). -/
def Box.unlock (b : Box) (m : Nat) : Box :=
  { b.put .mbxLock 0 m with mbx := { b.mbx with lock0 := b.mbx.lock0.erase m } }

/-- A lock of a former lease holder is released, and its answer word cleared (R507). -/
def Box.lockFree (b : Box) (m : Nat) : Box := ((b.unlock m).put .mbxRdata 0 m).put .mbxRfull 0 m

/-- The lease ends for a cause (R507): 2 expired, 3 released, 4 closed. -/
def Box.leaseEnd (b : Box) (cause : Nat) : Box :=
  if b.get .mbxLeaseState ≠ 1 then b
  else
    let src := b.get .mbxLeaseSrcid
    let b := ((b.put .mbxLeaseState cause).put .mbxLock 0 0).bump .mbxLeaseEnds
    let b := b.each ((range' 1 31).filter (fun m => b.get .mbxLock m == src)) Box.lockFree
    b.cgLeaseEnd.raise 0 .mbxLeaseEnds 0 sevNotice 0 (src + cause * 2 ^ 16)

/-- A channel's message, answer and buffer are cleared (R509). -/
def Box.mbxClear (b : Box) (m : Nat) : Box :=
  let mine (q : RegKey) : Bool :=
    q.i == m && [Reg.mbxData, .mbxFull, .mbxSrcid, .mbxRdata, .mbxRfull, .mbxBuf].contains q.reg
  { b with regs := b.regs.filter (fun e => !mine e.1) }

/-- The read permissions of a session slot stand at their defaults (R635). -/
def Box.permDefault (b : Box) (k : Nat) : Box :=
  ((b.put .telPermBlocks (b.get .telPermDefault) k).put .telPermGrpLo 0 k).put .telPermGrpHi 16383 k

/-- Every session ends without a word to its client (R509, R635, R651). -/
def Box.sessAll (b : Box) : Box :=
  let mine (r : Reg) : Bool := [Reg.mbxSessState, .mbxSessSrcid, .mbxSessPeerIp6, .mbxSessRole].contains r
  let b := b.each ((upTo 16).filter (fun k => b.get .mbxSessState k == 2)) Box.permDefault
  let tim := { b.tim with
    latch := b.tim.latch.filter (fun (e : (Nat × RegKey) × Nat) => decide (e.1.1 < 0x8000))
    held := b.tim.held.filter (fun (e : (Nat × RegKey × Nat) × Nat) => decide (e.1.1 < 0x8000))
    frac := b.tim.frac.filter (fun (e : Nat × Nat) => decide (e.1 < 0x8000)) }
  { b with
    tim := tim
    mbx := { b.mbx with sess := [] }
    regs := b.regs.filter (fun e => !mine e.1.reg) }

/-- What a reset of north or of the module does to mailboxes, locks, lease and sessions (R509). -/
def Box.mbxAll (b : Box) : Box :=
  let b := (b.leaseEnd 4).each (upTo 32) Box.mbxClear
  (b.each (upTo 32) Box.unlock).sessAll

end Sys2Proof.Machine
end

