-- ==== Sys2Proof/Machine/Reset.lean ====
section
/-!
DEFINITION. The resets of the device (R587 to R590): what each domain discards, what it keeps, and its exit.
-/
namespace Sys2Proof.Machine

/-! ### What they share -/

/-- RIP goes out on every lane that has light (R95, R116). -/
def Box.rip (b : Box) (index us : Nat) : Box :=
  b.each (b.litLanes 0 ++ b.litLanes 1) (fun b p => b.os p.1 p.2 2 index us)

/-- Rings of a half that are locked hold their heaters; and those that hold sweep for their target again (R159). -/
def Box.ringsHold (b : Box) (h : Nat) : Box :=
  b.each (b.regs.filter (fun e => e.1.reg == .lckRingState && e.2 == 2 && ringHalf e.1.j == h))
    (fun b e => b.put .lckRingState 3 e.1.i e.1.j)
@[inherit_doc Box.ringsHold] def Box.ringsSweep (b : Box) (h : Nat) : Box :=
  b.each (b.regs.filter (fun e => e.1.reg == .lckRingState && e.2 == 3 && ringHalf e.1.j == h))
    (fun b e => b.put .lckRingState 1 e.1.i e.1.j)

/-- Pending switches of a half's alias slots are cancelled, and calibrations of its channels stop (R111, R159). -/
def Box.lightStop (b : Box) (h : Nat) : Box :=
  let b := b.each ((b.opt.spareTx ++ b.opt.spareRx).map (fun e => e.1)) (fun b k =>
    if k % 2 = h then b.cancelSwitch (k / 2) h else b)
  { b with opt := { b.opt with cal := b.opt.cal.filter (fun e => halfOf e.2.2.1 != h) } }

/-- FWM.START_STEP: the lowest step that is not complete (R638). -/
def Box.showStart (b : Box) : Box :=
  b.put .fwmStartStep (((range' 1 11).find? (fun j => !b.start.done.contains j)).getD 12)

/-- Start-up is entered anew: steps that stand complete (R644). -/
def Box.startAt (b : Box) (done : List Nat) (live : List Nat) : Box :=
  let clear (q : RegKey) : Bool := q.reg == Reg.fwmStartMs
  let b := { b with
    regs := b.regs.filter (fun e => !clear e.1)
    start := { b.start with done := done, entered := [], at_ := b.ns, live := live, resume := [] } }
  b.showStart

/-- Offset of the crash-dump area, and bytes of the power-loss flush at its start (R523, R562). -/
def crashArea : Nat := 0x08000000
@[inherit_doc crashArea] def flushBytes : Nat := 2 ^ 18

/-- A byte of flash; erased bytes read 0xFF (PRESUMED, log 29). -/
def Box.flashByte (b : Box) (a : Nat) : Byte := b.sec.flash.at a 0xFF

/-- Bytes put in flash. -/
def flashPut : Store Byte → Nat → List Byte → Store Byte
  | f, _, [] => f
  | f, a, v :: t => flashPut (if v = 0xFF then f.del a else f.put a v) (a + 1) t

/-- A power-loss flush is waiting: the start of the crash-dump area is not erased (R562, R587). -/
def Box.flushWaits (b : Box) : Bool := b.sec.flash.any (fun e => decide (crashArea ≤ e.1) && decide (e.1 < crashArea + flushBytes))

/-- A flash operation takes effect: the bytes of a program, or a 4 KiB sector erased (R553). -/
def Box.flashApply (b : Box) (x : FlashOp) : Box :=
  let f := match x.data with
    | some d => flashPut b.sec.flash x.addr d
    | none => b.sec.flash.filter (fun e => e.1 / 4096 != x.addr / 4096)
  { b with sec := { b.sec with flash := f } }

/-- The operation in progress completes; no further one starts (R554, R676). -/
def Box.flashFinish (b : Box) : Box :=
  match b.sec.ops with
  | [] => b
  | x :: _ => let b := b.flashApply x; { b with sec := { b.sec with ops := [] } }

/-- The restart record (R587). -/
def Box.restartRec (b : Box) (r : ResetSt) : Box :=
  b.raise 0 .marRstCmd r.inst sevAlarm 0
    (r.domain * 2 ^ 764 + r.cause * 2 ^ 760 + r.groups * 2 ^ 744 + r.seqs % 2 ^ 32 * 2 ^ 712
      + (if b.flushWaits then 2 ^ 711 else 0))

/-- Open collective and sprint sequences; sprint sequences homed on one half. -/
def Box.openSeqs (b : Box) : Nat :=
  (b.regs.filter (fun e => (e.1.reg == .colGrpSlotState || e.1.reg == .sprGrpSlotState) && e.2 == slOpen)).length
@[inherit_doc Box.openSeqs] def Box.openSprint (b : Box) (h : Nat) : Nat :=
  (b.regs.filter (fun e => e.1.reg == .sprGrpSlotState && e.2 == slOpen && b.homeHalf e.1.i == h)).length

/-- A reset begins: narrower ones end (R589). -/
def Box.resetBegin (b : Box) (r : ResetSt) : Box :=
  let stays (x : ResetSt) : Bool :=
    decide (r.domain ≤ x.domain) || (r.domain == 5 && x.domain == 1 && halfOf (x.inst % 10) != r.inst)
  { b with mar := { b.mar with resets := b.mar.resets.filter stays ++ [r] } }

/-! ### Per-lane and relay (R116, R297, R368, R426) -/

/-- A per-lane reset: RIP on the lane for 10 µs, then dark; its rings sweep, its calibration stops (DEDUCED, log 82). -/
def Box.laneReset (b : Box) (f s cause : Nat) : Box :=
  let lit := !b.laneIdle f s
  let b := if lit then b.os f s 2 5 60000 else b
  let b := b.resetBegin ⟨1, phys f s, cause, 0, 0, []⟩
  let b := if lit then b.laneCut f s else b
  let b := b.setLane f s (fun x => { x with inReset := true, fails := 0 })
  let b := b.each [s, 10 + s, 20 + s] (fun b j => if b.get .lckRingState f j = 2 then b.put .lckRingState 1 f j else b)
  let b := if s < 8 then b else b.aliasLost f (s - 8)
  { b with opt := { b.opt with cal := b.opt.cal.filter (fun e => !(e.2.1 == f && e.2.2.1 == s)) } }

/-- A relay reset: threads of running bundles at their entries, frames released, queues emptied. -/
def Box.relayReset (b : Box) (cause : Nat) : Box :=
  let seqs := (b.regs.filter (fun e => e.1.reg == .colGrpSlotState && e.2 == slOpen)).length
  let b := (b.rip 3 200).resetBegin ⟨3, 0, cause, 0, seqs, []⟩
  let work : List Work := (b.rly.wq ++ b.rly.heldWork).flatMap (·.2)
  let b := b.each work Box.dropWork
  let b := { b with rly := { b.rly with wq := [], heldWork := [] } }
  let b := b.each (b.regs.filter (fun e => e.1.reg == .rlyWqDepth)) (fun b e => b.put .rlyWqDepth 0 e.1.i e.1.j)
  let b := b.each ((b.rly.th.map (·.1)).filter (fun t =>
    (b.thr t).bundle.any (fun x => b.get .rlyBundleState x == 2) && b.tst t != thFree)) Box.startThr
  let b := b.abortAll
  let b := b.each b.col.slots (fun b e => b.freeBatons (e.1 / 8) (e.1 % 8))
  (b.embFail [tbOpen, tbClosing]).dropGathers

/-! ### Forwarding-core (R243, R588, R684) -/

/-- A pipeline keeps its programmed entries. -/
def Pipe.programmed (x : Pipe) : Pipe :=
  { em := (x.em.map (fun (e : Nat × Bucket) => (e.1, { e.2 with ways := e.2.ways.map (fun w => w.filter (·.prog)) }))).filter
      (fun e => e.2.ways.any (·.isSome))
    stash := x.stash.filter (·.prog) }

/-- A forwarding-core reset. -/
def Box.fwdReset (b : Box) (cause : Nat) : Box :=
  let xoff := b.buf.xoff
  let b := (b.rip 2 1500).resetBegin ⟨4, 0, cause, 0, 0, xoff⟩
  let (n, b) := b.loseFrames [0, 1]
  let b := b.bump .marRstDrop (by_ := n)
  let b := { b with
    fwd := { b.fwd with pipes := b.fwd.pipes.map (fun (e : Nat × Pipe) => (e.1, e.2.programmed)) }
    pac := { b.pac with pacers := [], sending := [], inForce := [], smooth := [] } }
  b.each (upTo 16) Box.showUse

/-! ### Per-half, warm and cold -/

/-- What a per-half reset does to lanes and traffic: RIP on the lanes of the other half, the own lanes dark, sequences
aborted, frames lost. -/
def Box.halfTraffic (b : Box) (h : Nat) : Box :=
  let b := b.each (b.litLanes h) (fun b p => b.laneCut p.1 p.2)
  let b := ((b.lightStop h).ringsHold h).abortAll
  let b := (b.each b.col.slots (fun b e => b.freeBatons (e.1 / 8) (e.1 % 8))).sprAbortHalf h
  let (n, b) := b.loseFrames [h]
  ((b.bump .marRstDrop (by_ := n)).relayOff h).showCores h

/-- Fields of the telemetry block that a per-half reset clears (R636). -/
def telCleared (r : Reg) : Bool :=
  [Reg.telCntVal, .telCntOvf, .telMonCnt, .telMonBin, .telMonMin, .telMonMax, .telSmpTaken, .telSbuf, .telSbufWr,
    .telSbufRd, .telSbufLost].contains r

/-- A half's telemetry values are cleared and its latch banks emptied (R636). -/
def Box.telHalf (b : Box) (h : Nat) : Box :=
  let tel := { b.tel with
    banks := b.tel.banks.filter (fun (e : Nat × List Latched) => e.1 / 2 != h)
    unread := b.tel.unread.del h
    prev := b.tel.prev.filter (fun (e : Nat × Nat) => e.1 / 32 != h) }
  { b with tel := tel, regs := b.regs.filter (fun e => !(e.1.i == h && telCleared e.1.reg)) }

/-- A per-half reset of half `h` (R394, R426, R451, R481, R509, R588, R610, R644). -/
def Box.halfResetGo (b : Box) (h cause : Nat) : Box :=
  let seqs := (b.regs.filter (fun e => e.1.reg == .colGrpSlotState && e.2 == slOpen)).length + b.openSprint h
  let b := b.each (b.litLanes (1 - h)) (fun b p => b.os p.1 p.2 2 4 0xFFFF)
  let (groups, b) := b.cgDiscard
  let b := (b.resetBegin ⟨5, h, cause, groups, seqs, []⟩).halfTraffic h
  let spr := { b.spr with inq := b.spr.inq.del h, bridge := b.spr.bridge.del h }
  let b := { b with spr := spr, mar := { b.mar with joinSent := false } }
  let b := (b.embHalfLost.dropGathers.memSleep h).put .ddlWidthState 1
  let b := b.putIf (b.get .gstState h != 0) .gstState 2 h
  let b := if h = 1 then b.each [26, 27, 30, 31] Box.mbxClear else b.mbxAll
  let b := (b.each (range' (5 * h) 5) (fun b n => b.put .fwmCoreState 0 n)).telHalf h
  let resume := with_ b.start.resume h
  let b := (b.put .marSelfState 0).startAt (b.start.done.filter (fun j => !([4, 5, 6, 7, 11] : List _).contains j)) (b.start.live.erase h)
  { b with start := { b.start with resume := resume } }

/-- A counter of the collective block that a warm reset keeps (R368). -/
def colCounter (r : Reg) : Bool :=
  [Reg.colXhalfIn, .colXhalfOut, .colDropNogrp, .colDieMirrorRuns, .colGrpSeqDone, .colGrpChunkDone, .colGrpAborted,
    .colGrpGenDiscard, .colGrpCrcBad, .colGrpNotMember, .colGrpGenDrop, .colGrpLate, .colGrpWindow, .colGrpHdrBad,
    .colGrpFmtBad, .colGrpSpanBad, .colGrpAddBad, .colGrpSpanOvl, .colGrpCopyDrop, .colSuspect].contains r

/-- A field whose reset value comes from flash or straps. -/
def fromFlash (r : Reg) : Bool :=
  [Reg.fwmImgState, .fwmImgVer, .fwmImgDigest, .secFloor, .secFloorBoot, .secFloorManifest, .secOpkeyCnt, .gstId,
    .mbxBrdSlot, .mbxBrdLink].contains r

/-- A field that a warm reset keeps (R48, R159, R368, R531, R662, R663): time, light, rings, guard, identity, the counters
of collectives, the count of input losses, what the lease was, and fields from flash (DEDUCED, log 83). -/
def warmKept (r : Reg) : Bool :=
  [2, 14, 15, 17].contains r.info.block || colCounter r || fromFlash r
    || [Reg.optSelSrc, .optBypPass, .optCombState, .optCombLinePwr, .optCombLineRef, .optTuneLaserCh, .optTuneLaserPwr,
      .optTuneLaserRef, .optBayPres, .optBayId, .pwrLossCnt, .mbxLeaseState, .mbxLeaseSrcid, .fwdModMac].contains r

/-- Rails of group A and of the ring heaters and lasers, which a warm reset keeps. -/
def warmRails : List Nat := [0, 8, 9, 16, 24, 25]

/-- Banks that are COMMITTED or FOLDING are folded; staged rows of the others are lost (R426). -/
def Box.embRestart (b : Box) (m : Mem) : Box :=
  b.each ((b.regs.filter (fun e => e.1.reg == .embTblBankState)).map (fun e => (e.1.i, e.1.j))) (fun b p =>
    let b := b.foldStart p.1 p.2
    if b.bkState p.1 p.2 = bkFolding then b.foldEnd m p.1 p.2 else b.freeBank m p.1 p.2 true)

/-- What stays of the light through a warm reset. -/
def OptSt.warm (x : OptSt) : OptSt :=
  { spareTx := x.spareTx, spareRx := x.spareRx, tune := x.tune, warmWait := x.warmWait, refs := x.refs, dark := x.dark
    calAt := x.calAt }

/-- Everything but the always-on domains begins anew; the fields kept are given. -/
def Box.restart (b : Box) (kept : Reg → Bool) : Box :=
  let b := b.write (.zero 0 (128 * 2 ^ 18))
  let b := b.write (.zero batonAddr (4 * 0x03000000))
  let rx : List Nat := [3, 5].filter (fun st => b.get .memState 0 == st)
  let sx : List Nat := [3, 5].filter (fun st => b.get .memState 1 == st)
  let tim := { b.tim with
    shadow := b.tim.shadow.filter (fun (e : RegKey × Nat × Nat) => kept e.1.reg), latch := [], held := [], undo := [] }
  let fwm : FwmSt := {}
  let b : Box := { b with
    regs := b.regs.filter (fun e => kept e.1.reg)
    lanes := [], retry := [], opt := b.opt.warm, fwd := {}, buf := {}, pac := {}, tim := tim
    mar := {}, mbx := {}, rly := {}, col := {}, spr := {}, emb := {}
    memc := { b.memc with shadow := [], rowCe := [], grants := [], meter := [] }
    ddl := {}, gst := [], fwm := fwm, tel := {} }
  let b := b.putIf (rx ≠ []) .memState 5 0
  b.putIf (sx ≠ []) .memState 5 1

/-- Alias slots show the colours of the spares that stay in force. -/
def Box.showSpares (b : Box) : Box :=
  b.each (upTo 256) (fun b k => if (b.opt.spareTx.find k).isSome ∨ (b.opt.spareRx.find k).isSome then b.showAlias (k / 2) (k % 2) else b)

/-- A warm reset. -/
def Box.warmReset (b : Box) (m : Mem) (cause : Nat) : Box :=
  let seqs := b.openSeqs
  let b := b.rip 1 0xFFFF
  let b := b.mbxAll
  let b := (b.lightStop 0).lightStop 1
  let b := (b.ringsHold 0).ringsHold 1
  let b := b.flashFinish.embRestart m
  let (groups, b) := b.cgDiscard
  let b := (b.restart warmKept).showSpares
  let b := { b with
    mar := { b.mar with resets := [⟨6, 0, cause, groups, seqs, []⟩] }
    pwr := { on := b.pwr.on.filter (warmRails.contains ·), good := b.pwr.good.filter (warmRails.contains ·) } }
  b.startAt [1, 2, 8] []

/-- The manufacture record's fields as the module loads them (R548). -/
def Box.loadMfr (b : Box) (p : List Byte) : Box :=
  let f (off n : Nat) : Nat := leNat ((p.drop off).take n)
  let sec := { b.sec with
    plid := beNat (p.take 4), mfrVer := f 0x5C 4, mfrDigest := [(0, f 0x0C 32), (1, f 0x2C 32)] }
  ((({ b with sec := sec }).put .fwdModMac (beNat ((p.drop 4).take 6))).put .gstId (f 0x4C 8) 0).put .gstId (f 0x54 8) 1

/-- The board record's fields (R548). -/
def Box.loadBoard (b : Box) (p : List Byte) : Box :=
  let b := { b with sec := { b.sec with board := p } }
  b.each (upTo 4) (fun b j => b.put .mbxBrdLink (((p[j]?).map (·.toNat)).getD 0xFF) j)

/-- A cold reset: everything but flash (R48, R588). What stands is what the module reads from flash, the rails of group
A, and what the model keeps for itself (logs 5, 7). A board or manufacture record written takes effect (R548). -/
def Box.coldReset (b : Box) (cause : Nat) : Box :=
  let b := b.flashFinish
  let seqs := b.openSeqs
  let groups := (b.cgLost.map (2 ^ ·)).sum
  let sec := { b.sec with
    ident := [], straps := [], keys := [], manifestVer := 0, log := [], peer := [], peerAt := [], ops := []
    boardNext := none, mfrNext := none }
  let n : Box := {
    regs := b.regs.filter (fun e => fromFlash e.1.reg || e.1.reg == Reg.fwdModMac)
    free := b.free, out := b.out, sec := sec
    memc := { repair := b.memc.repair }
    mar := { resets := [⟨7, 0, cause, groups, seqs, []⟩] }
    pwr := { on := [0, 16] }
    start := { powered := true }
    ws := b.ws ++ [.zero 0 (2 ^ 48)] }
  let n := match b.sec.boardNext with | some p => n.loadBoard p | none => n
  let n := match b.sec.mfrNext with | some p => n.loadMfr p | none => n
  n.startAt [1] []

/-! ### Who may start one (R588, R589) -/

/-- Whether a reset in force covers a domain and instance, or is no narrower on it (R589). -/
def ResetSt.covers (r : ResetSt) (d i : Nat) : Bool :=
  decide (6 ≤ r.domain) && decide (d ≤ r.domain)
    || (r.domain == 5 && ((d == 5 && i == r.inst) || (d == 1 && halfOf (i % 10) == r.inst)))
    || (r.domain == 4 && (d == 4 || d == 3)) || (r.domain == 3 && d == 3)
    || (r.domain == 1 && d == 1 && i == r.inst)

/-- A write to MAR.RST_CMD by the lease holder or CTL: status and effect. -/
def Box.writeReset (b : Box) (m : Mem) (src d i : Nat) : Nat × Box :=
  let ctl := src == 0 || src == 5
  if !(ctl || b.isAgent src) then (1, b)
  else if b.mar.resets.any (fun r => r.covers d i) then (1, b)
  else
    let b := b.put .marRstCmd (d + i * 8)
    match d with
    | 1 => if i < 1280 then (0, b.laneReset (i / 10) (i % 10) 1) else (1, b)
    | 3 => (0, b.relayReset 1)
    | 4 => (0, b.fwdReset 1)
    | 5 => if i < 2 then (0, b.halfResetGo i 1) else (1, b)
    | 6 => (0, b.warmReset m 1)
    | 7 => (0, b.coldReset 1)
    | _ => (1, b)

/-! ### The exit (R587, R590, R684) -/

/-- Notices and aborts kept for the exit go out once no reset that keeps them is in force. -/
def Box.noticesOut (b : Box) : Box := if b.mar.resets.any (fun r => r.domain != 1) then b else b.sendNotices.sprSendNotices

/-- XON for what the device held off when the reset began, and a NAK with the expected number on each lane that runs
link retry. -/
def Box.fwdExit (b : Box) (r : ResetSt) : Box :=
  let b := b.each r.xoff (fun b k => b.emit (.pfc (k / 4) (k % 4) false))
  b.each ((b.litLanes 0 ++ b.litLanes 1).filter (fun p => b.laneUp p.1 p.2 && b.retryOn p.1 p.2))
    (fun b p => b.emit (.nak p.1 p.2 (b.rty p.1 p.2).rxExp))

/-- A reset ends: the one in force that began first (DESIGN CHOICE, log 31). The lease timer, held by a
forwarding-core reset or one of
south, begins anew (R506). -/
def Box.resetEnd (b : Box) : Box :=
  match b.mar.resets with
  | [] => b
  | r :: t =>
    let b := { b with mar := { b.mar with resets := t } }
    let b := match r.domain with
      | 1 => let f := r.inst / 10; let s := r.inst % 10
             (b.setLane f s (fun x => { x with inReset := false })).laneRise f s
      | 3 => b
      | 4 => b.fwdExit r
      | 5 => ((b.ringsSweep r.inst).riseAll r.inst).agreeStart true true
      | _ => ((b.ringsSweep 0).ringsSweep 1).agreeStart true true
    let b := if r.domain = 4 ∨ (r.domain = 5 ∧ r.inst = 1) then { b with mbx := { b.mbx with leaseNs := b.ns } } else b
    let b := if r.domain ≥ 4 then b.restartRec r else b
    b.noticesOut

/-- The reset is started by hardware or the command line: its name alone (DEDUCED, log 84). -/
def execColdReset (s : State) : Host.Outcome State Fault Refusal := act (fun b => b.coldReset 1) s

/-- `MAR.RST_CMD` = 6. -/
def execWarmReset (src : Src) (s : State) : Host.Outcome State Fault Refusal :=
  act (fun b => b.regWrite src (fun b => b.writeReset s.mem src.toNat 6 0)) s

/-- `MAR.RST_CMD` = 5 and a half. -/
def execPerHalfReset (src : Src) (h : Half) (s : State) : Host.Outcome State Fault Refusal :=
  act (fun b => b.regWrite src (fun b => b.writeReset s.mem src.toNat 5 h)) s

/-- `MAR.RST_CMD` = 4. -/
def execForwardingCoreReset (src : Src) (s : State) : Host.Outcome State Fault Refusal :=
  act (fun b => b.regWrite src (fun b => b.writeReset s.mem src.toNat 4 0)) s

/-- `MAR.RST_CMD` = 3. -/
def execRelayReset (src : Src) (s : State) : Host.Outcome State Fault Refusal :=
  act (fun b => b.regWrite src (fun b => b.writeReset s.mem src.toNat 3 0)) s

/-- `MAR.RST_CMD` = 1 and a physical lane. -/
def execPerLaneReset (src : Src) (f : Fibre) (sl : Slot) (s : State) : Host.Outcome State Fault Refusal :=
  act (fun b => b.regWrite src (fun b => b.writeReset s.mem src.toNat 1 (phys f sl))) s

/-- RESET_N has been low for 10 µs: a flash operation in progress completes, then the cold reset starts (R676). -/
def execResetPin (s : State) : Host.Outcome State Fault Refusal := act (fun b => b.flashFinish.coldReset 6) s

end Sys2Proof.Machine
end

