-- ==== Sys2Proof/Machine/Power.lean ====
section
/-!
DEFINITION. Power: rails and their faults, input loss and the power-loss flush, power states and forces, the throttle of
the relay clocks, trips and emergencies (R556 to R579), and the guard's power and temperature actions (R533).
-/
namespace Sys2Proof.Machine

/-! ### The power state (R565 to R568) -/

/-- Depth of a power state: P0, P1, P2, standby. -/
def psRank (code : Nat) : Nat := if code = 3 then 2 else if code = 4 then 3 else code

/-- The deepest force; the earliest among equals. -/
def deepest : List Force → Option Force
  | [] => none
  | x :: t => match deepest t with
    | some y => if psRank x.code < psRank y.code then some y else some x
    | none => some x

/-- PS_FORCED and FORCE_CAUSE (R567). -/
def Box.showForce (b : Box) : Box :=
  match deepest b.pwr.forces with
  | some x => (b.put .pwrPsForced x.code).put .pwrForceCause x.cause
  | none => (b.put .pwrPsForced 0).put .pwrForceCause 0

/-- The state in force by request and force: the deeper, the requested one among equals (R567). -/
def Box.psWanted (b : Box) : Nat :=
  match deepest b.pwr.forces with
  | some x => if psRank b.pwr.requested < psRank x.code then x.code else b.pwr.requested
  | none => b.pwr.requested

/-- A half goes dark: its lanes drain with a time, or at once with none; and it is lit again. -/
def Box.halfDark (b : Box) (h us : Nat) : Box :=
  let b := if us = 0 then b.each (b.litLanes h) (fun b p => b.laneCut p.1 p.2)
    else b.each (b.litLanes h) (fun b p => b.laneGo us p.1 p.2)
  (b.halfGone h).showCores h
@[inherit_doc Box.halfDark] def Box.halfLit (b : Box) (h : Nat) : Box := (((b.memWake h).showCores h).riseAll h).agreeStart true false

/-- Fields that standby keeps: those of a warm reset, the rings as they stand but for their states, the bays' contacts. -/
def standbyKept (r : Reg) : Bool :=
  warmKept r && !([Reg.optCombState, .optTuneLaserCh, .mbxLeaseState, .mbxLeaseSrcid] : List _).contains r

/-- Standby: everything but the always-on domains and the heaters of parked rings goes (R159, R426, R451, R509, R565).
Commit groups that hold content are discarded as by a warm reset (DEDUCED, log 32). -/
def Box.standby (b : Box) : Box :=
  let b := b.each (b.litLanes 0 ++ b.litLanes 1) (fun b p => (b.os p.1 p.2 8 p.2 10).laneCut p.1 p.2)
  let b := b.flashFinish.mbxAll
  let (_, b) := b.cgDiscard
  let present := (upTo 18).filter (fun n => b.bit .optBayPres n)
  let b := b.write (.zero 0 (2 ^ 48))
  let b := b.restart standbyKept
  let b := { b with
    opt := { refs := b.opt.refs, calAt := b.opt.calAt }
    memc := { repair := b.memc.repair }
    pwr := { on := [0, 8, 16, 24], good := b.pwr.good.filter ([0, 8, 16, 24].contains ·) } }
  let b := b.each (b.regs.filter (fun e => e.1.reg == .lckRingState && e.2 != 4)) (fun b e => b.put .lckRingState 0 e.1.i e.1.j)
  let b := b.each present (fun b n => b.setBay n bayCold)
  let b := ((b.put .memState 0 0).put .memState 0 1).put .pwrPsState 4
  (b.startAt [1, 2] []).irq 3

/-- The power state in force is brought to what request, forces and rails say; lanes that go dark drain with a time. -/
def Box.psGo (b : Box) (us : Nat) : Box :=
  let was := [0, 1].filter b.darkHalf
  let code := b.psWanted
  if code = 4 then (if b.get .pwrPsState % 8 = 4 then b else b.standby)
  else
    let b := (b.showForce).put .pwrPsState code
    let dark := [0, 1].filter b.darkHalf
    let b := b.each (dark.filter (fun h => !was.contains h)) (fun b h => b.halfDark h us)
    let b := b.each (was.filter (fun h => !dark.contains h)) Box.halfLit
    let b := (b.showCores 0).showCores 1
    (b.setBit .pwrPsState 3).psSettle

/-- A force begins: it acts at once, with 2 µs of DRAIN (R567, R568). -/
def Box.force (b : Box) (cause code : Nat) : Box :=
  ({ b with pwr := { b.pwr with forces := with_ b.pwr.forces ⟨cause, code⟩ } }).psGo 2

/-- The forces of a cause end; the state changes at the next lap boundary (R567). -/
def Box.unforce (b : Box) (cause : Nat) : Box :=
  ({ b with pwr := { b.pwr with forces := b.pwr.forces.filter (fun (x : Force) => x.cause != cause) } }).showForce

/-- A write to PWR.PS_REQ (R566): status and effect. A request needs a calendar entry that is EMPTY (R59). -/
def Box.writePsReq (b : Box) (v : Nat) : Nat × Box :=
  let lap := b.get .pwrPsLap
  if 4 < v ∨ lap < b.lap + 3 ∨ b.bit .pwrPsState 3 ∨ (2 ≤ v ∧ b.cgAny [cgSealed, cgVoted, cgInDoubt]) then (1, b)
  else
    let core := b.acting 4
    let old := match b.pwr.armed with
      | some (l, _) => (b.calArmed 7 core).filter (fun n => b.get .timCalLap n == l)
      | none => []
    let b' := b.each (old.take 1) (fun b n => b.put .timCalState 0 n)
    match b'.calArm lap 7 core with
    | some b'' => (0, { b''.put .pwrPsReq v with pwr := { b''.pwr with armed := some (lap, v) } })
    | none => (1, b)

/-- Power state changes at the start of a lap: a request whose lap has come, and forces that have ended. -/
def Box.psLap (b : Box) (lap : Nat) : Box :=
  let b := match b.pwr.armed with
    | some (l, v) => if l ≤ lap then { b with pwr := { b.pwr with armed := none, requested := v } } else b
    | none => b
  if b.psWanted = b.get .pwrPsState % 8 then b else b.psGo 10

/-! ### Emergencies (R575 to R577) -/

/-- FWM.EMERG: the power and the thermal causes of both halves. -/
def Box.showEmerg (b : Box) : Box :=
  let v := b.get .pwrEmergSrc 0 ||| b.get .pwrEmergSrc 1
  let was := b.get .fwmEmerg
  let now := (if v % 16 = 0 then 0 else 1) + (if v / 16 = 0 then 0 else 2)
  let b := b.put .fwmEmerg now
  let b := if now / 2 = 0 ∧ was / 2 = 1 then b.unforce 4 else b
  if now = 0 ∧ was ≠ 0 then
    let go := b.fwm.deferred.filter (fun e => decide (b.ns ≤ e.2 + 60000000000))
    let stay := b.fwm.deferred.filter (fun e => !decide (b.ns ≤ e.2 + 60000000000))
    { b with fwm := { b.fwm with deferred := stay, released := b.fwm.released ++ go.map (·.1) } }
  else b

/-- Whether the condition of a cause that the model sees holds; the other causes are conditions of the outside. -/
def Box.emergHolds (b : Box) (h cause : Nat) : Option Bool :=
  match cause with
  | 1 => some (b.get .pwrLoss == 1)
  | 2 => some (b.bit .grdEvent 4)
  | 3 => some (b.get .pwrRailFault h != 0)
  | 7 => some (b.bit .grdEvent (5 + h))
  | _ => none

/-- A cause begins. -/
def Box.emergSet (b : Box) (h cause : Nat) : Box :=
  if b.emergHolds h cause = some false then b else (b.setBit .pwrEmergSrc cause h).showEmerg

/-- A cause has been absent for its time. -/
def Box.emergClear (b : Box) (h cause : Nat) : Box :=
  if b.emergHolds h cause = some true then b else (b.clrBit .pwrEmergSrc cause h).showEmerg

/-- A thermal emergency has lasted EMERG_P1_MS with a die at the lowest ceiling. -/
def Box.thermalP1 (b : Box) : Box :=
  let hot (h : Nat) : Bool :=
    b.get .pwrEmergSrc h / 16 != 0 && (b.get .pwrDieCeilMhz (2 * h) == 500 || b.get .pwrDieCeilMhz (2 * h + 1) == 500)
  if b.bit .fwmEmerg 1 ∧ (hot 0 ∨ hot 1) then b.force 4 1 else b

/-! ### Rails (R558 to R560) -/

/-- The key of a rail; the rails of groups C to F, and of B to F. -/
def railKey (h k : Nat) : Nat := 16 * h + k
@[inherit_doc railKey] def railsOf (h : Nat) (l : List Nat) : List Nat := l.map (railKey h)

/-- Rails are turned off, and enabled. -/
def Box.railsOff (b : Box) (l : List Nat) : Box :=
  { b with pwr := { b.pwr with on := b.pwr.on.filter (!l.contains ·), good := b.pwr.good.filter (!l.contains ·) } }
@[inherit_doc Box.railsOff] def Box.railsOn (b : Box) (l : List Nat) : Box :=
  { b with pwr := { b.pwr with on := l.foldl with_ b.pwr.on } }

/-- Whether rails of a half are good. -/
def Box.railsGood (b : Box) (h : Nat) (l : List Nat) : Bool := l.all (fun k => b.pwr.good.contains (railKey h k))

/-- A rail has been good for 1 ms (R559): group C follows group B and group F group E; groups D and E are enabled by
their start-up steps. A half whose rails a fault had taken is powered again with group C. -/
def Box.railGood (b : Box) (h k : Nat) : Box :=
  if !b.pwr.on.contains (railKey h k) then b
  else
    let b := { b with pwr := { b.pwr with good := with_ b.pwr.good (railKey h k) } }
    if k = 1 ∨ k = 2 then (if b.railsGood h [1, 2] then b.railsOn (railsOf h [3, 4, 5, 6]) else b)
    else if 3 ≤ k ∧ k ≤ 6 then
      if b.railsGood h [1, 2, 3, 4, 5, 6] ∧ b.pwr.off.contains h ∧ !b.pwr.tripped.contains h then
        ({ b with pwr := { b.pwr with off := b.pwr.off.erase h } }).unforce 3
      else b
    else if k = 8 ∨ k = 9 then
      if b.railsGood h [8, 9] ∧ !(b.gst.at h {}).railOff ∧ b.get .gstId h ≠ 0 then b.railsOn [railKey h 10] else b
    else b

/-- The rails of a half are off: its lanes go dark at once, the half is dark, and a guest die UNPOWERED. -/
def Box.halfOff (b : Box) (h : Nat) : Box :=
  if b.pwr.off.contains h then b
  else
    let dark := b.darkHalf h
    let b := { b with pwr := { b.pwr with off := with_ b.pwr.off h } }
    let b := b.putIf (b.get .gstState h != 0) .gstState 5 h
    if dark then b else b.halfDark h 0

/-- Input loss (R561 to R563): latched, flash operations not started are refused, rails shed. -/
def Box.inputLoss (b : Box) : Box :=
  let late := b.sec.ops.drop 1
  let b := (((b.put .pwrLoss 1).bump .pwrLossCnt).irq 0).each late (fun b x => (b.emit (.answer x.core 1 0)).bump .secHuRefuse)
  let b := { b with sec := { b.sec with ops := b.sec.ops.take 1 } }
  let b := (b.emergSet 0 1).emergSet 1 1
  let shed := railsOf 0 [3, 4, 5, 6, 7, 8, 9, 10, 2] ++ railsOf 1 [1, 2, 3, 4, 5, 6, 7, 8, 9, 10]
  let b := b.railsOff shed
  let b := (b.halfOff 0).halfOff 1
  let b := b.each ((upTo 10).filter (3 ≤ ·)) (fun b n => b.put .fwmCoreState 0 n)
  let b := b.each (b.regs.filter (fun e => e.1.reg == .lckRingState)) (fun b e => b.put .lckRingState 0 e.1.i e.1.j)
  let b := ((b.write (.zero lpddrAddr (2 ^ 40))).put .memState 0 0).put .memState 0 1
  { b with pwr := { b.pwr with shed := true, armed := none } }

/-- VAON is off: all operation ends, and nothing is kept but flash (R560, R561). -/
def Box.vaonDown (b : Box) : Box :=
  let b := b.coldReset 4
  let b := { b with
    mar := { b.mar with resets := [] }
    pwr := { vaonOff := true }
    start := { b.start with powered := false } }
  b.startAt [] []

/-- A rail is faulty (R560). -/
def Box.railFault (b : Box) (h k : Nat) : Box :=
  if k = 0 then ((b.setBit .pwrRailFault 0 h).inputLoss).vaonDown
  else if k = 9 then
    let b := ((b.setBit .pwrRailFault 9 0).setBit .pwrRailFault 9 1).railsOff [railKey 0 9, railKey 1 9]
    let b := b.each ((upTo 10).filter (fun n => b.bay n == bayActive)) (fun b n =>
      (b.each (upTo 8) (fun b w => b.put .optCombLinePwr 0 n w)).fadeLossAct n 0)
    let b := b.each (upTo 8) (fun b g => b.each (upTo 4) (fun b j =>
      if b.get .optTuneLaserCh g j = 15 then b else b.laserLost g j))
    ((b.raise h .pwrRailFault h sevAlarm 0).emergSet 0 3).emergSet 1 3
  else
    let b := ((b.setBit .pwrRailFault k h).railsOff (railsOf h [1, 2, 3, 4, 5, 6, 7, 8, 10])).halfOff h
    let b := (b.emergSet h 3).raise h .pwrRailFault h sevAlarm 7
    b.force 3 (3 - h)

/-! ### The power-loss flush (R553, R562) -/

/-- E_avail in nJ from the capacitance in µF and the voltage in mV (R553): half C times V² − (40 V)², less 15 mJ. -/
def eAvail (capUf vMv : Nat) : Int :=
  ((capUf : Int) * ((vMv : Int) * vMv - 40000 * 40000)) / 2000 - 15000000

/-- Free bytes. -/
def Box.freeBytes (b : Box) : Nat → List Byte × Box
  | 0 => ([], b)
  | n + 1 =>
    let (v, b) := b.fresh
    let (l, b) := b.freeBytes n
    (BitVec.ofNat 8 v :: l, b)

/-- The error records of the queue, highest severity first and then the earliest (R562). -/
def errOrder : Nat → List (Nat × ErrRec) → List ErrRec
  | 0, _ => []
  | n + 1, l => match bestErr l with
    | some (m, e) => e :: errOrder n (l.filter (·.1 != m))
    | none => []

/-- What the flush writes, in order: the power-loss record, of whose layout only the length is stated, the unhandled
error records, the last log records of each half. -/
def Box.flushItems (b : Box) : List Byte × Box :=
  let (rec_, b) := b.freeBytes 256
  let errs := (errOrder 256 b.mar.errq).flatMap (fun e => leBytes 128 e.image)
  let pad := List.replicate ((256 - errs.length % 256) % 256) (0xFF : Byte)
  let logs := [0, 1].flatMap (fun h => (b.fwm.tail.at h []).take 128 |>.flatMap (fun r => leBytes 64 r.image))
  (rec_ ++ errs ++ pad ++ logs, b)

/-- The programs of the flush, one voltage for each, until one lacks its energy: 15 W for 2 ms. -/
def flushRun (cap : Nat) : List (BitVec 16) → Nat → List Byte → Store Byte → Store Byte
  | [], _, _, f => f
  | v :: vs, a, l, f =>
    if l = [] ∨ eAvail cap v.toNat < 30000000 ∨ crashArea + flushBytes ≤ a then f
    else flushRun cap vs (a + 256) (l.drop 256) (flashPut f a (l.take 256))

/-- The flush runs once after shedding, when its area is erased; the operation in progress completes first (DESIGN
CHOICE, log 119). -/
def Box.flush (b : Box) (vMv : List (BitVec 16)) : Box :=
  if !b.pwr.shed ∨ b.pwr.flushed then b
  else
    let b := b.flashFinish
    let b := { b with pwr := { b.pwr with flushed := true } }
    if b.flushWaits then b
    else
      let (l, b) := b.flushItems
      { b with sec := { b.sec with flash := flushRun (b.get .secHuCapUf) vMv crashArea l b.sec.flash } }

/-- The input has returned for 100 ms to a module that has shed or lost VAON (R563). The count of losses lives on while
VAON stays up (R563; DEDUCED, log 118). -/
def Box.inputReturn (b : Box) : Box :=
  if b.pwr.vaonOff then b.coldReset 4
  else if b.pwr.shed then
    let n := b.get .pwrLossCnt
    (b.coldReset 4).put .pwrLossCnt n
  else b

/-! ### The relay clocks (R569 to R573) -/

/-- The throttle steps, MHz, rising. -/
def clkSteps : List Nat := [500, 750, 1000, 1250, 1500, 1750, 2000]

/-- The step above, and the highest step that satisfies a test; the lowest when none does. -/
def stepUp (f : Nat) : Nat := (clkSteps.find? (f < ·)).getD 2000
@[inherit_doc stepUp] def bestStep (p : Nat → Bool) : Nat := (clkSteps.reverse.find? p).getD 500

/-- The compute die of a region: 32 of a half's 64 regions each (DEDUCED, log 33). -/
def dieOfRegion (h r : Nat) : Nat := 2 * h + r / 32

/-- Whether the feedforward-off condition holds for a die. -/
def Box.ffOff (b : Box) (d : Nat) : Bool := b.get .lckFfEn == 0 || b.get .pwrFfsafe (d / 2) == 1

/-- The clock that the four limits give a die, before a droop halves it. -/
def Box.clkLimit (b : Box) (d : Nat) : Nat :=
  let guard := if b.pwr.guardLim then 500 else 2000
  min (min (b.get .pwrDieCeilMhz d) (b.pwr.ffLim.at d 2000)) (min (b.pwr.ramp.at d 2000) guard)

/-- RLY.DIE[d].CLK_MHZ. -/
def Box.showClk (b : Box) (d : Nat) : Box :=
  b.put .rlyDieClkMhz (if b.pwr.halved.contains d then b.clkLimit d / 2 else b.clkLimit d) d
@[inherit_doc Box.showClk] def Box.showClks (b : Box) : Box := b.each (upTo 4) Box.showClk

/-- The feedforward-off limit of the dies whose condition holds. -/
def Box.ffCheck (b : Box) : Box :=
  (b.each (upTo 4) (fun b d =>
    if b.ffOff d then { b with pwr := { b.pwr with ffLim := b.pwr.ffLim.put d 1000 } } else b)).showClks

/-- The ramp limit of a die, in 0.0625 K/ms. -/
def Box.rampLimit (b : Box) (d : Nat) : Int := if b.ffOff d then 160 else 640

/-- Rates of the regions of a die. -/
def Box.ratesOf (b : Box) (d : Nat) : List Int := (range' (32 * (d % 2)) 32).map (fun r => b.getS .pwrRegionRate (d / 2) r)

/-- The ramp limit falls when a region rises too fast (R572). -/
def Box.rampCheck (b : Box) (d : Nat) (rate : Int) : Box :=
  if rate ≤ b.rampLimit d then b
  else
    let f := b.clkLimit d
    let f' := bestStep (fun x => decide (rate * x ≤ b.rampLimit d * f))
    if f' < b.pwr.ramp.at d 2000 then
      (({ b with pwr := { b.pwr with ramp := b.pwr.ramp.put d f' } }).bump .pwrDieThrEvents d).showClk d
    else b

/-- Whether samples, newest first, rise by the same amount each. -/
def evenly : List Nat → Option Int
  | a :: c :: t =>
    if ((a :: c :: t).zip (c :: t)).all (fun p => (p.1 : Int) - p.2 == (a : Int) - c) then some ((a : Int) - c) else none
  | _ => none

/-- A region sensor is sampled (R569): the rate is the slope of samples that lie on a line; another fit is not stated and
gives a free value (DEDUCED, log 120). -/
def Box.regionSample (b : Box) (h r tj : Nat) : Box :=
  let key := 64 * h + r
  let l := (tj :: b.pwr.samples.at key []).take 20
  let b := { b.put .pwrRegionTj tj h r with pwr := { b.pwr with samples := b.pwr.samples.put key l } }
  let b := match evenly l with
    | some x => b.put .pwrRegionRate (ofSigned 16 (x * 1000)) h r
    | none => b.putFree .pwrRegionRate h r
  b.rampCheck (dieOfRegion h r) (b.getS .pwrRegionRate h r)

/-- The thermal loop of each half whose PWR runs sets its dies' ceilings (R571): the step is a free value, and a rise is
of one step at most. -/
def Box.thermal (b : Box) : Box :=
  b.each (upTo 4) (fun b d =>
    if b.get .fwmCoreState (4 + 5 * (d / 2)) ≠ 2 then b
    else
      let cur := b.get .pwrDieCeilMhz d
      let (v, b) := b.fresh
      let f := clkSteps.getD (v % 7) 500
      (b.put .pwrDieCeilMhz (min f (stepUp cur)) d).showClk d)

/-- 100 µs have passed: the feedforward-off and ramp limits of a die rise by one step where they may (R572). -/
def Box.throttleUp (b : Box) (d : Nat) : Box :=
  let f := b.clkLimit d
  let fits (x : Nat) (num den : Int) : Bool :=
    (b.ratesOf d).all (fun rate => decide (rate * (x : Int) * den ≤ num * b.rampLimit d * f))
  let ff := b.pwr.ffLim.at d 2000
  let ramp := b.pwr.ramp.at d 2000
  let ff' := if !b.ffOff d && decide (ff < 2000) && fits (stepUp ff) 1 1 then stepUp ff else ff
  let ramp' := if decide (ramp < 2000) && fits (stepUp ramp) 4 5 then stepUp ramp else ramp
  ({ b with pwr := { b.pwr with ffLim := b.pwr.ffLim.put d ff', ramp := b.pwr.ramp.put d ramp' } }).showClk d

/-! ### The guard's power and temperature actions (R533, R574) -/

/-- Whether an input power, in 0.1 W, is above the module cap. -/
def Box.powerOver (b : Box) (w : Nat) : Bool := decide (b.get .grdEnvModW * 10 < w)

/-- Above the cap for 100 µs: every relay clock to the lowest step. -/
def Box.guardPower (b : Box) (w : Nat) : Box :=
  let b := b.put .pwrPinW w
  if !b.powerOver w then b
  else
    let b := { b with pwr := { b.pwr with guardLim := true } }
    (((b.guardAct 0 4).emergSet 0 2).emergSet 1 2).showClks

/-- Still above after 1 ms: cores parked as in P1; after 10 ms: P2 with south dark. -/
def Box.guardForce (b : Box) (w code contain : Nat) : Box :=
  let b := b.put .pwrPinW w
  if !b.powerOver w ∨ !b.pwr.guardLim then b else (b.guardAct 0 4 contain).force 1 code

/-- Sensors of a half at the trip temperature for 10 µs: a sudden loss of its packet, relay and lane rails. -/
def Box.trip (b : Box) (h r tj : Nat) : Box :=
  let b := b.put .pwrRegionTj tj h r
  if tj < b.get .grdEnvTripC * 16 ∨ b.pwr.tripped.contains h then b
  else
    let b := { b with pwr := { b.pwr with tripped := with_ b.pwr.tripped h, armed := none } }
    let b := (b.railsOff (railsOf h [2, 3, 4, 5, 6])).halfOff h
    let b := (b.guardAct h (5 + h) 7 sevFatal).emergSet h 7
    b.force 5 (3 - h)

/-- A fibre that the guard held dark is released (R157): its comb gates sweep, dropped bypass light is passed again. -/
def Box.fibreRelease (b : Box) : Box :=
  let l := b.opt.dark
  let b := { b with opt := { b.opt with dark := [] } }
  b.each l (fun b e =>
    let f := e.1
    let b := b.each (range' 20 8) (fun b j => b.put .lckRingState rgSweep f j)
    let b := if e.2 then b.each (upTo 8) (fun b w =>
      if b.bypassOut f w then
        b.put .lckRingState rgParked (f / 16 * 16 + (f % 16 + 16 - (w + 1) % 16) % 16) w else b) else b
    b.each (upTo 10) (fun b s => (b.setLane f s (fun x => { x with relight := !x.holdDark })).laneRise f s))

/-- CTL writes 1 to bits of GRD.EVENT, with the input power at that instant: actions that hold until cleared end, those
of the module power only below its cap, where the bit otherwise stays (R533, R660). -/
def Box.guardClear (b : Box) (src bits w : Nat) : Nat × Box :=
  if src ≠ 0 ∧ src ≠ 5 then (1, b)
  else
    let bits := if b.powerOver w && b.pwr.guardLim then clearBit bits 4 else bits
    let b := b.put .grdEvent (b.get .grdEvent &&& (2047 - bits % 2048))
    let b := if bitAt bits 4 then
      (({ b with pwr := { b.pwr with guardLim := false } }).unforce 1).showClks else b
    (0, if bitAt bits 0 then b.fibreRelease else b)

/-- Every sensor of a tripped half has stayed cool for 1 s: with both halves tripped the warm reset follows. -/
def Box.cooled (b : Box) (m : Mem) : Box := if b.pwr.tripped.length = 2 then b.warmReset m 2 else b

/-! ### The commands -/

/-- A rail of a half has been good for 1 ms. -/
def execRailGroupGood (h : Half) (k : Fin 11) (s : State) : Host.Outcome State Fault Refusal := act (fun b => b.railGood h k) s

/-- A rail is faulty. -/
def execRailFault (h : Half) (k : Fin 11) (s : State) : Host.Outcome State Fault Refusal := act (fun b => b.railFault h k) s

/-- The input-loss sense has been low for 2 µs. -/
def execInputLoss (s : State) : Host.Outcome State Fault Refusal := act Box.inputLoss s

/-- The power-loss flush, with the input voltage at each program. -/
def execPowerLossFlush (vMv : List (BitVec 16)) (s : State) : Host.Outcome State Fault Refusal := act (fun b => b.flush vMv) s

/-- The input has fallen below 40 V. -/
def execVaonOff (s : State) : Host.Outcome State Fault Refusal := act Box.vaonDown s

/-- The input has stayed above the turn-on threshold for 100 ms. -/
def execInputReturn (s : State) : Host.Outcome State Fault Refusal := act Box.inputReturn s

/-- `PWR.PS_REQ` written. -/
def execPsRequest (src : Src) (v : BitVec 3) (s : State) : Host.Outcome State Fault Refusal :=
  act (fun b => b.regWrite src (fun b => b.writePsReq v.toNat)) s

/-- A region sensor is sampled. -/
def execRegionSensorSample (h : Half) (r : Fin 64) (tj : BitVec 12) (s : State) : Host.Outcome State Fault Refusal :=
  act (fun b => b.regionSample h r tj.toNat) s

/-- A period of the thermal loop. -/
def execThermalLoop (s : State) : Host.Outcome State Fault Refusal := act Box.thermal s

/-- 100 µs of a die's released limits. -/
def execThrottleStepUp (d : Fin 4) (s : State) : Host.Outcome State Fault Refusal := act (fun b => b.throttleUp d) s

/-- `LCK.FF_EN` written. -/
def execFfEnWrite (src : Src) (v : BitVec 1) (s : State) : Host.Outcome State Fault Refusal :=
  act (fun b => b.regWrite src (fun b => (0, (b.put .lckFfEn v.toNat).ffCheck))) s

/-- `PWR[h].FFSAFE` written. -/
def execFfsafeWrite (src : Src) (h : Half) (v : BitVec 1) (s : State) : Host.Outcome State Fault Refusal :=
  act (fun b => b.regWrite src (fun b => (0, (b.put .pwrFfsafe v.toNat h).ffCheck))) s

/-- VRLY of a die has fallen below 95 %: the clock halves (R573). -/
def execRailDroop (d : Fin 4) (s : State) : Host.Outcome State Fault Refusal :=
  act (fun b => (({ b with pwr := { b.pwr with halved := with_ b.pwr.halved d.val, droop := with_ b.pwr.droop d.val } }).bump
    .pwrDieDroopCnt d).showClk d) s

/-- VRLY of a die has stayed at 97 % for 1 µs: the clock is restored (R573). -/
def execDroopRecover (d : Fin 4) (s : State) : Host.Outcome State Fault Refusal :=
  act (fun b => ({ b with pwr := { b.pwr with halved := b.pwr.halved.erase d.val } }).showClk d) s

/-- An emergency cause has held for its time. -/
def execEmergencyCauseSet (h : Half) (cause : Fin 8) (s : State) : Host.Outcome State Fault Refusal :=
  act (fun b => b.emergSet h cause) s

/-- An emergency cause has been absent for EMERG_CLR_MS. -/
def execEmergencyCauseClear (h : Half) (cause : Fin 8) (s : State) : Host.Outcome State Fault Refusal :=
  act (fun b => b.emergClear h cause) s

/-- EMERG_P1_MS of a thermal emergency have passed. -/
def execThermalP1Force (s : State) : Host.Outcome State Fault Refusal := act Box.thermalP1 s

/-- Module power above the cap for 100 µs. -/
def execGuardPowerOver (w : BitVec 16) (s : State) : Host.Outcome State Fault Refusal := act (fun b => b.guardPower w.toNat) s

/-- Module power still above the cap after 1 ms. -/
def execGuardPowerPark (w : BitVec 16) (s : State) : Host.Outcome State Fault Refusal :=
  act (fun b => b.guardForce w.toNat 1 0) s

/-- Module power still above the cap after 10 ms. -/
def execGuardPowerP2 (w : BitVec 16) (s : State) : Host.Outcome State Fault Refusal :=
  act (fun b => b.guardForce w.toNat 2 7) s

/-- A sensor of a half at or above the trip value for 10 µs. -/
def execJunctionTrip (h : Half) (r : Fin 64) (tj : BitVec 12) (s : State) : Host.Outcome State Fault Refusal :=
  act (fun b => b.trip h r tj.toNat) s

/-- The sensors of the tripped halves have stayed cool for 1 s. -/
def execTripCooled (s : State) : Host.Outcome State Fault Refusal := act (fun b => b.cooled s.mem) s

/-- `GRD.EVENT` written with 1 bits. -/
def execGuardEventClear (src : Src) (bits : BitVec 11) (w : BitVec 16) (s : State) : Host.Outcome State Fault Refusal :=
  act (fun b => b.regWrite src (fun b => b.guardClear src.toNat bits.toNat w.toNat)) s

end Sys2Proof.Machine
end

