-- ==== Sys2Proof/Machine/DieLinks.lean ====
section
/-!
DEFINITION. The serial die links and the sprint bridge: flits, sparing, retirement, the width agreement, messages that
wait for it, and bridge messages (R453 to R472).
-/
namespace Sys2Proof.Machine

/-! ### Bundles -/

/-- States of a bundle (R483). -/
def buOff : Nat := 0
@[inherit_doc buOff] def buTraining : Nat := 1
@[inherit_doc buOff] def buActive : Nat := 2
@[inherit_doc buOff] def buDegraded : Nat := 3
@[inherit_doc buOff] def buRetired : Nat := 4
@[inherit_doc buOff] def buFault : Nat := 5

/-- States of the width (R483). -/
def wsTraining : Nat := 1
@[inherit_doc wsTraining] def wsAdvertise : Nat := 2
@[inherit_doc wsTraining] def wsConfirm : Nat := 3
@[inherit_doc wsTraining] def wsActive : Nat := 4
@[inherit_doc wsTraining] def wsSafe : Nat := 5
@[inherit_doc wsTraining] def wsNone : Nat := 6

/-- What a half holds of a bundle beside its registers. -/
def Box.bund (b : Box) (h x : Nat) : BundSt := b.ddl.bund.at (8 * h + x) {}
@[inherit_doc Box.bund] def Box.setBund (b : Box) (h x : Nat) (g : BundSt → BundSt) : Box :=
  { b with ddl := { b.ddl with bund := b.ddl.bund.upd (8 * h + x) {} g } }

/-- Whether a bundle carries flits. -/
def Box.buLive (b : Box) (h x : Nat) : Bool := b.get .ddlBState h x == buActive || b.get .ddlBState h x == buDegraded

/-- The live bundles, in ascending order. -/
def Box.liveBundles (b : Box) : List Nat := (upTo 8).filter (b.buLive 0)

/-- A field of both halves' view of a bundle. -/
def Box.putBoth (b : Box) (r : Reg) (v x : Nat) (n : Nat := 0) : Box := (b.put r v 0 x n).put r v 1 x n

/-! ### The bridge (R471, R472) -/

/-- Send a message of a wire group from a half, to be acknowledged. -/
def Box.bridgeSend (b : Box) (h cls : Nat) (body : List Byte) : Box :=
  let m : BridgeMsg := ⟨cls, 0, body⟩
  ({ b with ddl := { b.ddl with bridge := b.ddl.bridge.upd h [] (fun l => l ++ [m]) } }).emit (.bridge h cls body)

/-- Wire groups (R471). -/
def grpSprint : Nat := 0
@[inherit_doc grpSprint] def grpTime : Nat := 1
@[inherit_doc grpSprint] def grpLink : Nat := 3

/-- North fences south: the module goes to P2 with south dark, and raises an alarm record (R469, R472). The force has no
cause of the list of R567 (DEDUCED, log 34). -/
def Box.fenceSouth (b : Box) (r : Reg) (inst : Nat) : Box := (b.raise 0 r inst sevAlarm 7).force 0 2

/-- A bridge message arrives: with a good CRC-16 it is acknowledged, and its sender keeps it no longer. -/
def Box.bridgeRx (b : Box) (h cls : Nat) (body : List Byte) (crc : Nat) : Box :=
  if crc16 body ≠ crc then b
  else
    let q := b.ddl.bridge.at (1 - h) []
    let q' := match q.find? (fun m => m.cls == cls && m.body == body) with
      | some m => q.erase m
      | none => q
    ({ b with ddl := { b.ddl with bridge := b.ddl.bridge.put (1 - h) q' } }).emit (.bridgeAck h cls)

/-- A fourth attempt fails. -/
def Box.bridgeFail (b : Box) (h cls : Nat) : Box :=
  if cls = grpTime then b.raise 1 .ddlBridgeCrc (8 * h + cls) sevError 0
  else b.fenceSouth .ddlBridgeCrc (8 * h + cls)

/-- The oldest contribution on the bridge from a half is discarded with its baton. -/
def Box.sprBridgeDrop (b : Box) (h : Nat) : Box :=
  match b.spr.bridge.at (1 - h) [] with
  | [] => b
  | (k, seq, bb, l) :: t =>
    let b := { b with spr := { b.spr with bridge := b.spr.bridge.put (1 - h) t } }
    if (b.sprSlot (k / 4) (k % 4)).seq ≠ seq then b
    else b.setSprSlot (k / 4) (k % 4) (fun s =>
      { s with batons := s.batons.filter (fun y => !(y.b == bb && y.l == l && y.place == 1)) })

/-- 24 ns have passed without an acknowledgement of the oldest message that a half sent (link control first, then sprint
contributions): the attempt failed; after three repeats the device acts by group (R472). -/
def Box.bridgeAgain (b : Box) (h : Nat) : Box :=
  match b.ddl.bridge.at h [] with
  | m :: t =>
    let b := b.bump .ddlBridgeCrc h m.cls
    if m.fails < 3 then
      let q := { m with fails := m.fails + 1 } :: t
      ({ b with ddl := { b.ddl with bridge := b.ddl.bridge.put h q } }).emit (.bridge h m.cls m.body)
    else ({ b with ddl := { b.ddl with bridge := b.ddl.bridge.put h t } }).bridgeFail h m.cls
  | [] =>
    if b.spr.bridge.at (1 - h) [] = [] then b
    else
      let n := b.ddl.sprFails.at h 0
      let b := b.bump .ddlBridgeCrc h grpSprint
      if n < 3 then { b with ddl := { b.ddl with sprFails := b.ddl.sprFails.put h (n + 1) } }
      else ({ b with ddl := { b.ddl with sprFails := b.ddl.sprFails.del h } }).sprBridgeDrop h

/-! ### The key map, budgets and striped ports (R457, R459, R460) -/

/-- Entries of the key map move: an entry whose bundle stays live keeps it where only bundles went; every other entry e
takes the (e mod N)-th live bundle (R459). -/
def Box.keymapMove (b : Box) (live : List Nat) (onlyRemoves : Bool) : Box :=
  if live = [] then b
  else b.each [0, 1] (fun b h => b.each (upTo 64) (fun b e =>
    if onlyRemoves && live.contains (b.get .ddlKeymap h e) then b
    else b.put .ddlKeymap (live.getD (e % live.length) 0) h e))

/-- Striped ports, by their lowest 400 G port, and the width of each in Gb/s. -/
def Box.stripedPorts (b : Box) : List (Nat × Nat) :=
  ((upTo 512).filter (fun n => b.striped n && (b.portSpan n).head? == some n)).map (fun n => (n, 400 * (b.portSpan n).length))

/-- The ports taken down so that half the sum of the widths fits half the pinned budget: highest number first (R460). -/
def stripesDown (budget : Nat) : List (Nat × Nat) → List Nat
  | [] => []
  | (n, w) :: t => if w + (t.map (·.2)).sum ≤ budget then [] else n :: stripesDown budget t

/-- Striped ports are taken down and return at an agreement (R460). -/
def Box.stripesFit (b : Box) : Box :=
  let down := stripesDown (b.get .ddlBudgetGbps 0 2) b.stripedPorts.reverse
  let new := down.filter (fun n => !b.ddl.stripes.contains n)
  ({ b with ddl := { b.ddl with stripes := down } }).each new (fun b n =>
    (b.bump .ddlStripeHeld).raise 0 .ddlStripeHeld n sevError 0)

/-- Held messages go on once the agreement has ended (R470). -/
def Box.heldGo (b : Box) : Box :=
  let l := b.ddl.held
  ({ b with ddl := { b.ddl with held := [] } }).each l (fun b m => b.placeCopies m.desc [m.lane])

/-- The oldest message that a half holds has waited too long: it is discarded, and its frame lost (R470). -/
def Box.heldDrop (b : Box) (h : Nat) : Box :=
  match b.ddl.held.find? (fun m => m.half == h) with
  | none => b
  | some m => (({ b with ddl := { b.ddl with held := b.ddl.held.erase m } }).release m.desc).bump .ddlHoldDrop h

/-! ### The width agreement (R466 to R468) -/

/-- The whole mask, and the 64-bit words it is shown in. -/
def fullMask : Nat := 2 ^ 408 - 1
@[inherit_doc fullMask] def maskWord (m k : Nat) : Nat := m / 2 ^ (64 * k) % 2 ^ 64

/-- Bits 51·b to 51·b + 50. -/
def bundleBits (x : Nat) : Nat := (2 ^ 51 - 1) * 2 ^ (51 * x)

/-- Usable positions of a bundle in a mask, ascending. -/
def usableIn (m x : Nat) : List Nat := (upTo 51).filter (fun n => bitAt m (51 * x + n))

/-- The CRC-32C of a mask: its 51 bytes, most significant first. -/
def maskCrc (m : Nat) : Nat := crc32c (beBytes 51 m)

/-- The mask agreed as a half computes it, when it has both masks. -/
def Box.agreedOf (b : Box) (h : Nat) : Option Nat :=
  match b.ddl.adv.find h, b.ddl.got.find h with
  | some a, some g => some (a &&& g)
  | _, _ => none

/-- A half that has both masks computes the agreed one; south echoes its CRC (R467; DEDUCED, log 113). -/
def Box.settle (b : Box) (h : Nat) : Box :=
  match b.agreedOf h with
  | none => b
  | some m =>
    let b := b.put .ddlWidthState wsConfirm
    if h = 1 then b.bridgeSend 1 grpLink (2 :: beBytes 4 (maskCrc m)) else b

/-- A side has trained its bundles and advertises: what passed training, is not RETIRED and is offered; north leaves out
a bundle that is to be retired (R463, R466). -/
def Box.advertise (b : Box) (h trained : Nat) : Box :=
  if b.get .ddlWidthState > wsConfirm ∨ b.darkHalf 0 ∨ b.darkHalf 1 then b
  else
    let out := (upTo 8).filter (fun x => b.get .ddlBState h x == buRetired || !b.bit .ddlBundleEn x
      || (h == 0 && (b.bund 0 x).leaving))
    let m := out.foldl (fun m x => m &&& (fullMask - bundleBits x)) (trained % 2 ^ 408)
    let b := b.each (upTo 7) (fun b k => b.put .ddlMaskAdv (maskWord m k) h k)
    let b := { b with ddl := { b.ddl with adv := b.ddl.adv.put h m } }
    ((b.put .ddlWidthState wsAdvertise).bridgeSend h grpLink (1 :: beBytes 51 m)).settle h

/-- The other side's mask arrives (R467). -/
def Box.maskRx (b : Box) (h m : Nat) : Box :=
  if b.get .ddlWidthState > wsConfirm then b
  else ({ b with ddl := { b.ddl with got := b.ddl.got.put h m } }).settle h

/-- The next whole microsecond at least 2 µs ahead, and the first lap boundary at least 4 µs ahead, in ns. -/
def Box.nextUs (b : Box) : Nat := (b.ns + 2000 + 999) / 1000 * 1000
@[inherit_doc Box.nextUs] def Box.lapAfter (b : Box) : Nat := b.lapStart ((b.ns + 4000 + b.lapLen - 1) / b.lapLen)

/-- A confirmation has failed: masks are read anew, or after three failures both sides take the safe width (R467, R468). -/
def Box.confirmFail (b : Box) : Box :=
  let adv := b.ddl.adv.at 0 0 * 2 ^ 408 + b.ddl.adv.at 1 0
  let b := b.put .ddlConfirmFail (min 3 (b.get .ddlConfirmFail + 1))
  let b := { b with ddl := { b.ddl with adv := [], got := [] } }
  if b.get .ddlConfirmFail < 3 then b.put .ddlWidthState wsAdvertise
  else
    let b := { b with ddl := { b.ddl with plan := some (b.nextUs, none) } }
    (b.bump .ddlSafeCnt).raise 0 .ddlWidthState 0 sevError 0 adv

/-- North compares south's echo with its own mask, and names the instant (R467). -/
def Box.echoRx (b : Box) (crc : Nat) : Box :=
  if b.get .ddlWidthState ≠ wsConfirm ∨ b.ddl.plan.isSome then b
  else match b.agreedOf 0 with
    | none => b.confirmFail
    | some m =>
      if maskCrc m ≠ crc then b.confirmFail
      else
        let t := if b.ddl.fromReset then b.nextUs else b.lapAfter
        ({ b with ddl := { b.ddl with plan := some (t, some m) } }).bridgeSend 0 grpLink (3 :: beBytes 8 t)

/-- 10 µs have passed without an echo. -/
def Box.echoMissing (b : Box) : Box :=
  if (b.get .ddlWidthState = wsConfirm ∨ b.get .ddlWidthState = wsAdvertise) ∧ b.ddl.plan.isNone then b.confirmFail else b

/-- A bundle takes the positions that a mask gives it: state, mapping and spares in use (R467). -/
def Box.bundleMap (b : Box) (m x : Nat) : Box :=
  let u := usableIn m x
  let was := b.get .ddlBState 0 x
  let b := b.setBund 1 x (fun s => { s with leaving := false })
  let gone := was == buRetired || (b.bund 0 x).leaving
  let b := b.setBund 0 x (fun s => { s with leaving := false, badWin := 0 })
  if 48 ≤ u.length then
    let map := u.take 48
    let spares := (map.filter (48 ≤ ·)).length
    let b := b.each (upTo 48) (fun b n => b.putBoth .ddlBMap (map.getD n n) x n)
    (b.putBoth .ddlBSpareUsed spares x).putBoth .ddlBState (if spares = 3 then buDegraded else buActive) x
  else b.putBoth .ddlBState (if gone then buRetired else if b.bit .ddlBundleEn x then buFault else buOff) x

/-- The agreed mask, or the safe width, takes effect (R457, R459, R460, R463, R467, R468). -/
def Box.activateWidth (b : Box) : Box :=
  match b.ddl.plan with
  | none => b
  | some (_, om) =>
    let m := om.getD (2 ^ 48 - 1)
    let before := b.liveBundles
    let fromReset := b.ddl.fromReset
    let b := { b with ddl := { b.ddl with plan := none, adv := [], got := [], fromReset := false, remaps := [] } }
    let b := b.each (upTo 7) (fun b k => b.put .ddlMaskAgreed (maskWord m k) k)
    let b := b.each (upTo 8) (fun b x => b.bundleMap m x)
    let live := b.liveBundles
    let b := (b.put .ddlHealth live.length).keymapMove live (!fromReset && live.all (before.contains ·))
    let b := b.put .ddlWidthState (if live = [] then wsNone else if om.isNone then wsSafe else wsActive)
    ((b.budgets live.length).stripesFit).heldGo

/-- A write to DDL.CMD: 1 starts an agreement that RETIRED bundles may return by (R465, R466). -/
def Box.writeDdlCmd (b : Box) (v : Nat) : Nat × Box :=
  (0, if v = 1 then (b.put .ddlCmd 1).agreeStart false true else b.put .ddlCmd v)

/-- A write to DDL.BUNDLE_EN starts an agreement (R466). -/
def Box.writeBundleEn (b : Box) (v : Nat) : Nat × Box := (0, (b.put .ddlBundleEn v).agreeStart false false)

/-! ### Retirement and loss (R463, R464, R469) -/

/-- A 1 ms window of a bundle ends: too many failures in either direction for RETIRE_WIN windows retire it (R463). -/
def Box.retireWindow (b : Box) (x : Nat) : Box :=
  let bad (h : Nat) : Bool :=
    decide (b.get .ddlRetirePpm * (b.bund h x).winFlits < (b.bund h x).winFails * 1000000)
  let n := if bad 0 || bad 1 then (b.bund 0 x).badWin + 1 else 0
  let b := (b.setBund 0 x (fun s => { s with badWin := n, winFlits := 0, winFails := 0 })).setBund 1 x
    (fun s => { s with winFlits := 0, winFails := 0 })
  if n < b.get .ddlRetireWin ∨ !b.buLive 0 x ∨ b.get .ddlWidthState ≠ wsActive then b
  else
    ((b.setBund 0 x (fun s => { s with leaving := true })).raise 0 .ddlBState x sevError 0).agreeStart false false

/-- A bundle is lost at once (R464): its entries move, the receiver reports the last message it has, and north retires
it. At the safe width, bundle 0 has no other to give way to (R469). -/
def Box.loseBundle (b : Box) (h x : Nat) : Box :=
  if !b.buLive 0 x ∨ (b.bund 0 x).leaving then b
  else if b.get .ddlWidthState = wsSafe then b.fenceSouth .ddlWidthState x
  else
    let msg := (b.bund (1 - h) x).rxMsg
    let b := b.bridgeSend (1 - h) grpLink ([5, BitVec.ofNat 8 x] ++ beBytes 2 msg)
    let b := b.keymapMove (b.liveBundles.filter (· != x)) true
    (b.setBund 0 x (fun s => { s with leaving := true })).agreeStart false false

/-- A loss of training, or of ACK progress over RPL_MAX replays. -/
def Box.bundleGone (b : Box) (h x : Nat) (training : Bool) : Box :=
  if training || decide (b.get .ddlRplMax ≤ (b.bund h x).stuck) then b.loseBundle h x else b

/-! ### Flits (R454 to R456) -/

/-- A replay from a flit number; one after RPL_MAX replays without ACK progress loses the bundle (R455, R464; DESIGN
CHOICE, log 136). -/
def Box.flitAgain (b : Box) (h x seq : Nat) : Box :=
  if !b.buLive h x then b
  else if b.get .ddlRplMax ≤ (b.bund h x).stuck then b.loseBundle h x
  else ((b.setBund h x (fun s => { s with stuck := s.stuck + 1 })).bump .ddlBReplays h x).emit (.flitReplay h x seq)

/-- The last number accepted in the reverse direction. -/
def Box.flitAcked (b : Box) (h x ack : Nat) : Box :=
  if (b.bund h x).ack = ack then b else b.setBund h x (fun s => { s with ack := ack, stuck := 0 })

/-- Errors located in a position: its ERR rises (R456). -/
def Box.posErr (b : Box) (h x pos n : Nat) : Box :=
  if n = 0 then b
  else
    let key := 51 * (8 * h + x) + pos
    let w := b.get .ddlLaneWinMs * 1000000
    let b := b.bump .ddlBLaneErr h x pos n
    let l := (b.ddl.win.at key []).filter (fun (e : Nat × Nat) => decide (b.ns < e.1 + w))
    { b with ddl := { b.ddl with win := b.ddl.win.put key (l ++ [(b.ns, n)]) } }

/-- One more on ERR of every position whose 16 bits differ between two copies of a flit. -/
def Box.locate (b : Box) (h x copy flit : Nat) : Box :=
  b.each (upTo 48) (fun b i =>
    if bits copy (16 * i + 15) (16 * i) ≠ bits flit (16 * i + 15) (16 * i) then b.posErr h x (b.get .ddlBMap h x i) 1 else b)

/-- Bits set in a number. -/
def ones (w n : Nat) : Nat := ((upTo w).filter (bitAt n)).length

/-- A flit arrives at a half on a bundle (DEDUCED, log 112). -/
def Box.flitRx (b : Box) (h x flit : Nat) : Box :=
  if !b.buLive h x then b
  else
    let b := (b.bump .ddlBFlits h x).setBund h x (fun s => { s with winFlits := s.winFlits + 1 })
    let typ := bits flit 767 764
    let seq := bits flit 761 752
    let s := b.bund h x
    if crc32c (beBytes 92 (flit / 2 ^ 32)) ≠ flit % 2 ^ 32 then
      let b := (b.bump .ddlBCrcFail h x).setBund h x (fun s => { s with
        winFails := s.winFails + 1, failed := if s.rxWait then s.failed else some flit, rxWait := true })
      if s.rxWait then b else b.emit (.flitNak h x s.rxExp)
    else
      let b := b.flitAcked h x (bits flit 751 742)
      match typ with
      | 0 => b
      | 3 => b.flitAgain h x seq
      | _ =>
        if seq = s.rxExp then
          let b := match s.failed with
            | some copy => b.locate h x copy flit
            | none => b
          (b.setBund h x (fun s => { s with
            rxExp := (seq + 1) % 1024, rxWait := false, failed := none, rxMsg := (s.rxMsg + flag (typ == 2)) % 65536 })).emit
            (.flitAck h x seq)
        else if s.rxWait then b
        else (b.setBund h x (fun s => { s with rxWait := true })).emit (.flitNak h x s.rxExp)

/-! ### Sparing (R461, R462) -/

/-- The data position that a position carries. -/
def Box.carries (b : Box) (h x pos : Nat) : Option Nat := (upTo 48).find? (fun n => b.get .ddlBMap h x n == pos)

/-- The lowest usable spare of a bundle: agreed, not mapped and not asked for. -/
def Box.spareFree (b : Box) (h x : Nat) : Option Nat :=
  [48, 49, 50].find? (fun p => b.bit .ddlMaskAgreed ((51 * x + p) % 64) ((51 * x + p) / 64) && (b.carries h x p).isNone
    && !b.ddl.remaps.any (fun r => r.b == x && r.spare == p))

/-- A position is found faulty at a half: a remap to the lowest usable spare is requested (R461). A position of a
DEGRADED bundle stays mapped (R462). -/
def Box.faultyPos (b : Box) (h x pos : Nat) (lockLost : Bool) : Box :=
  let sum := (((b.ddl.win.at (51 * (8 * h + x) + pos) []).filter
    (fun e => decide (b.ns < e.1 + b.get .ddlLaneWinMs * 1000000))).map (·.2)).sum
  if !(lockLost || decide (b.get .ddlLaneErrMax ≤ sum)) ∨ b.get .ddlBState h x ≠ buActive then b
  else match b.carries h x pos with
    | none => b
    | some n =>
      if b.ddl.remaps.any (fun r => r.b == x && r.n == n) then b
      else match b.spareFree h x with
        | none => b
        | some p =>
          let r : Remap := ⟨h, x, n, p, b.nextUs⟩
          ({ b with ddl := { b.ddl with remaps := b.ddl.remaps ++ [r] } }).bridgeSend h grpLink
            [4, BitVec.ofNat 8 x, BitVec.ofNat 8 n, BitVec.ofNat 8 p]

/-- The microsecond of a bundle's oldest remap has come (R461, R462). -/
def Box.remapGo (b : Box) (x : Nat) : Box :=
  match b.ddl.remaps.find? (fun r => r.b == x) with
  | none => b
  | some r =>
    let b := { b with ddl := { b.ddl with remaps := b.ddl.remaps.erase r } }
    let b := (b.putBoth .ddlBMap r.spare x r.n).putBoth .ddlBSpareUsed (min 3 (b.get .ddlBSpareUsed r.half x + 1)) x
    if b.get .ddlBSpareUsed r.half x = 3 then
      (b.putBoth .ddlBState buDegraded x).raise r.half .ddlBState (8 * r.half + x) sevNotice 0
    else b

/-! ### The commands -/

/-- A flit arrives; `prbs` gives the bits of idle flits and unused positions that differ from their pattern (R456). -/
def execFlitReceive (h : Half) (b : Colour) (flit : BitVec 768) (prbs : List (Fin 51 × BitVec 16)) (s : State) :
    Host.Outcome State Fault Refusal :=
  act (fun x => (x.flitRx h b flit.toNat).each prbs (fun x e => x.posErr h b e.1 (ones 16 e.2.toNat))) s

/-- A NAK flit arrives at the half that sends. -/
def execFlitNak (h : Half) (b : Colour) (seq : BitVec 10) (s : State) : Host.Outcome State Fault Refusal :=
  act (fun x => x.flitAgain h b seq.toNat) s

/-- 200 ns have passed without ACK progress: the replay begins with the flit after the last one acknowledged. -/
def execFlitReplayTimeout (h : Half) (b : Colour) (s : State) : Host.Outcome State Fault Refusal :=
  act (fun x => x.flitAgain h b (((x.bund h b).ack + 1) % 1024)) s

/-- Errors of a position reach LANE_ERR_MAX, or it has lost bit lock. -/
def execPositionFaulty (h : Half) (b : Colour) (pos : Fin 51) (lockLost : Bool) (s : State) :
    Host.Outcome State Fault Refusal := act (fun x => x.faultyPos h b pos lockLost) s

/-- The time of a remap has come. -/
def execRemap (b : Colour) (s : State) : Host.Outcome State Fault Refusal := act (fun x => x.remapGo b) s

/-- A 1 ms window of a bundle ends. -/
def execBundleRetire (b : Colour) (s : State) : Host.Outcome State Fault Refusal := act (fun x => x.retireWindow b) s

/-- A bundle that a half sends on is lost at once. -/
def execBundleLost (h : Half) (b : Colour) (trainingLost : Bool) (s : State) : Host.Outcome State Fault Refusal :=
  act (fun x => x.bundleGone h b trainingLost) s

/-- `DDL.CMD` = 1. -/
def execRenegotiate (src : Src) (s : State) : Host.Outcome State Fault Refusal :=
  act (fun b => b.regWrite src (fun b => b.writeDdlCmd 1)) s

/-- `DDL.BUNDLE_EN` written. -/
def execBundleEnWrite (src : Src) (v : BitVec 8) (s : State) : Host.Outcome State Fault Refusal :=
  act (fun b => b.regWrite src (fun b => b.writeBundleEn v.toNat)) s

/-- A side has trained its bundles. -/
def execAgreement (h : Half) (trained : BitVec 408) (s : State) : Host.Outcome State Fault Refusal :=
  act (fun b => b.advertise h trained.toNat) s

/-- The mask of the other side reaches a half. -/
def execMaskAdvertise (h : Half) (mask : BitVec 408) (s : State) : Host.Outcome State Fault Refusal :=
  act (fun b => b.maskRx h mask.toNat) s

/-- South's echo reaches north. -/
def execAgreementEcho (crc : BitVec 32) (s : State) : Host.Outcome State Fault Refusal :=
  act (fun b => b.echoRx crc.toNat) s

/-- No echo within 10 µs. -/
def execConfirmTimeout (s : State) : Host.Outcome State Fault Refusal := act Box.echoMissing s

/-- The named instant has come. -/
def execActivate (s : State) : Host.Outcome State Fault Refusal := act Box.activateWidth s

/-- A message has waited HOLD_US. -/
def execHoldTimeout (h : Half) (s : State) : Host.Outcome State Fault Refusal := act (fun b => b.heldDrop h) s

/-- A bridge message reaches a half. -/
def execBridgeMessage (h : Half) (g : Fin 6) (body : List Byte) (crc : BitVec 16) (s : State) :
    Host.Outcome State Fault Refusal := act (fun b => b.bridgeRx h g body crc.toNat) s

/-- An acknowledgement has failed to come within 24 ns. -/
def execBridgeResend (h : Half) (s : State) : Host.Outcome State Fault Refusal := act (fun b => b.bridgeAgain h) s

end Sys2Proof.Machine
end

