-- ==== Sys2Proof/Machine/Mail.lean ====
section
/-!
DEFINITION. Mailbox channels, their power domains and locks, the agent lease, the end of sessions, and the board group:
announces and the relay (R485 to R489, R495, R498 to R509).
-/
namespace Sys2Proof.Machine

/-! ### Sessions as others see them (R495, R503) -/

/-- The SRCID of a session number. -/
def srcOf (n : Nat) : Nat := 0x8000 + n

/-- The slot of a session that is live or in its handshake. -/
def Box.sessSlot (b : Box) (src : Nat) : Option Nat :=
  (upTo 16).find? (fun k => b.get .mbxSessState k != 0 && b.get .mbxSessSrcid k == src)

/-- Whether a requester is a live session. -/
def Box.liveSess (b : Box) (src : Nat) : Bool := (b.sessSlot src).any (fun k => b.get .mbxSessState k == 2)

/-- Whether a requester may use the mailboxes: a core, a live session or the lease holder. -/
def Box.known (b : Box) (src : Nat) : Bool := isCore src || b.liveSess src || b.isAgent src

/-- A session ends (R495, R503, R506, R635, R651): its locks, its lease, its read permissions, and the words latched and
held for it go. -/
def Box.sessEnd (b : Box) (k : Nat) : Box :=
  let src := b.get .mbxSessSrcid k
  let live := b.get .mbxSessState k = 2
  let b := if live then
      let b := if b.isAgent src then b.leaseEnd 4 else b
      b.each ((upTo 32).filter (fun m => b.get .mbxLock m == src)) Box.unlock |>.permDefault k
    else b
  let tim := { b.tim with
    latch := b.tim.latch.filter (fun (e : (Nat × RegKey) × Nat) => e.1.1 != src)
    held := b.tim.held.filter (fun (e : (Nat × RegKey × Nat) × Nat) => e.1.1 != src)
    frac := b.tim.frac.del src }
  let b := (((b.put .mbxSessState 0 k).put .mbxSessSrcid 0 k).put .mbxSessPeerIp6 0 k).put .mbxSessRole 0 k
  { b with tim := tim, mbx := { b.mbx with sess := b.mbx.sess.del k } }

/-! ### Channels and domains (R498 to R502, R504) -/

/-- The receiver of a channel, and whether its power domain is up. -/
def Box.receiver (b : Box) (m : Nat) : Nat := b.get .mbxRcv m
@[inherit_doc Box.receiver] def Box.domainUp (b : Box) (m : Nat) : Bool := b.mbx.domains.contains (b.receiver m)

/-- Whether the lock of a channel is held, and by whom. -/
def Box.locked (b : Box) (m : Nat) : Bool := b.get .mbxLock m != 0 || b.mbx.lock0.contains m
@[inherit_doc Box.locked] def Box.owns (b : Box) (src m : Nat) : Bool := b.locked m && b.get .mbxLock m == src

/-- An access to a channel by a requester that may use it, in a domain that is up: status 4 and 3 else. -/
def Box.channel (b : Box) (src m : Nat) (f : Box → Nat × Nat × Box) : Nat × Nat × Box :=
  if !b.known src then (4, 0, b) else if !b.domainUp m then (3, 0, b) else f b

/-- A write to DATA. -/
def Box.dataWrite (b : Box) (src m v : Nat) : Nat × Nat × Box :=
  b.channel src m (fun b =>
    if b.locked m && !b.owns src m then (1, 0, b)
    else if b.get .mbxFull m = 1 then
      let b := b.bump .mbxWfull m
      if b.get .mbxKs7 m = 1 then (2, 0, b.raise 0 .mbxWfull m sevNotice 0) else (1, 0, b)
    else (0, 0, ((b.put .mbxData v m).put .mbxFull 1 m).put .mbxSrcid src m))

/-- A read of DATA: the receiver's clears FULL. -/
def Box.dataRead (b : Box) (src m : Nat) : Nat × Nat × Box :=
  b.channel src m (fun b => (0, b.get .mbxData m, b.putIf (src == b.receiver m) .mbxFull 0 m))

/-- A write to RDATA, which is the receiver's. -/
def Box.rdataWrite (b : Box) (src m v : Nat) : Nat × Nat × Box :=
  b.channel src m (fun b =>
    if src = b.receiver m then (0, 0, (b.put .mbxRdata v m).put .mbxRfull 1 m) else (1, 0, b))

/-- A read of RDATA: the sender's clears RFULL. -/
def Box.rdataRead (b : Box) (src m : Nat) : Nat × Nat × Box :=
  b.channel src m (fun b => (0, b.get .mbxRdata m, b.putIf (src != b.receiver m) .mbxRfull 0 m))

/-- A write to a word of BUF; the receiver answers in it too (R545). -/
def Box.bufWrite (b : Box) (src m w v : Nat) : Nat × Nat × Box :=
  b.channel src m (fun b =>
    if b.locked m && !b.owns src m && src != b.receiver m then (1, 0, b) else (0, 0, b.put .mbxBuf v m w))

/-- A read of a word of BUF. -/
def Box.bufRead (b : Box) (src m w : Nat) : Nat × Nat × Box := b.channel src m (fun b => (0, b.get .mbxBuf m w, b))

/-- A write to DOORBELL: 1 wakes the receiver and powers its domain up; it stays pending until the channel is READY. -/
def Box.doorbell (b : Box) (src m v : Nat) : Nat × Nat × Box :=
  if !b.known src then (4, 0, b)
  else if b.locked m && !b.owns src m then (1, 0, b)
  else if v % 2 = 0 then (0, 0, b)
  else
    let b := b.emit (.wakeCore (b.receiver m))
    (0, 0, if b.get .mbxReady m = 1 then b else (b.put .mbxDoorbell 1 m).emit (.powerUp (b.receiver m)))

/-- The domain of a channel's receiver is up and its firmware declares the channel. -/
def Box.channelReady (b : Box) (m : Nat) : Box :=
  let b := { b with mbx := { b.mbx with domains := with_ b.mbx.domains (b.receiver m) } }
  (b.put .mbxReady 1 m).put .mbxDoorbell 0 m

/-- Channels that lead to a core. -/
def Box.channelsOf (b : Box) (c : Nat) : List Nat := (upTo 32).filter (fun m => b.receiver m == c)

/-- A core's domain powers down when every channel of it is empty and without a pending doorbell (DEDUCED, log 114). -/
def Box.domainDown (b : Box) (c : Nat) : Box :=
  let l := b.channelsOf c
  if l.any (fun m => b.get .mbxFull m == 1 || b.get .mbxDoorbell m == 1) then b
  else ({ b with mbx := { b.mbx with domains := b.mbx.domains.erase c } }).each l (fun b m => b.put .mbxReady 0 m)

/-- A core restarts: the contents of its channels are cleared, READY 0 (R509). -/
def Box.channelsRestart (b : Box) (c : Nat) : Box :=
  b.each (b.channelsOf c) (fun b m => (b.mbxClear m).put .mbxReady 0 m)

/-- The channels of a role lead to another core (R498, R509). -/
def Box.channelsMove (b : Box) (role core : Nat) : Box :=
  let l := if role = 0 then upTo 16 else if role = 1 then range' 16 4 else if role = 2 then range' 20 4 else []
  b.each l (fun b m => ((b.mbxClear m).put .mbxReady 0 m).put .mbxRcv core m)

/-! ### Locks and the lease (R503 to R507) -/

/-- Whether the role byte of a session makes it eligible for the lease. -/
def Box.mayLease (b : Box) (src : Nat) : Bool :=
  (b.sessSlot src).any (fun k => b.get .mbxSessState k == 2 && b.bit .mbxSessRole 0 k)

/-- A read of LOCK: it claims a free lock, and of channel 0 the lease. -/
def Box.lockRead (b : Box) (src m : Nat) : Nat × Nat × Box :=
  if !b.known src then (4, 0, b)
  else if b.locked m then (0, b.get .mbxLock m, b)
  else if m = 0 then
    if b.mayLease src then
      let b := ((b.put .mbxLock src 0).put .mbxLeaseState 1).put .mbxLeaseSrcid src
      (0, 0, { b with mbx := { b.mbx with leaseNs := b.ns } })
    else (0, 0xFFFF, b)
  else
    let b := b.put .mbxLock src m
    (0, 0, if src = 0 then { b with mbx := { b.mbx with lock0 := with_ b.mbx.lock0 m } } else b)

/-- A write to LOCK: 0 from its owner releases it, and of channel 0 ends the lease. -/
def Box.lockWrite (b : Box) (src m v : Nat) : Nat × Nat × Box :=
  if !b.known src then (4, 0, b)
  else if v ≠ 0 ∨ !b.owns src m then (1, 0, b)
  else (0, 0, if m = 0 then b.leaseEnd 3 else b.unlock m)

/-- A write to MBX.LEASE. -/
def Box.leaseWrite (b : Box) (src v : Nat) : Nat × Nat × Box :=
  if b.isAgent src then (0, 0, { b.put .mbxLease v with mbx := { b.mbx with leaseNs := b.ns } }) else (4, 0, b)

/-- LEASE_AGE_MS: it goes on from the last renewal, and stays at its largest value (DEDUCED, log 35). -/
def Box.leaseAge (b : Box) : Nat :=
  if b.get .mbxLeaseState = 0 then 0 else min 2047 ((b.ns - b.mbx.leaseNs) / 1000000)

/-- 1 s has passed without a renewal; the timer is held in a forwarding-core reset and one of south (R506). -/
def Box.leaseOut (b : Box) : Box :=
  if b.mar.resets.any (fun r => r.domain == 4 || (r.domain == 5 && r.inst == 1)) then b else b.leaseEnd 2

/-- The answer to a mailbox access. -/
def Box.answer (b : Box) (src : Src) (f : Box → Nat × Nat × Box) : Box := (f b).2.2.reply src (f b).1 (f b).2.1

/-! ### The board group (R485 to R489) -/

/-- Fibres in a mode. -/
def Box.inMode (b : Box) (m : Nat) : List Nat := (upTo 128).filter (fun f => b.get .prtMode f == m)

/-- A lane of a fibre for a relayed frame: of the arrival half when one is UP there (R487). -/
def Box.relayLane (b : Box) (f h : Nat) : Option Nat :=
  ([h, 2 + h, 4 + h, 6 + h, 1 - h, 3 - h, 5 - h, 7 - h].find? (fun w => b.laneUp f (b.txSlot f w))).map (laneOf f)

/-- A frame is sent to a target fibre, within its relay cap over 10 µs (DEDUCED, log 36). -/
def Box.relayTo (b : Box) (h : Nat) (fr : List Byte) (f : Nat) : Box :=
  let anew := decide (b.mbx.relayAt + 10000 ≤ b.ns)
  let bytes : Store Nat := if anew then [] else b.mbx.relayBytes
  let at_ := if anew then b.ns else b.mbx.relayAt
  let used := bytes.at f 0 + fr.length
  if b.get .mbxBrdRateMbps * 10 < used * 8 then
    ({ b with mbx := { b.mbx with relayBytes := bytes, relayAt := at_ } }).bump .mbxBrdDrop
  else
    let b := { b with mbx := { b.mbx with relayBytes := bytes.put f used, relayAt := at_ } }
    match b.relayLane f h with
    | some l => b.emit (.board l fr)
    | none => b

/-- The solicited-node group address for the low 24 bits of an address (R487). -/
def solicited (low : Nat) : Nat := 0x3333FF000000 + low % 2 ^ 24

/-- The board relay handles a frame that arrives on a HOST_BRIDGE or BOARD_LINK fibre (R487, R489). -/
def Box.boardRelay (b : Box) (f s : Nat) (fr : List Byte) : Box :=
  let h := halfOf s
  let mode := b.get .prtMode f
  if (mode ≠ 1 ∧ mode ≠ 2) ∨ b.halfReset h ∨ b.get .pwrPsState % 8 = 4 then b
  else
    let da := at_ fr 0 6
    let mac := b.get .fwdModMac
    let slot := (upTo 4).find? (fun j => b.get .mbxBrdMac j == da && b.get .mbxBrdMac j != 0 && b.get .mbxBrdLink j != 0xFF)
    let hosts := b.inMode 1
    if da = mac ∨ da = solicited mac ∨ da = solicited (b.get .fwdModIp6) then b.emit (.toCtl fr)
    else if da / 2 ^ 32 = 0x3333 then
      (b.emit (.toCtl fr)).each (if mode = 1 then b.inMode 2 else hosts) (fun b g => b.relayTo h fr g)
    else match mode, slot, hosts with
      | 1, some j, _ => b.relayTo h fr (b.get .mbxBrdLink j)
      | 2, _, g :: _ =>
        if da / 2 ^ 40 % 2 = 0 then b.relayTo h fr g else b.bump .fwdDrop (b.pipeOf (laneOf f (s % 8))) 3
      | _, _, _ => b.bump .fwdDrop (b.pipeOf (laneOf f (s % 8))) 3

/-- The payload of a board announce (R486). -/
def Box.announcement (b : Box) : Nat :=
  b.sec.plid * 2 ^ 96 + 0x03 * 2 ^ 88 + b.get .mbxBrdSlot * 2 ^ 80 + b.get .fwdModMac

/-- A board announce goes out on an UP BOARD_LINK fibre. -/
def Box.announce (b : Box) (f : Nat) : Box :=
  if b.get .prtMode f = 2 ∧ (b.relayLane f 0).isSome then b.emit (.announce f b.announcement) else b

/-- A board announce arrives on a fibre. -/
def Box.announced (b : Box) (f plid slot mac : Nat) : Box :=
  match (upTo 4).find? (fun j => b.get .mbxBrdLink j == f) with
  | none => b
  | some j =>
    if slot = j then (b.put .mbxBrdMac mac j).put .mbxBrdPlid plid j
    else b.raise 0 .mbxBrdMac j sevError 0

/-! ### The commands -/

/-- 1 ms has passed on a fibre. -/
def execBoardAnnounceTx (f : Fibre) (s : State) : Host.Outcome State Fault Refusal := act (fun b => b.announce f) s

/-- A board announce arrives. -/
def execBoardAnnounce (f : Fibre) (plid : BitVec 32) (slot : BitVec 2) (mac : BitVec 48) (s : State) :
    Host.Outcome State Fault Refusal := act (fun b => b.announced f plid.toNat slot.toNat mac.toNat) s

/-- A frame arrives on a HOST_BRIDGE or BOARD_LINK fibre. -/
def execBoardRelay (f : Fibre) (sl : Slot) (frame : List Byte) (s : State) : Host.Outcome State Fault Refusal :=
  act (fun b => b.boardRelay f sl frame) s

/-- `MBX[m].DATA` written. -/
def execMbxDataWrite (src : Src) (m : Fin 32) (v : BitVec 64) (s : State) : Host.Outcome State Fault Refusal :=
  act (fun b => b.answer src (fun b => b.dataWrite src.toNat m v.toNat)) s

/-- `MBX[m].DATA` read. -/
def execMbxDataRead (src : Src) (m : Fin 32) (s : State) : Host.Outcome State Fault Refusal :=
  act (fun b => b.answer src (fun b => b.dataRead src.toNat m)) s

/-- `MBX[m].RDATA` written. -/
def execMbxRdataWrite (src : Src) (m : Fin 32) (v : BitVec 64) (s : State) : Host.Outcome State Fault Refusal :=
  act (fun b => b.answer src (fun b => b.rdataWrite src.toNat m v.toNat)) s

/-- `MBX[m].RDATA` read. -/
def execMbxRdataRead (src : Src) (m : Fin 32) (s : State) : Host.Outcome State Fault Refusal :=
  act (fun b => b.answer src (fun b => b.rdataRead src.toNat m)) s

/-- 1 written to `MBX[m].DOORBELL`. -/
def execMbxDoorbell (src : Src) (m : Fin 32) (s : State) : Host.Outcome State Fault Refusal :=
  act (fun b => b.answer src (fun b => b.doorbell src.toNat m 1)) s

/-- The receiver of a channel is up and declares it. -/
def execDomainReady (m : Fin 32) (s : State) : Host.Outcome State Fault Refusal := act (fun b => b.channelReady m) s

/-- The domain of a core would power down. -/
def execDomainPowerDown (c : MCore) (s : State) : Host.Outcome State Fault Refusal := act (fun b => b.domainDown c) s

/-- `MBX[m].LOCK` read. -/
def execMbxLockRead (src : Src) (m : Fin 32) (s : State) : Host.Outcome State Fault Refusal :=
  act (fun b => b.answer src (fun b => b.lockRead src.toNat m)) s

/-- `MBX[m].LOCK` written. -/
def execMbxLockRelease (src : Src) (m : Fin 32) (v : BitVec 16) (s : State) : Host.Outcome State Fault Refusal :=
  act (fun b => b.answer src (fun b => b.lockWrite src.toNat m v.toNat)) s

/-- `MBX.LEASE` written. -/
def execLeaseRenew (src : Src) (v : BitVec 64) (s : State) : Host.Outcome State Fault Refusal :=
  act (fun b => b.answer src (fun b => b.leaseWrite src.toNat v.toNat)) s

/-- 1 s has passed without a renewal. -/
def execLeaseExpire (s : State) : Host.Outcome State Fault Refusal := act Box.leaseOut s

/-- OMP_IDLE_S have passed without an accepted message of a session. -/
def execSessionIdle (session : BitVec 12) (s : State) : Host.Outcome State Fault Refusal :=
  act (fun b => match b.sessSlot (srcOf session.toNat) with
    | some k => if b.get .mbxSessState k = 2 then b.sessEnd k else b
    | none => b) s

/-- 1 s has passed since ACCEPT without a valid PROVE. -/
def execHandshakeTimeout (session : BitVec 12) (s : State) : Host.Outcome State Fault Refusal :=
  act (fun b => match b.sessSlot (srcOf session.toNat) with
    | some k => if b.get .mbxSessState k = 1 then b.sessEnd k else b
    | none => b) s

end Sys2Proof.Machine
end

