-- ==== Sys2Proof/Machine/Security.lean ====
section
/-!
DEFINITION. Identity, boot and attestation: the boot chain of each die, measurements and reports, authenticated records,
floors, operator keys, and flash operations (R23, R531, R536 to R554). Keys, hashes and signatures are uninterpreted
(DESIGN CHOICE, log 6).
-/
namespace Sys2Proof.Machine

/-! ### SEC as it acts -/

/-- The acting SEC core, its half, and whether it runs (R512, R514). -/
def Box.secCore (b : Box) : Nat := b.acting 1
@[inherit_doc Box.secCore] def Box.secHalf (b : Box) : Nat := b.secCore / 5
@[inherit_doc Box.secCore] def Box.secRuns (b : Box) : Bool := b.get .fwmCoreState b.secCore == 2

/-- Whether the SEC of a half runs, acting or on the bench. -/
def Box.secUp (b : Box) (h : Nat) : Bool :=
  b.get .fwmCoreState (1 + 5 * h) == 2 || b.get .fwmCoreState (1 + 5 * h) == 3

/-- Whether SEC signs: the acting die has an identity and its entropy source is healthy (R539, R541). -/
def Box.secSigns (b : Box) : Bool :=
  b.secRuns && b.sec.ident.contains b.secHalf && !b.bit .secBootstat 5 b.secHalf

/-- The 32 bytes of a digest. -/
def digest32 (d : Nat) : List Byte := leBytes 32 (d % 2 ^ 256)

/-- SHA3-256 of bytes, as a 256-bit number. -/
def hash (l : List Byte) : Nat := Config.sha3 l % 2 ^ 256

/-- Whether a key's signature over the SHA3-256 of bytes verifies (R536). No key: no. -/
def sigOk (pk : Option (List Byte)) (l sig : List Byte) : Bool :=
  match pk with | some pk => Config.mldsaVerify pk (digest32 (hash l)) sig | none => false

/-! ### Measurements (R544) -/

/-- A measurement register of a die. -/
def Box.meas (b : Box) (h j : Nat) : Nat :=
  ((upTo 4).map (fun m => b.get .secMeas h j m * 2 ^ (64 * m))).sum

/-- A die's measurements 0 to 3 reach the other die. -/
def Box.measSend (b : Box) (h : Nat) : Box :=
  let o := 1 - h
  b.each (upTo 4) (fun b j => { b with sec := { b.sec with
    peer := b.sec.peer.put (4 * o + j) (b.meas h j), peerAt := b.sec.peerAt.put o b.ns } })

/-- One SEC extends a register with an event digest and logs it; the kind is that of the register. -/
def Box.extend (b : Box) (h j digest : Nat) : Box :=
  let v := hash (digest32 (b.meas h j) ++ digest32 digest)
  let b := b.each (upTo 4) (fun b m => b.put .secMeas (v / 2 ^ (64 * m) % 2 ^ 64) h j m)
  let n := (b.sec.log.at h []).length
  let e : MeasEntry := ⟨j, digest % 2 ^ 256, j, b.ns⟩
  let b := if n < 4096 then
      ({ b with sec := { b.sec with log := b.sec.log.upd h [] (· ++ [e]) } }).put .secLogCnt
        (b.get .secLogCnt h / 2 ^ 31 * 2 ^ 31 + n + 1) h
    else b.setBit .secLogCnt 31 h
  if j ≤ 3 ∧ b.secUp h then b.measSend h else b

/-- A runtime extension of registers 4 to 6: the acting SEC, and the other where it runs. The event digest is the SHA3-256
of the event's bytes (DEDUCED, log 37). -/
def Box.extendBoth (b : Box) (j : Nat) (event : List Byte) : Box :=
  let d := hash event
  let b := b.extend b.secHalf j d
  if b.secUp (1 - b.secHalf) then b.extend (1 - b.secHalf) j d else b

/-! ### Records and floors (R546, R547, R549) -/

/-- An authenticated record of a type is written: its generation rises. SEC writes until its flash operations are taken
(DESIGN CHOICE, log 38). -/
def Box.recWrite (b : Box) (t : Nat) : Box :=
  let g := b.sec.gen.at t 0 + 1
  ({ b with sec := { b.sec with gen := b.sec.gen.put t g } }).put .secRecGen g t

/-- A floor has changed: the floor record's generation is measured. -/
def Box.floorMeasure (b : Box) : Box := b.extendBoth 6 (leBytes 8 (b.sec.gen.at 1 0))

/-- Floors of the five roles, the boot stage and the manifest. -/
def floorRegs : List (Reg × Nat) :=
  [(.secFloor, 0), (.secFloor, 1), (.secFloor, 2), (.secFloor, 3), (.secFloor, 4), (.secFloorBoot, 0), (.secFloorManifest, 0)]

/-- A role's floor rises to an image's version, and the manifest floor to its manifest's (R530, R549). -/
def Box.floorRaise (b : Box) (r ver manifest : Nat) : Box :=
  let b' := (b.putIf (decide (b.get .secFloor r < ver)) .secFloor ver r).putIf
    (decide (b.get .secFloorManifest < manifest)) .secFloorManifest manifest
  if b.get .secFloor r < ver ∨ b.get .secFloorManifest < manifest then (b'.recWrite 1).floorMeasure else b

/-- A floor reset statement: signed by the Dravron root key, it names the PLID and the floors (R549). -/
def Box.floorReset (b : Box) (plid : Nat) (floors : List Nat) (root sig : List Byte) : Box :=
  let body := beBytes 4 plid ++ floors.flatMap (leBytes 4)
  if !b.secRuns ∨ plid ≠ b.sec.plid ∨ floors.length ≠ 7 ∨ hash root ≠ Config.rootDigest % 2 ^ 256
    ∨ sigOk (some root) body sig = false then b
  else
    let b := b.each (floorRegs.zip floors) (fun b (e : (Reg × Nat) × Nat) => b.put e.1.1 e.2 e.1.2)
    ((b.recWrite 6).recWrite 1).floorMeasure

/-- The floor of a bundle ID, and a rise of it on the lease holder's command (R549). -/
def Box.bundleFloor (b : Box) (id : Nat) : Nat := ((b.sec.bfloor.find? (·.1 == id)).map (·.2)).getD 0
@[inherit_doc Box.bundleFloor] def Box.bundleFloorUp (b : Box) (id floor : Nat) : Nat × Box :=
  let rest := b.sec.bfloor.filter (fun (e : Nat × Nat) => e.1 != id)
  if !b.secRuns ∨ floor ≤ b.bundleFloor id ∨ 1024 ≤ rest.length then (1, b)
  else
    let b := { b with sec := { b.sec with bfloor := rest ++ [(id, floor)] } }
    (0, (b.recWrite 5).floorMeasure)

/-! ### Operator keys (R551, R552) -/

/-- Sessions that a client certificate under an operator key opened end. -/
def Box.keyRevoked (b : Box) (pk : List Byte) : Box :=
  b.each ((b.mbx.sess.filter (fun e => e.2.opPk == pk)).map (·.1)) Box.sessEnd

/-- Show the number of operator keys, write their record and measure it. -/
def Box.keysShow (b : Box) : Box :=
  let b := (b.put .secOpkeyCnt b.sec.opKeys.length).recWrite 3
  b.extend b.secHalf 1 (Config.recordDigest 3 (b.sec.gen.at 3 0) (b.sec.opKeys.flatMap (·.pk)))

/-- An operator key statement: a number above every one applied, a key added with its purposes or revoked. -/
def Box.keyStatement (b : Box) (num : Nat) (add : Bool) (purpose : Nat) (pk root sig : List Byte) : Box :=
  let body := beBytes 8 num ++ [BitVec.ofNat 8 (flag add), BitVec.ofNat 8 purpose] ++ pk
  if !b.secRuns ∨ num ≤ b.sec.stmt ∨ hash root ≠ b.sec.root ∨ sigOk (some root) body sig = false then b
  else
    let rest := b.sec.opKeys.filter (fun (k : OpKey) => k.pk != pk)
    if add then
      if 32 ≤ rest.length then b
      else
        let k : OpKey := ⟨pk, purpose⟩
        ({ b with sec := { b.sec with stmt := num, opKeys := rest ++ [k] } }).keysShow
    else (({ b with sec := { b.sec with stmt := num, opKeys := rest } }).keysShow).keyRevoked pk

/-- A transfer statement signed by the Dravron root key changes the operator root digest. -/
def Box.rootTransfer (b : Box) (plid digest : Nat) (root sig : List Byte) : Box :=
  if !b.secRuns ∨ plid ≠ b.sec.plid ∨ hash root ≠ Config.rootDigest % 2 ^ 256
    ∨ sigOk (some root) (beBytes 4 plid ++ digest32 digest) sig = false then b
  else ({ b with sec := { b.sec with root := digest } }).recWrite 2

/-! ### Manufacture and board records (R548) -/

/-- The lease holder's board record, applied at the next cold reset. -/
def Box.boardRecord (b : Box) (src : Nat) (p : List Byte) : Nat × Box :=
  if !b.isAgent src ∨ !b.secRuns ∨ p.length ≠ 32 then (1, b)
  else (0, { b with sec := { b.sec with boardNext := some p } })

/-- A replacement of the manufacture record, signed by the device-certification key and naming the same PLID; SEC reads it
at the next cold reset. -/
def Box.mfrRecord (b : Box) (src : Nat) (r : List Byte) : Nat × Box :=
  let p := (r.drop 16).take 0x60
  if !b.isAgent src ∨ !b.secRuns ∨ r.length ≠ 16 + 0x60 + 2420 ∨ r.take 4 ≠ [0x4B, 0x41, 0x52, 0x32]
    ∨ leNat ((r.drop 4).take 2) ≠ 7 ∨ leNat ((r.drop 6).take 2) ≠ 0x60 ∨ beNat (p.take 4) ≠ b.sec.plid
    ∨ sigOk (b.sec.keys.find 3) (r.take (16 + 0x60)) (r.drop (16 + 0x60)) = false then (1, b)
  else (0, { b with sec := { b.sec with mfrNext := some p } })

/-! ### Images (R523, R542, R543) -/

/-- Flash address of an image slot, and of a boot stage bank. -/
def slotAddr (s : Nat) : Nat := 0x01000000 + s * 0x00800000
@[inherit_doc slotAddr] def bootAddr (bank : Nat) : Nat := bank * 0x00800000

/-- Bytes of flash, and those of an area that are not erased. -/
def Box.flashRead (b : Box) (a n : Nat) : List Byte := (upTo n).map (fun i => b.flashByte (a + i))
@[inherit_doc Box.flashRead] def Box.flashArea (b : Box) (a n : Nat) : List (Nat × Byte) :=
  (b.sec.flash.filter (fun e => decide (a ≤ e.1) && decide (e.1 < a + n))).map (fun e => (e.1 - a, e.2))

/-- A field of an image's header. -/
def imgField (img : List Byte) (off n : Nat) : Nat := leNat ((img.drop off).take n)

/-- Version, and manifest version required, of an image. -/
def imgVer (img : List Byte) : Nat := imgField img 8 4
@[inherit_doc imgVer] def imgManifest (img : List Byte) : Nat := imgField img 0x1C 4

/-- Whether a header is one of R543 for a role: magic, role, zeros, the body's length. -/
def headerOk (role : Nat) (hd : List Byte) : Bool :=
  hd.take 4 == [0x4B, 0x46, 0x57, 0x31] && imgField hd 4 1 == role && imgField hd 5 3 == 0
    && decide (imgField hd 0x0C 4 ≤ 8 * 2 ^ 20 - 2676) && (hd.drop 0x40).all (· == 0)

/-- The whole of an image from its header's length, and the image that flash holds at an address. -/
def imgLen (hd : List Byte) : Nat := 256 + imgField hd 0x0C 4 + 2420
@[inherit_doc imgLen] def Box.flashImage (b : Box) (role a : Nat) : Option (List Byte) :=
  let hd := b.flashRead a 256
  if headerOk role hd then some (b.flashRead a (imgLen hd)) else none

/-- Whether an image is signed under a key that its header names. -/
def imgSigned (pk : Option (List Byte)) (img : List Byte) : Bool :=
  pk.any (fun k => imgField img 0x20 32 == hash k) && sigOk pk (img.take (img.length - 2420)) (img.drop (img.length - 2420))

/-- Whether SEC accepts an image for a role: signature, floor, the manifest and KRI versions that it needs. -/
def Box.imageOk (b : Box) (role : Nat) (img : List Byte) : Bool :=
  headerOk role (img.take 256) && img.length == imgLen img && imgSigned (b.sec.keys.find 0) img
    && decide (b.get .secFloor role ≤ imgVer img) && decide (imgManifest img ≤ b.sec.manifestVer)
    && decide (imgField img 0x18 4 ≤ 1)

/-- Digest of an image. -/
def imgDigest (img : List Byte) : Nat := hash img

/-! ### The boot chain (R23, R531, R538, R539, R542) -/

/-- A boot stage that passes steps 2 and 3 of the chain: its root key hashes to the root digest, its manifest verifies,
it is signed under the manifest's firmware key, and neither version is below its floor. -/
def Box.bootStage (b : Box) (bank : Nat) : Option (List Byte) :=
  match b.flashImage 0xB (bootAddr bank) with
  | none => none
  | some img =>
    if hash ((img.drop 256).take 1312) = Config.rootDigest % 2 ^ 256 ∧ Config.manifestOk img
      ∧ imgSigned (some (Config.manifestKey img 0)) img = true ∧ b.get .secFloorBoot ≤ imgVer img
      ∧ b.get .secFloorManifest ≤ Config.manifestVersion img then some img else none

/-- Slots of a role in the order in which boot tries them: the one that runs (a TRIAL, else ACTIVE), then the other. -/
def Box.bootSlots (b : Box) (r : Nat) : List Nat :=
  let l := [2 * r, 2 * r + 1]
  match (l.find? (fun s => b.get .fwmImgState s == 7)).orElse fun _ => l.find? (fun s => b.get .fwmImgState s == 6) with
  | some s => [s, 4 * r + 1 - s]
  | none => l

/-- A role's image is verified and copied to the boot store of a die; the other bank takes its place; or the role does not
start there. -/
def Box.bootRole (b : Box) (h r : Nat) : Box :=
  let good := (b.bootSlots r).filterMap (fun s =>
    match b.flashImage r (slotAddr s) with
    | some img => if b.imageOk r img then some (s, img) else none
    | none => none)
  match good with
  | [] => { b with fwm := { b.fwm with runs := b.fwm.runs.del (r + 5 * h) } }
  | (s, img) :: _ =>
    let b := { b with fwm := { b.fwm with runs := b.fwm.runs.put (r + 5 * h) s } }
    let b := b.extend h 2 (imgDigest img)
    if (b.bootSlots r).head? = some s then b else b.setBit .secBootstat (8 + r) h

/-- The fields of the envelope in the guard. -/
def Box.envLoad (b : Box) (area : List (Nat × Byte)) : Box :=
  let f (k : Nat) : Nat := Config.envelopeField area k
  let regs : List Reg := [.grdEnvFibDbm, .grdEnvCombMa, .grdEnvTuneMa, .grdEnvRingMw, .grdEnvHeatW, .grdEnvModW,
    .grdEnvTripC, .grdEnvGstW, .grdEnvMgmtMbps]
  let b := b.each (regs.zip (upTo 9)) (fun b (e : Reg × Nat) => b.put e.1 (f e.2))
  let b := b.each (upTo 8) (fun b g => b.put .grdBypPermit (f (9 + g)) g)
  b.each (upTo 10) (fun b c => b.put .grdFlashWin (f (17 + c)) c)

/-- North verifies the envelope record and locks the guard; a staged record that verifies takes its place first. With the
guard locked already nothing is loaded (R531). -/
def Box.envBoot (b : Box) : Box :=
  if b.get .grdLock = 1 then b
  else
    let key := (b.sec.keys.find 2).getD []
    let staged := b.flashArea 0x06010000 0x10000
    let b := if staged ≠ [] ∧ Config.envelopeOk key staged then
        let old := b.sec.flash.filter (fun e => !(decide (0x06000000 ≤ e.1) && decide (e.1 < 0x06010000)))
        let f := staged.foldl (fun (f : Store Byte) (e : Nat × Byte) => f.put (0x06000000 + e.1) e.2) old
        { b with sec := { b.sec with flash := f } }
      else b
    let area := b.flashArea 0x06000000 0x10000
    if area ≠ [] ∧ Config.envelopeOk key area then
      ((b.envLoad area).put .grdLock 1).extend 0 3 (Config.envelopeDigest area)
    else b.setBit .secBootstat 4 0

/-- The identity of a die is rebuilt: its public key's digest is shown, and compared with the manufacture record. -/
def Box.identify (b : Box) (h : Nat) (puf : Bool) : Box :=
  let d := hash (Config.identityPk h b.sec.plid)
  let good := puf && (b.sec.mfrDigest.find h).all (· == d)
  if good then
    let b := { b with sec := { b.sec with ident := with_ b.sec.ident h } }
    b.each (upTo 4) (fun b m => b.put .secIdPkDigest (d / 2 ^ (64 * m) % 2 ^ 64) h m)
  else
    let b := ({ b with sec := { b.sec with ident := b.sec.ident.erase h } }).setBit .secBootstat 1 h
    if h = 0 then (b.put .fwmRoleCore 6 1).channelsMove 1 6 else b

/-- The boot chain of a die runs. -/
def Box.bootChain (b : Box) (h halfSel : Nat) (puf : Bool) : Box :=
  let b := { b with sec := { b.sec with straps := b.sec.straps.put h halfSel } }
  if b.sec.straps.find (1 - h) = some halfSel then (b.setBit .secBootstat 0 0).setBit .secBootstat 0 1
  else
    let b := b.put .secBootstat (b.get .secBootstat h &&& 0x21) h
    let b := b.identify h puf
    let stage := match b.bootStage 0 with
      | some img => some (0, img)
      | none => (b.bootStage 1).map (fun img => (1, img))
    match stage with
    | none => b.setBit .secBootstat 2 h
    | some (bank, img) =>
      let b := if bank = 1 then b.setBit .secBootstat 3 h else b
      let keys := (upTo 4).map (fun p => (p, Config.manifestKey img p))
      let b := { b with sec := { b.sec with keys := keys, manifestVer := Config.manifestVersion img } }
      let b := b.extend h 0 (imgDigest img)
      let b := b.extend h 1 (Config.manifestDigest img)
      let b := b.extend h 1 (Config.recordDigest 2 (b.sec.gen.at 2 0) (digest32 b.sec.root))
      let b := b.extend h 1 (Config.recordDigest 3 (b.sec.gen.at 3 0) (b.sec.opKeys.flatMap (·.pk)))
      let b := b.each (range' 1 6) (fun b t => b.put .secRecGen (b.sec.gen.at t 0) t)
      let b := b.each (upTo 5) (fun b r => b.bootRole h r)
      let b := if h = 0 then b.envBoot else b
      b.measSend h

/-! ### The attestation report (R545) -/

/-- Bytes of the report before its signature. -/
def Box.reportBody (b : Box) (h : Nat) (nonce : List Byte) : List Byte :=
  let four (x : Nat) : List Byte :=
    (upTo 4).flatMap (fun j => digest32 (if x = h then b.meas x j else b.sec.peer.at (4 * h + j) 0))
  [0x4B, 0x41, 0x52, 0x31] ++ leBytes 4 b.sec.plid ++ [BitVec.ofNat 8 h] ++ List.replicate 7 0 ++ nonce
    ++ leBytes 8 b.ns ++ four 0 ++ four 1 ++ (range' 4 3).flatMap (fun j => digest32 (b.meas h j))
    ++ leBytes 8 (b.sec.gen.at 1 0) ++ leBytes 4 (b.get .secLogCnt h)
    ++ leBytes 2 (b.get .secBootstat 0) ++ leBytes 2 (b.get .secBootstat 1)

/-- Words of bytes, least significant byte first. -/
def wordsOf : Nat → List Byte → List Nat
  | 0, _ => []
  | n + 1, l => leNat (l.take 8) :: wordsOf n (l.drop 8)

/-- A nonce on a SEC channel: the acting die's report stands in BUF (DEDUCED, log 117). -/
def Box.attest (b : Box) (h m : Nat) (nonce : List Byte) : Box :=
  if !b.secSigns ∨ h ≠ b.secHalf ∨ m < 16 ∨ 19 < m ∨ nonce.length ≠ 32 then b
  else
    let body := b.reportBody h nonce
    let sig := (Config.mldsaSign h (digest32 (hash body)) ++ List.replicate 2420 0).take 2420
    let r := body ++ sig
    let b := b.each ((wordsOf 356 r).zip (upTo 356)) (fun b (e : Nat × Nat) => b.put .mbxBuf e.1 m e.2)
    b.emit (.report m r)

/-! ### Flash operations (R533, R534, R553, R554) -/

/-- The row of the flash table that an address lies in (R523). -/
def flashRow (a : Nat) : Nat :=
  if a < 0x01000000 then 0 else if a < 0x06000000 then 1 else if a < 0x06010000 then 2 else if a < 0x06020000 then 3
  else if a < 0x06120000 then 4 else if a < 0x06130000 then 5
  else if 0x08000000 ≤ a ∧ a < 0x0C000000 then 6 else 7

/-- Energy that an operation needs, nJ (R553). -/
def FlashOp.need (x : FlashOp) : Int := if x.data.isSome then 330000000 else 825000000

/-- An operation is refused: an error response, and counted. -/
def Box.flashRefuse (b : Box) (x : FlashOp) : Box := (b.emit (.answer x.core 1 0)).bump .secHuRefuse

/-- The operation at the head starts, or is refused and the next one tried, at most `n`. -/
def Box.flashStart (b : Box) : Nat → Box
  | 0 => b
  | n + 1 =>
    match b.sec.ops with
    | [] => b
    | x :: t =>
      let e := eAvail (b.get .secHuCapUf) x.vMv
      let b := b.put .secHuAvailMj (min 65535 (e / 1000000).toNat)
      if b.get .secHuCapUf = 0 ∨ e < x.need ∨ b.get .pwrLoss = 1 then
        (({ b with sec := { b.sec with ops := t } }).flashRefuse x).flashStart n
      else b

/-- A program or erase is requested: the guard checks the window, then operations run one at a time. -/
def Box.flashReq (b : Box) (x : FlashOp) (len : Nat) : Box :=
  let row := flashRow x.addr
  let inside := row == flashRow (x.addr + len - 1) && b.bit .grdFlashWin row x.core
  if !inside then (b.guardAct (x.core / 5) 10).emit (.answer x.core 2 0)
  else
    let idle := b.sec.ops = []
    let b := { b with sec := { b.sec with ops := b.sec.ops ++ [x] } }
    if idle then b.flashStart 1 else b

/-- The operation in progress completes, and the next may start. -/
def Box.flashDone (b : Box) : Box :=
  match b.sec.ops with
  | [] => b
  | x :: t =>
    let b := (b.flashApply x).emit (.answer x.core 0 0)
    ({ b with sec := { b.sec with ops := t } }).flashStart t.length

/-! ### The commands -/

/-- A nonce arrives on a SEC channel. -/
def execAttestationReport (h : Half) (m : Fin 32) (nonce : List Byte) (s : State) : Host.Outcome State Fault Refusal :=
  act (fun b => b.attest h m nonce) s

/-- An operator key statement arrives. -/
def execOperatorKeyStatement (num : BitVec 64) (add : Bool) (purpose : BitVec 8) (pk root sig : List Byte) (s : State) :
    Host.Outcome State Fault Refusal := act (fun b => b.keyStatement num.toNat add purpose.toNat pk root sig) s

/-- A transfer statement of the operator root arrives. -/
def execOperatorRootTransfer (plid : BitVec 32) (digest : BitVec 256) (root sig : List Byte) (s : State) :
    Host.Outcome State Fault Refusal := act (fun b => b.rootTransfer plid.toNat digest.toNat root sig) s

/-- A floor reset statement arrives: floors of roles 0 to 4, of the boot stage and of the manifest. -/
def execFloorResetStatement (plid : BitVec 32) (floors : List (BitVec 32)) (root sig : List Byte) (s : State) :
    Host.Outcome State Fault Refusal := act (fun b => b.floorReset plid.toNat (floors.map (·.toNat)) root sig) s

/-- The lease holder writes a board record. -/
def execBoardRecordWrite (src : Src) (record : List Byte) (s : State) : Host.Outcome State Fault Refusal :=
  act (fun b => b.regWrite src (fun b => b.boardRecord src.toNat record)) s

/-- The agent hands over a manufacture record. -/
def execManufactureRecordWrite (src : Src) (record : List Byte) (s : State) : Host.Outcome State Fault Refusal :=
  act (fun b => b.regWrite src (fun b => b.mfrRecord src.toNat record)) s

/-- The lease holder raises a bundle floor. -/
def execBundleFloorRaise (src : Src) (id : BitVec 64) (floor : BitVec 32) (s : State) : Host.Outcome State Fault Refusal :=
  act (fun b => b.regWrite src (fun b =>
    if b.isAgent src.toNat then b.bundleFloorUp id.toNat floor.toNat else (1, b))) s

/-- A core programs up to 256 bytes; another length is an error. -/
def execFlashProgram (core : MCore) (addr : BitVec 28) (data : List Byte) (vMv : BitVec 16) (s : State) :
    Host.Outcome State Fault Refusal :=
  act (fun b => if data = [] ∨ 256 < data.length then b.emit (.answer core 1 0)
    else b.flashReq ⟨core, addr.toNat, some data, vMv.toNat⟩ data.length) s

/-- A core erases the 4 KiB sector of an address. -/
def execFlashErase (core : MCore) (addr : BitVec 28) (vMv : BitVec 16) (s : State) : Host.Outcome State Fault Refusal :=
  act (fun b => b.flashReq ⟨core, addr.toNat / 4096 * 4096, none, vMv.toNat⟩ 4096) s

/-- The operation in progress completes. -/
def execFlashOpDone (s : State) : Host.Outcome State Fault Refusal := act Box.flashDone s

/-- A health test of a die's entropy source fails. -/
def execRngHealthFail (h : Half) (s : State) : Host.Outcome State Fault Refusal := act (fun b => b.setBit .secBootstat 5 h) s

/-- The boot chain of a die runs: the strap it samples, and whether its seed was rebuilt. -/
def execBootChain (h : Half) (halfSel : BitVec 1) (puf : Bool) (s : State) : Host.Outcome State Fault Refusal :=
  act (fun b => b.bootChain h halfSel.toNat puf) s

end Sys2Proof.Machine
end

