-- ==== Sys2Proof/Machine/Guest.lean ====
section
/-!
DEFINITION. The guest die sites: bring-up, the firewall, posted work, power, the fence (R473 to R481, R548).
-/
namespace Sys2Proof.Machine

/-- States of a site (R483). -/
def gsAbsent : Nat := 0
@[inherit_doc gsAbsent] def gsTraining : Nat := 1
@[inherit_doc gsAbsent] def gsReady : Nat := 2
@[inherit_doc gsAbsent] def gsRun : Nat := 3
@[inherit_doc gsAbsent] def gsFenced : Nat := 4
@[inherit_doc gsAbsent] def gsUnpowered : Nat := 5

/-- A site, beside its registers. -/
def Box.gsite (b : Box) (h : Nat) : GstSt := b.gst.at h {}
@[inherit_doc Box.gsite] def Box.setGsite (b : Box) (h : Nat) (g : GstSt → GstSt) : Box :=
  { b with gst := b.gst.upd h {} g }

/-- The state of a site, and whether its link is up. -/
def Box.gstate (b : Box) (h : Nat) : Nat := b.get .gstState h
@[inherit_doc Box.gstate] def Box.glink (b : Box) (h : Nat) : Bool := b.gstate h == gsReady || b.gstate h == gsRun

/-- CTL brings a site up: only with the identity of the manufacture record, which SEC then measures. -/
def Box.guestUp (b : Box) (h id : Nat) (linkUp : Bool) : Box :=
  if b.glink h ∨ b.gstate h = gsFenced then b
  else if b.get .gstId h = 0 ∨ b.get .gstId h ≠ id then
    (b.put .gstState gsAbsent h).raise h .gstId h sevError 0
  else if !linkUp then b.put .gstState gsTraining h
  else (b.put .gstState gsReady h).extendBoth 5 (leBytes 8 id)

/-- The site is fenced for a cause: 1 power, 2 violations, 3 link. -/
def Box.guestFence (b : Box) (h cause : Nat) : Box :=
  let b := ((b.put .gstState gsFenced h).put .gstFenceCause cause h).setGsite h (fun x => { x with viol := [] })
  b.raise h .gstFenceCause h sevError 8

/-- A violation is counted, and VIOL_MAX of them within 1 ms fence the site (R477, R480; DEDUCED, log 115). -/
def Box.violation (b : Box) (h : Nat) : Box :=
  let l := ((b.gsite h).viol.filter (fun t => decide (b.ns < t + 1000000))) ++ [b.ns]
  let b := (b.bump .gstViol h).setGsite h (fun x => { x with viol := l })
  if b.get .gstViolMax ≤ l.length then b.guestFence h 2 else b

/-! ### Transactions (R474 to R478) -/

/-- Fields of the header. -/
def gOp (hd : Nat) : Nat := bits hd 127 124
@[inherit_doc gOp] def gLen (hd : Nat) : Nat := bits hd 123 116 + 1
@[inherit_doc gOp] def gTag (hd : Nat) : Nat := bits hd 115 108
@[inherit_doc gOp] def gWin (hd : Nat) : Nat := bits hd 107 104
@[inherit_doc gOp] def gAddr (hd : Nat) : Nat := bits hd 103 56

/-- Answer a transaction: DATA 8, WRITE_ACK 9, ERROR 11. -/
def Box.guestAns (b : Box) (h op hd cause : Nat) (bytes : List Byte := []) : Box :=
  b.emit (.guest h op (gTag hd) cause (gAddr hd) bytes)
@[inherit_doc Box.guestAns] def Box.guestErr (b : Box) (h hd cause : Nat) : Box := b.guestAns h 11 hd cause

/-- Payload moved in the present 1 µs, for which credits are withheld above the rate: nothing is dropped (R478). -/
def Box.guestMoved (b : Box) (h n : Nat) : Box :=
  b.setGsite h (fun x =>
    if x.movedAt + 1000 ≤ b.ns then { x with moved := n, movedAt := b.ns } else { x with moved := x.moved + n })

/-- Whether an address range lies in the part of the map that a window of a kind may cover (R475). -/
def Box.guestArea (b : Box) (kind a len : Nat) : Bool :=
  match kind with
  | 1 => within a len batonAddr (4 * 0x03000000)
  | 2 =>
    let off := a - lpddrAddr
    let h := off / halfBytes
    decide (lpddrAddr ≤ a) && decide (h < 2)
      && within (off % halfBytes) len (halfBytes - b.get .memWinGib h * 2 ^ 30) (b.get .memWinGib h * 2 ^ 30)
  | _ => false

/-- The firewall's check of a READ (bit 0) or WRITE (bit 1): a cause, or the window's kind. -/
def Box.firewall (b : Box) (h hd op right : Nat) : Except Nat Nat :=
  let w := gWin hd
  let kind := b.get .gstWinKind h w
  if gOp hd ≠ op ∨ bits hd 47 0 ≠ 0 then .error 7
  else if 8 ≤ w ∨ !within (gAddr hd) (gLen hd) (b.get .gstWinBase h w) (b.get .gstWinSize h w)
    ∨ !b.guestArea kind (gAddr hd) (gLen hd) then .error 1
  else if !b.bit .gstWinRights right h w then .error 2
  else .ok kind

/-- A transaction of a site: nothing where it has no link or is fenced; a site that is READY gets an ERROR of which no
cause is stated. -/
def Box.guestOp (b : Box) (h hd : Nat) (f : Box → Box) : Box :=
  if b.gstate h = gsRun then f b
  else if b.gstate h = gsReady then (b.fresh.2).guestErr h hd (b.fresh.1 % 256)
  else b

/-- A transaction that fails its check; one outside every window is a violation. -/
def Box.guestDeny (b : Box) (h hd cause : Nat) : Box :=
  let b := b.guestErr h hd cause
  if cause = 1 then b.violation h else b

/-- What a memory result means to a guest. -/
def guestCause : ReadOut → Nat
  | .ok => 0
  | .bad => 4
  | .tag => 3

/-- READ. -/
def Box.guestReads (b : Box) (m : Mem) (h hd : Nat) : Box :=
  b.guestOp h hd (fun b =>
    match b.firewall h hd 1 0 with
    | .error c => b.guestDeny h hd c
    | .ok 1 => (b.guestMoved h (gLen hd)).guestAns h 8 hd 0 (b.peek m (gAddr hd) (gLen hd))
    | .ok _ =>
      let off := gAddr hd - lpddrAddr
      if !b.memOk off (gLen hd) then b.guestErr h hd 4
      else
        let (r, bytes, b) := b.memRead m off (gLen hd) (b.get .gstWinTag h (gWin hd))
        if r = .ok then (b.guestMoved h (gLen hd)).guestAns h 8 hd 0 bytes else b.guestErr h hd (guestCause r))

/-- WRITE; threads that wait for a line of the baton store go on. -/
def Box.guestWrites (b : Box) (h hd : Nat) (data : List Byte) : Box :=
  b.guestOp h hd (fun b =>
    if data.length ≠ gLen hd then b.guestErr h hd 7
    else match b.firewall h hd 2 1 with
      | .error c => b.guestDeny h hd c
      | .ok 1 =>
        let b := (b.poke (gAddr hd) data).each (linesOf (gAddr hd) data.length) Box.lineWritten
        (b.guestMoved h data.length).guestAns h 9 hd 0
      | .ok _ =>
        let off := gAddr hd - lpddrAddr
        if !b.memOk off data.length then b.guestErr h hd 4
        else
          let (r, b) := b.memWrite off data (b.get .gstWinTag h (gWin hd))
          if r = .ok then (b.guestMoved h data.length).guestAns h 9 hd 0 else b.guestErr h hd (guestCause r))

/-- The descriptor of a POST: POSTED set, RUNG 1, the fields that name a frame 0 (R262, R476). -/
def postImage (body : List Byte) : Nat :=
  let img := setBits (setBits (leNat body) 240 240 1) 507 506 1
  setBits (setBits (setBits (setBits (setBits img 505 505 0) 503 502 0) 498 471 0) 470 463 0) 462 449 0

/-- POST. -/
def Box.guestPosts (b : Box) (h hd : Nat) (body : List Byte) : Box :=
  b.guestOp h hd (fun b =>
    let v := b.get .gstPostq h (gWin hd)
    let c := v % 128
    let q := v / 128 % 8
    if gOp hd ≠ 3 ∨ gLen hd ≠ 64 ∨ body.length ≠ 64 ∨ bits hd 47 0 ≠ 0 then b.guestErr h hd 7
    else if 8 ≤ gWin hd ∨ v / 1024 = 0 ∨ (b.boundTo c q).isNone then b.guestErr h hd 5
    else if 64 ≤ (b.wq c q).length then b.guestErr h hd 6
    else (b.setWq c q (b.wq c q ++ [⟨postImage body, none⟩])).serve c q)

/-! ### Power and commands (R479, R480) -/

/-- Guest power, in 0.1 W, has been above the cap for 1 ms: the throttle wire. At or below the cap the wire is released. -/
def Box.guestOver (b : Box) (h w : Nat) : Box :=
  let b := b.put .gstPwrW w h
  let hot := decide (b.get .gstPwrMaxW h < w)
  if (b.gsite h).throttle = hot then b
  else (b.setGsite h (fun x => { x with throttle := hot })).emit (.throttle h hot)

/-- 10 ms later: still above the cap, the guard removes the guest rail. -/
def Box.guestRail (b : Box) (h w : Nat) : Box :=
  let throttled := (b.gsite h).throttle
  let b := b.guestOver h w
  if throttled ∧ b.get .gstPwrMaxW h < w then
    let b := (b.railsOff [railKey h 10]).setGsite h (fun x => { x with railOff := true })
    (b.guardAct h 7 8).guestFence h 1
  else b

/-- A write to CMD: 1 RUN from READY, 2 STOP from RUN, 3 UNFENCE, after which the rail is enabled and the link trains. -/
def Box.writeGuestCmd (b : Box) (h v : Nat) : Nat × Box :=
  let ok (b : Box) : Nat × Box := (0, b.put .gstCmd v h)
  match v with
  | 1 => if b.gstate h = gsReady then ok (b.put .gstState gsRun h) else (1, b)
  | 2 => if b.gstate h = gsRun then ok (b.put .gstState gsReady h) else (1, b)
  | 3 =>
    if b.gstate h = gsFenced then
      let b := if (b.gsite h).railOff then (b.railsOn [railKey h 10]).setGsite h (fun x => { x with railOff := false }) else b
      ok (b.put .gstState gsTraining h)
    else (1, b)
  | _ => ok b

/-- A write to PWR_MAX_W: at most the site cap of the envelope, and 10 W. -/
def Box.writeGuestCap (b : Box) (h v : Nat) : Nat × Box :=
  if min (b.get .grdEnvGstW) 100 < v then (1, b) else (0, b.put .gstPwrMaxW v h)

/-! ### The commands -/

/-- CTL brings a site up: the identity that the guest reports, and whether its link came up. -/
def execGuestBringUp (h : Half) (id : BitVec 64) (linkUp : Bool) (s : State) : Host.Outcome State Fault Refusal :=
  act (fun b => b.guestUp h id.toNat linkUp) s

/-- A guest READ. -/
def execGuestRead (h : Half) (hdr : BitVec 128) (s : State) : Host.Outcome State Fault Refusal :=
  act (fun b => b.guestReads s.mem h hdr.toNat) s

/-- A guest WRITE. -/
def execGuestWrite (h : Half) (hdr : BitVec 128) (data : List Byte) (s : State) : Host.Outcome State Fault Refusal :=
  act (fun b => b.guestWrites h hdr.toNat data) s

/-- A guest POST. -/
def execGuestPost (h : Half) (hdr : BitVec 128) (body : List Byte) (s : State) : Host.Outcome State Fault Refusal :=
  act (fun b => b.guestPosts h hdr.toNat body) s

/-- Guest power over the cap for 1 ms, in 0.1 W. -/
def execGuestPowerOver (h : Half) (w : BitVec 7) (s : State) : Host.Outcome State Fault Refusal :=
  act (fun b => b.guestOver h w.toNat) s

/-- 10 ms after the throttle wire. -/
def execGuestRailRemove (h : Half) (w : BitVec 7) (s : State) : Host.Outcome State Fault Refusal :=
  act (fun b => b.guestRail h w.toNat) s

/-- `GST[h].CMD` = 1. -/
def execGuestRun (src : Src) (h : Half) (s : State) : Host.Outcome State Fault Refusal :=
  act (fun b => b.regWrite src (fun b => b.writeGuestCmd h 1)) s

/-- `GST[h].CMD` = 2. -/
def execGuestStop (src : Src) (h : Half) (s : State) : Host.Outcome State Fault Refusal :=
  act (fun b => b.regWrite src (fun b => b.writeGuestCmd h 2)) s

/-- `GST[h].CMD` = 3. -/
def execGuestUnfence (src : Src) (h : Half) (s : State) : Host.Outcome State Fault Refusal :=
  act (fun b => b.regWrite src (fun b => b.writeGuestCmd h 3)) s

/-- The guest link fails its retry. -/
def execGuestLinkFail (h : Half) (s : State) : Host.Outcome State Fault Refusal :=
  act (fun b => if b.glink h then b.guestFence h 3 else b) s

/-- A register request of the guest over the sideband. -/
def execGuestSidebandRequest (h : Half) (s : State) : Host.Outcome State Fault Refusal :=
  act (fun b => if b.glink h then (b.emit (.unsupported h)).violation h else b) s

end Sys2Proof.Machine
end

