-- ==== Sys2Proof/Machine/Bundles.lean ====
section
/-!
DEFINITION. Relay bundles: verification by SEC, placement and unloading by CTL, and what RUN does (R270, R271, R273, R287 to
R290, R438, R552).
-/
namespace Sys2Proof.Machine

/-! ### The image (R287) -/

/-- Little-endian field of an image. -/
def krb (img : List Byte) (off n : Nat) : Nat := leNat ((img.drop off).take n)

/-- Thread group `g`, and window `w`, of a header. -/
def krbGroup (img : List Byte) (g : Nat) : TGroup :=
  let o := 0x80 + 16 * g
  ⟨krb img o 4, krb img (o + 4) 1, krb img (o + 5) 1, krb img (o + 6) 1⟩
@[inherit_doc krbGroup] def krbWindow (img : List Byte) (w : Nat) : Window :=
  let o := 0x100 + 16 * w
  ⟨krb img o 1, krb img (o + 1) 1, 0, krb img (o + 4) 8, 0⟩

/-- Whether an entry's group, or window, is in range. Entries past the declared number are not constrained. -/
def krbGroupOk (img : List Byte) (g : Nat) : Bool :=
  let x := krbGroup img g
  decide (x.entry < krb img 0x28 4) && x.entry % 4 == 0 && decide (1 ≤ x.threads) && decide (x.prio ≤ 3)
    && krb img (0x80 + 16 * g + 7) 9 == 0
@[inherit_doc krbGroupOk] def krbWindowOk (img : List Byte) (w : Nat) : Bool :=
  let x := krbWindow img w
  let o := 0x100 + 16 * w
  (x.kind == 1 || (x.kind == 2 && decide (x.size ≤ 2))) && decide (x.rights ≤ 3) && krb img (o + 2) 2 == 0
    && krb img (o + 12) 4 == 0

/-- Whether the fixed fields of a header lie within their ranges. -/
def krbFixedOk (img : List Byte) : Bool :=
  img.take 4 == [0x4B, 0x52, 0x42, 0x31] && krb img 4 2 == 1 && decide (krb img 6 2 ≤ 1)
    && decide (1 ≤ krb img 0x14 2) && decide (krb img 0x14 2 ≤ 16) && decide (1 ≤ krb img 0x16 2)
    && decide (krb img 0x16 2 ≤ 128) && krb img 0x18 4 % 64 == 0 && krb img 0x1C 4 % 64 == 0 && krb img 0x20 8 % 64 == 0
    && krb img 0x28 4 % 4 == 0 && decide (krb img 0x28 4 ≤ 65536) && decide (1 ≤ krb img 0x2C 1)
    && decide (krb img 0x2C 1 ≤ 8) && decide (krb img 0x2D 1 ≤ 8) && decide (krb img 0x2E 2 ≤ 1)
    && krb img 0x30 16 == 0 && krb img 0x180 128 == 0

/-- Whether a whole header is in range: the group threads sum to the threads per core, the image has its length. -/
def krbOk (img : List Byte) : Bool :=
  krbFixedOk img && (upTo (krb img 0x2C 1)).all (krbGroupOk img) && (upTo (krb img 0x2D 1)).all (krbWindowOk img)
    && ((upTo (krb img 0x2C 1)).map (fun g => (krbGroup img g).threads)).sum == krb img 0x14 2
    && img.length == 512 + krb img 0x28 4 + krb img 0x1C 4 + 2420

/-- Code and constant sections of an image. -/
def krbCode (img : List Byte) : List Byte := (img.drop 512).take (krb img 0x28 4)
@[inherit_doc krbCode] def krbConsts (img : List Byte) : List Byte := (img.drop (512 + krb img 0x28 4)).take (krb img 0x1C 4)

/-- The bundle that an image declares. -/
def krbBundle (img : List Byte) : Bundle :=
  { id := krb img 8 8, ver := krb img 0x10 4, digest := krb img 0x40 32, cores := krb img 0x16 2,
    threads := krb img 0x14 2, scratchThr := krb img 0x18 4, consts := krbConsts img, code := krbCode img,
    baton := krb img 0x20 8, groups := (upTo (krb img 0x2C 1)).map (krbGroup img),
    windows := (upTo (krb img 0x2D 1)).map (krbWindow img), sr := bitAt (krb img 0x2E 2) 0 }

/-! ### Acceptance (R288, R549, R552) -/

/-- Bundle-signing keys that SEC holds: the manifest's, and operator keys with purpose bit 1. -/
def Box.bundleKeys (b : Box) : List (List Byte) :=
  (match b.sec.keys.find 1 with | some k => [k] | none => []) ++
    ((b.sec.opKeys.filter (fun k => bitAt k.purpose 1)).map (·.pk))

/-- SEC's cause for refusing an image; 0 when it accepts. -/
def Box.bundleCause (b : Box) (img : List Byte) : Nat :=
  let pk := b.bundleKeys.find? (fun k => hash k == krb img 0x60 32)
  if img.length < 512 + 2420 then 3
  else if sigOk pk (img.take (img.length - 2420)) (img.drop (img.length - 2420)) = false then 1
  else if krb img 0x10 4 < b.bundleFloor (krb img 8 8) then 2
  else if krbOk img = false then 3
  else if hash (krbCode img ++ krbConsts img) ≠ krb img 0x40 32 then 1
  else 0

/-- An image arrives for a slot. SEC takes it where it runs and the slot is EMPTY with no accepted bundle (DEDUCED,
log 39). -/
def Box.bundleLoad (b : Box) (slot : Nat) (img : List Byte) : Box :=
  if !b.secRuns ∨ b.get .rlyBundleState slot ≠ 0 ∨ (b.rly.bundles.find slot).isSome then b
  else
    let c := b.bundleCause img
    if c ≠ 0 then b.put .rlyBundleErr c slot
    else
      let x := krbBundle img
      let b := b.extendBoth 4 (leBytes 8 x.id ++ leBytes 4 x.ver ++ digest32 x.digest)
      { b with rly := { b.rly with bundles := b.rly.bundles.put slot x } }

/-! ### Placement (R289) -/

/-- First offset, a multiple of `step` from `lo`, at which `len` units fit below `hi` clear of the used ranges (base, length). -/
def firstFit (lo hi len step : Nat) (used : List (Nat × Nat)) : Option Nat :=
  let up (n : Nat) : Nat := (n + step - 1) / step * step
  let cands := up lo :: (used.map (fun u => up (u.1 + u.2))).filter (lo ≤ ·)
  let fits (o : Nat) : Bool := decide (o + len ≤ hi) && used.all (fun u => decide (o + len ≤ u.1) || decide (u.1 + u.2 ≤ o))
  (cands.filter fits).foldl (fun (a : Option Nat) o => some (a.elim o (min o))) none

/-- Scratch partitions, and instruction-store words, of a core in use. -/
def Box.scratchUsed (b : Box) (c : Nat) : List (Nat × Nat) :=
  b.rly.bundles.filterMap (fun e => (e.2.at_ c).map (fun p => (p.2, e.2.scratchLen)))
@[inherit_doc Box.scratchUsed] def Box.istoreUsed (b : Box) (c : Nat) : List (Nat × Nat) :=
  b.rly.bundles.filterMap (fun e => (e.2.at_ c).map (fun p => (p.1, e.2.code.length / 4)))

/-- Threads of a core that belong to no bundle. -/
def Box.freeThreads (b : Box) (c : Nat) : List Nat :=
  (threadsOf c).filter (fun t => (b.thr t).bundle.isNone && b.tst t == thFree)

/-- Queues that a bundle claims of each core. -/
def Bundle.claims (x : Bundle) : List Nat := (upTo 8).filter (fun q => x.groups.any (fun g => bitAt g.queues q))

/-- Baton areas of a die in use. -/
def Box.batonUsed (b : Box) (d : Nat) : List (Nat × Nat) :=
  b.rly.bundles.filterMap (fun e => (e.2.batonAt.find d).map (fun o => (o, e.2.baton)))

/-- Bytes of a die's store that bundle areas may take: what valid groups' quotas and the shared pool leave (DESIGN
CHOICE, log 40). -/
def Box.areaRoom (b : Box) : Nat :=
  let quota := ((b.regs.filter (fun e => e.1.reg == .colGrpQuotaKib && b.bit .colGrpCtrl 0 e.1.i)).map (·.2)).sum
  0x03000000 - 8 * 2 ^ 20 - quota * 1024

/-- A baton area on each die, none when one does not fit; a bundle that declares no bytes has none. -/
def Box.batonAreas (b : Box) (len : Nat) : Option (Store Nat) :=
  if len = 0 then some []
  else (upTo 4).foldl (fun (a : Option (Store Nat)) d =>
    match a, firstFit 0 (b.areaRoom) len 64 (b.batonUsed d) with
    | some l, some o => some (l.put d o)
    | _, _ => none) (some [])

/-- Ranges of LPDDR6 offsets of a half that windows take, of bundles and of guests; tags in use. -/
def Box.windowsUsed (b : Box) : List (Nat × Nat) :=
  b.liveWindows.map (fun w => (w.base - lpddrAddr, w.size)) ++ [0, 1].flatMap (fun h => (upTo 8).filterMap (fun w =>
    if b.get .gstWinKind h w = 2 then some (b.get .gstWinBase h w - lpddrAddr, b.get .gstWinSize h w) else none))
@[inherit_doc Box.windowsUsed] def Box.tagsUsed (b : Box) : List Nat :=
  b.liveWindows.map (·.tag) ++ [0, 1].flatMap (fun h => (upTo 8).filterMap (fun w =>
    if b.get .gstWinKind h w = 2 then some (b.get .gstWinTag h w) else none))

/-- Windows get a place in the reserve of a half, north first, and a tag that no live window holds (R273, R435, R438). -/
def Box.placeWindows (b : Box) : List Window → List (Nat × Nat) → List Nat → Option (List Window)
  | [], _, _ => some []
  | w :: rest, used, tags =>
    if w.kind ≠ 1 then (b.placeWindows rest used tags).map (w :: ·)
    else
      let at_ (h : Nat) : Option Nat := firstFit (h * halfBytes + b.winBase h) ((h + 1) * halfBytes) w.size 4096 used
      match (at_ 0).orElse fun _ => at_ 1, (range' 0x20 224).find? (fun t => !tags.contains t) with
      | some o, some tag =>
        (b.placeWindows rest ((o, w.size) :: used) (tag :: tags)).map ({ w with base := lpddrAddr + o, tag := tag } :: ·)
      | _, _ => none

/-- Cores that may carry a bundle. -/
def Box.placeable (b : Box) : List Nat :=
  (upTo 128).filter (fun c => b.get .rlyState c != coreQuar && b.get .rlyState c != coreHeat)

/-- The cores a bundle takes and its places there, or the cause: each need narrows the cores further. -/
def Box.placeCores (b : Box) (x : Bundle) : Except Nat (List (Nat × Nat × Nat)) :=
  let n := x.cores
  let l1 := b.placeable.filter (fun c => decide (x.threads ≤ (b.freeThreads c).length))
  let scr (c : Nat) : Option Nat := firstFit 0 (2 ^ 18) x.scratchLen 64 (b.scratchUsed c)
  let ist (c : Nat) : Option Nat := firstFit 0 16384 (x.code.length / 4) 1 (b.istoreUsed c)
  let l2 := l1.filter (fun c => (scr c).isSome)
  let l3 := l2.filter (fun c => (ist c).isSome)
  let l4 := l3.filter (fun c => x.claims.all (fun q => (b.boundTo c q).isNone))
  if l1.length < n then .error 4 else if l2.length < n then .error 5 else if l3.length < n then .error 6
  else if l4.length < n then .error 7
  else .ok ((l4.take n).map (fun c => (c, (ist c).getD 0, (scr c).getD 0)))

/-- Little-endian 32-bit words of a code section. -/
def codeWords : Nat → List Byte → List Nat
  | 0, _ => []
  | n + 1, l => leNat (l.take 4) :: codeWords n (l.drop 4)

/-- Groups of a bundle's threads on a core, in order: group 0's first. -/
def Bundle.groupList (x : Bundle) : List Nat :=
  (x.groups.zip (upTo x.groups.length)).flatMap (fun (e : TGroup × Nat) => List.replicate e.1.threads e.2)

/-- A bundle on one core: code, constants, threads, queues. -/
def Box.placeOn (b : Box) (slot : Nat) (x : Bundle) (p : Nat × Nat × Nat) : Box :=
  let c := p.1
  let n := x.code.length / 4
  let b := b.each ((codeWords n x.code).zip (upTo n)) (fun b (e : Nat × Nat) => b.put .rlyIstore e.1 c (p.2.1 + e.2))
  let b := if x.consts = [] then b else b.poke (scratchKey c p.2.2) x.consts
  let b := b.move .rlyScrUsed x.scratchLen c
  let b := b.each (((b.freeThreads c).take x.threads).zip x.groupList) (fun b (e : Nat × Nat) =>
    b.setThr e.1 (fun t => { t with bundle := some slot, group := e.2 }))
  b.each x.claims (fun b q => b.put .rlyWqBundle slot c q)

/-- LPDDR6 windows of a bundle written with zeros under the tag of what holds them. -/
def Box.zeroWindows (b : Box) (x : Bundle) : Box :=
  b.each (x.windows.filter (·.kind == 1)) (fun b w => b.memZero (w.base - lpddrAddr) w.size)

/-- CTL places the accepted bundle of a slot, or records the cause and gives it up. -/
def Box.bundlePlace (b : Box) (slot : Nat) : Box :=
  match b.rly.bundles.find slot with
  | none => b
  | some x =>
    if b.ctlRuns = false ∨ b.get .rlyBundleState slot ≠ 0 then b
    else
      let drop (cause : Nat) : Box :=
        ({ b with rly := { b.rly with bundles := b.rly.bundles.del slot } }).put .rlyBundleErr cause slot
      match b.placeCores x with
      | .error c => drop c
      | .ok cores =>
        match b.batonAreas x.baton with
        | none => drop 8
        | some areas =>
          match b.placeWindows x.windows b.windowsUsed b.tagsUsed with
          | none => drop 9
          | some ws =>
            let b := b.each cores (fun b p => b.placeOn slot x p)
            let x := { x with placed := cores, batonAt := areas, windows := ws }
            let b := ({ b with rly := { b.rly with bundles := b.rly.bundles.put slot x } }).zeroWindows x
            let b := (b.put .rlyBundleId x.id slot).put .rlyBundleVer x.ver slot
            let b := b.each (upTo 4) (fun b m => b.put .rlyBundleDigest (x.digest / 2 ^ (64 * m) % 2 ^ 64) slot m)
            b.put .rlyBundleState 1 slot

/-- CTL unloads a LOADED slot: its threads, queues, scratch and windows are free again. -/
def Box.bundleUnload (b : Box) (slot : Nat) : Box :=
  match b.rly.bundles.find slot with
  | none => b
  | some x =>
    if b.ctlRuns = false ∨ b.get .rlyBundleState slot ≠ 1 then b
    else
      let b := b.each x.placed (fun b p =>
        let b := b.each (b.bundleThreads slot p.1) (fun b t => b.setThr t (fun _ => {}))
        let b := b.move .rlyScrUsed (-(x.scratchLen : Int)) p.1
        b.each (upTo 8) (fun b q =>
          if b.get .rlyWqBundle p.1 q = slot then
            let l := b.wq p.1 q ++ b.heldFor p.1 q
            (((b.setWq p.1 q []).setHeldFor p.1 q []).each l Box.dropWork).put .rlyWqBundle 0x1F p.1 q
          else b))
      let b := ({ b with rly := { b.rly with bundles := b.rly.bundles.del slot } }).zeroWindows x
      let b := ((b.put .rlyBundleId 0 slot).put .rlyBundleVer 0 slot).put .rlyBundleState 0 slot
      b.each (upTo 4) (fun b m => b.put .rlyBundleDigest 0 slot m)

/-! ### RUN (R290, R438) -/

/-- Every placed thread of a bundle. -/
def Box.allThreads (b : Box) (slot : Nat) (x : Bundle) : List Nat := x.placed.flatMap (fun p => b.bundleThreads slot p.1)

/-- Held descriptors of a bundle's queues enter. -/
def Box.refillAll (b : Box) (slot : Nat) (x : Bundle) : Box :=
  b.each x.placed (fun b p => b.each (upTo 8) (fun b q =>
    if b.get .rlyWqBundle p.1 q = slot then b.wqRoomAt p.1 q else b))

/-- A commit applies RUN: a LOADED bundle's threads start with its windows zero; a RUNNING one stops. Threads that are STOPPED,
or wait for work with no frame held, become FREE at once (DEDUCED, log 41). -/
def Box.bundleRun (b : Box) (slot v : Nat) : Box :=
  match b.rly.bundles.find slot with
  | none => b
  | some x =>
    if v = 1 ∧ b.get .rlyBundleState slot = 1 then
      let b := (b.zeroWindows x).put .rlyBundleState 2 slot
      (b.each (b.allThreads slot x) Box.startThr).refillAll slot x
    else if v = 0 ∧ b.get .rlyBundleState slot = 2 then
      let b := { b with rly := { b.rly with bundles := b.rly.bundles.put slot { x with stopping := true } } }
      let b := b.each (b.allThreads slot x) (fun b t =>
        let idle : Bool := match (b.thr t).waits with | .queue .. => (b.thr t).slots == [] | _ => false
        if b.tst t = thStopped ∨ (b.tst t = thIdle ∧ idle = true) then b.freeThr t else b)
      b.bundleEnd slot
    else b

/-! ### The commands -/

/-- SEC receives a bundle image. -/
def execBundleLoad (slot : Fin 16) (image : List Byte) (s : State) : Host.Outcome State Fault Refusal :=
  act (fun b => b.bundleLoad slot image) s

/-- CTL places an accepted bundle. -/
def execBundlePlace (slot : Fin 16) (s : State) : Host.Outcome State Fault Refusal := act (fun b => b.bundlePlace slot) s

/-- CTL unloads a LOADED bundle. -/
def execBundleUnload (slot : Fin 16) (s : State) : Host.Outcome State Fault Refusal := act (fun b => b.bundleUnload slot) s

end Sys2Proof.Machine
end

