-- ==== Sys2Proof/Machine/Firmware.lean ====
section
/-!
DEFINITION. Management cores, log records and firmware images (R511 to R530).
-/
namespace Sys2Proof.Machine

/-! ### Cores (R511 to R518) -/

/-- States of a core. -/
def coreOff : Nat := 0
@[inherit_doc coreOff] def coreBoot : Nat := 1
@[inherit_doc coreOff] def coreActs : Nat := 2
@[inherit_doc coreOff] def coreBench : Nat := 3
@[inherit_doc coreOff] def coreAgain : Nat := 4
@[inherit_doc coreOff] def coreFailed : Nat := 5

/-- The state of a core, and its role. -/
def Box.cst (b : Box) (n : Nat) : Nat := b.get .fwmCoreState n
@[inherit_doc Box.cst] def roleOf (n : Nat) : Nat := n % 5

/-- A core stops: the channels that lead to it are not READY; CTL leaves the records it handles in their queue (R509, R514). -/
def Box.coreStop (b : Box) (n st : Nat) : Box :=
  let b := (b.put .fwmCoreState st n).channelsRestart n
  if n = b.acting 0 then { b with mar := { b.mar with handling := [] } } else b

/-- A core restarts from the image its die holds for it. -/
def Box.coreGo (b : Box) (n : Nat) : Box := (b.bump .fwmCoreRestarts n).coreStop n coreAgain

/-- A core becomes FAILED; OPT's and PWR's failures raise alarm records, and PWR's parks the half's relay cores (R516, R518). -/
def Box.coreFail (b : Box) (n : Nat) : Box :=
  let h := n / 5
  let b := b.coreStop n coreFailed
  if roleOf n = 3 then b.raise h .fwmCoreState n sevAlarm 0
  else if roleOf n = 4 then
    let b := { b with fwm := { b.fwm with pwrPark := with_ b.fwm.pwrPark h } }
    ((b.force 2 1).showCores h).raise h .fwmCoreState n sevAlarm 0
  else b

/-- A restart that CMD = 1 did not ask for: the third within 60 s makes the core FAILED. -/
def Box.coreUnasked (b : Box) (n : Nat) : Box :=
  let l := b.ns :: (b.fwm.restarts.at n []).filter (fun t => b.ns < t + 60000000000)
  let b := { b with fwm := { b.fwm with restarts := b.fwm.restarts.put n (l.take 3) } }
  if 3 ≤ l.length then (b.bump .fwmCoreRestarts n).coreFail n else b.coreGo n

/-! ### Activations (R527 to R529) -/

/-- The cores of a role in the order in which they restart: south first. -/
def roleCores (r : Nat) : List Nat := [r + 5, r]

/-- The other bank of a slot's role. -/
def otherBank (s : Nat) : Nat := s / 2 * 2 + (1 - s % 2)

/-- The activation at the head goes on: its next core that is not OFF restarts from its slot; with none left the slot is
TRIAL and the other bank PREVIOUS, or the revert is over; and the next activation begins. At most `n` moves. -/
def Box.actNext (b : Box) : Nat → Box
  | 0 => b
  | n + 1 =>
    match b.fwm.acts with
    | [] => b
    | a :: rest =>
      match a.cores with
      | c :: _ =>
        if b.cst c = coreOff then
          let a' : Activation := { a with cores := a.cores.drop 1 }
          ({ b with fwm := { b.fwm with acts := a' :: rest } }).actNext n
        else ({ b with fwm := { b.fwm with runs := b.fwm.runs.put c a.slot } }).coreGo c
      | [] =>
        let b := { b with fwm := { b.fwm with acts := rest } }
        let b := if a.revert then b
          else
            let b := (b.put .fwmImgState 7 a.slot).put .fwmImgState 8 (otherBank a.slot)
            { b with fwm := { b.fwm with
              trialAt := b.fwm.trialAt.put a.slot b.ns
              trialWd := (roleCores (a.slot / 2)).foldl (fun (l : Store Nat) c => l.del c) b.fwm.trialWd } }
        b.actNext n

/-- An activation joins those that run one after another. -/
def Box.actAdd (b : Box) (slot : Nat) (revert : Bool) : Box :=
  let idle := b.fwm.acts = []
  let a : Activation := ⟨slot, roleCores (slot / 2), revert⟩
  let b := { b with fwm := { b.fwm with acts := b.fwm.acts ++ [a] } }
  if idle then b.actNext 8 else b

/-- A slot is activated. -/
def Box.activateSlot (b : Box) (slot : Nat) : Box := (b.put .fwmImgState 5 slot).actAdd slot false

/-- The role of a slot reverts to the other bank: an activation of the slot ends, the cores restart from the image that
ran before (R529). -/
def Box.revertSlot (b : Box) (slot : Nat) : Box :=
  let o := otherBank slot
  let b := ((b.put .fwmImgState 9 slot).put .fwmImgState 6 o).raise (b.secHalf) .fwmImgState slot sevAlarm 0
  let b := { b with fwm := { b.fwm with acts := b.fwm.acts.filter (fun (a : Activation) => a.slot != slot) } }
  b.actAdd o true

/-- FW_ACTIVATE fires for a slot at a lap: the outcome of R62. A slot that is not ARMED is left alone. -/
def Box.fwActivate (b : Box) (slot lap outcome : Nat) : Nat × Box :=
  if b.get .fwmImgState slot ≠ 3 then (outcome, b)
  else if b.get .fwmEmerg ≠ 0 then
    let b := b.put .fwmImgState 4 slot
    (2, { b with fwm := { b.fwm with deferred := b.fwm.deferred.put slot (b.lapStart lap) } })
  else (outcome, b.activateSlot slot)

/-- Slots that an ended emergency released begin, in ascending number (R528). -/
def Box.actReleased (b : Box) : Box :=
  let l := (upTo 10).filter (fun s => b.fwm.released.contains s && b.get .fwmImgState s == 4)
  ({ b with fwm := { b.fwm with released := [] } }).each l Box.activateSlot

/-- The emergency still holds 60 s after the firing lap: the activation is cancelled. -/
def Box.deferredOut (b : Box) (slot : Nat) : Box :=
  if (b.fwm.deferred.find slot).isNone ∨ b.get .fwmEmerg = 0 then b
  else
    let b := { b with fwm := { b.fwm with deferred := b.fwm.deferred.del slot } }
    ((b.put .fwmImgState 2 slot).bump .fwmActCancel).raise b.secHalf .fwmActCancel slot sevError 0

/-! ### Restarts complete, or do not (R515 to R517) -/

/-- A core writes READY: it runs, or waits on the bench; an activation may go on. -/
def Box.coreReady (b : Box) (n : Nat) : Box :=
  if b.cst n ≠ coreBoot ∧ b.cst n ≠ coreAgain then b
  else
    let acts := decide (3 ≤ roleOf n) || b.acting (roleOf n) == n
    let b := b.put .fwmCoreState (if acts then coreActs else coreBench) n
    let b := if roleOf n = 1 then b.clrBit .secBootstat 5 (n / 5) else b
    let b := if roleOf n = 4 ∧ b.fwm.pwrPark.contains (n / 5) then
        let b := { b with fwm := { b.fwm with pwrPark := b.fwm.pwrPark.erase (n / 5) } }
        (if b.fwm.pwrPark = [] then b.unforce 2 else b).showCores (n / 5)
      else b
    let b := if n = b.acting 0 then b.ctlNext else b
    match b.fwm.acts with
    | a :: rest =>
      if a.cores.head? = some n then
        let a' : Activation := { a with cores := a.cores.drop 1 }
        ({ b with fwm := { b.fwm with acts := a' :: rest } }).actNext 16
      else b
    | [] => b

/-- A core's write of CMD: 1 restarts it, for the agent, CTL or the core itself; 3 from the core says READY. -/
def Box.coreCmd (b : Box) (src n v : Nat) : Nat × Box :=
  let b' := b.put .fwmCoreCmd v n
  if v = 1 then
    if !b.isAgent src ∧ src ≠ b.acting 0 ∧ src ≠ n then (4, b)
    else if b.cst n = coreOff then (1, b)
    else (0, b'.coreGo n)
  else if v = 3 then (if src = n then (0, b'.coreReady n) else (4, b))
  else (0, b')

/-- The role of an activation that restarts this core now, or the TRIAL slot the core runs. -/
def Box.trialOf (b : Box) (n : Nat) : Option Nat :=
  match b.fwm.acts with
  | a :: _ => if a.cores.head? = some n ∧ a.revert = false then some a.slot else none
  | [] => (b.fwm.runs.find n).filter (fun s => b.get .fwmImgState s == 7)

/-- BOOT_TO_MS passes without READY: the role reverts where it runs a new image, else the core restarts again. A core
that fails in a revert leaves it to the next. -/
def Box.bootOut (b : Box) (n : Nat) : Box :=
  if b.cst n ≠ coreBoot ∧ b.cst n ≠ coreAgain then b
  else match b.trialOf n with
    | some s => b.revertSlot s
    | none =>
      let b := b.coreUnasked n
      match b.fwm.acts with
      | a :: rest =>
        if a.cores.head? = some n ∧ b.cst n = coreFailed then
          let a' : Activation := { a with cores := a.cores.drop 1 }
          ({ b with fwm := { b.fwm with acts := a' :: rest } }).actNext 16
        else b
      | [] => b

/-- A watchdog expires: an error record and a restart; the third within 60 s of TRIAL reverts the role. -/
def Box.watchdogOut (b : Box) (n : Nat) : Box :=
  if b.cst n ≠ coreActs ∧ b.cst n ≠ coreBench then b
  else
    let b := b.raise (n / 5) .fwmCoreWd n sevError 0
    let fresh := (b.fwm.runs.find n).filter (fun s =>
      b.get .fwmImgState s == 7 && (b.fwm.trialAt.find s).any (fun t => decide (b.ns ≤ t + 60000000000)))
    match fresh with
    | none => b.coreUnasked n
    | some s =>
      let k := b.fwm.trialWd.at n 0 + 1
      let b := { b with fwm := { b.fwm with trialWd := b.fwm.trialWd.put n k } }
      if 3 ≤ k then (b.coreUnasked n).revertSlot s else b.coreUnasked n

/-- The bench core of a role, when there is one. -/
def Box.benchOf (b : Box) (r : Nat) : Nat := 2 * r + 5 - b.acting r

/-- A role's acting core changes. -/
def Box.roleMove (b : Box) (r core : Nat) : Box :=
  let old := b.acting r
  let b := (b.put .fwmRoleCore core r).put .fwmCoreState coreActs core
  let b := if b.cst old = coreActs then b.put .fwmCoreState coreBench old else b
  let b := b.channelsMove r core
  if r = 0 then ({ b with mar := { b.mar with handling := [] } }).ctlNext else b

/-- The bench core of a FAILED acting core takes its role, with an alarm record. -/
def Box.takeover (b : Box) (r : Nat) : Box :=
  if b.cst (b.acting r) ≠ coreFailed ∨ b.cst (b.benchOf r) ≠ coreBench then b
  else (b.roleMove r (b.benchOf r)).raise (b.benchOf r / 5) .fwmRoleCore r sevAlarm 0

/-- The agent hands a role back to its former core, while that is in BENCH. -/
def Box.handBack (b : Box) (src r v : Nat) : Nat × Box :=
  let b' := b.put .fwmRoleCmd v r
  if !b.isAgent src then (4, b)
  else if v = 0 then (0, b')
  else if 3 ≤ r ∨ b.acting r = r ∨ b.cst r ≠ coreBench then (1, b)
  else (0, b'.roleMove r r)

/-- The acting core's checkpoint reaches its bench core. -/
def Box.checkpoint (b : Box) (r : Nat) : Box :=
  if b.cst (b.acting r) ≠ coreActs ∨ b.cst (b.benchOf r) ≠ coreBench then b
  else ({ b with fwm := { b.fwm with checkpoint := b.fwm.checkpoint.put r b.ns } }).emit (.checkpoint r)

/-! ### The log ring (R520 to R522) -/

/-- Half offset of the log ring, and its length in records. -/
def logRing : Nat := 0x280000000
@[inherit_doc logRing] def logLen : Nat := 33554432

/-- The records queued for a half's log writer. -/
def Box.logQ (b : Box) (h : Nat) : List LogRec := b.fwm.logq.at h []

/-- A record of a core enters the queue, numbered and stamped. -/
def Box.logTake (b : Box) (n kind sev code payload : Nat) : Box :=
  let (q, b) := b.nextLogSeq n
  b.logPush (n / 5) n kind sev code q payload

/-- A core writes LOGCMD: its record enters the queue, or waits. -/
def Box.logWrite (b : Box) (n cmd : Nat) : Box :=
  let b := b.put .fwmCoreLogcmd cmd n
  let payload := ((upTo 6).map (fun m => b.get .fwmCoreLogbuf n m * 2 ^ (64 * m))).sum
  let sev := cmd / 2 ^ 16 % 16
  if (b.logQ (n / 5)).length < 256 then b.logTake n 0 sev (cmd % 2 ^ 16) payload
  else { b with fwm := { b.fwm with
    logWait := b.fwm.logWait.put n ⟨b.ns, b.stamp % 65536, n, 0, sev, cmd % 2 ^ 16, 0, payload⟩ } }

/-- The writes of a half that wait, earliest first where the times differ. -/
def Box.logWaiting (b : Box) (h : Nat) : Option (Nat × LogRec) :=
  (b.fwm.logWait.filter (fun e => e.1 / 5 == h)).foldl
    (fun (a : Option (Nat × LogRec)) e => match a with
      | none => some e
      | some x => if e.2.ns < x.2.ns then some e else some x) none

/-- A write has waited 1 µs: the earliest is discarded. -/
def Box.logExpire (b : Box) (h : Nat) : Box :=
  match b.logWaiting h with
  | some (n, _) => ({ b with fwm := { b.fwm with logWait := b.fwm.logWait.del n } }).bump .fwmLogDrop h
  | none => b

/-- A core stores to TRACE. -/
def Box.trace (b : Box) (n v : Nat) : Box :=
  let b := b.put .fwmCoreTrace v n
  let id := v / 2 ^ 48 % 2 ^ 16
  if b.bit .fwmCoreTpEn (id / 2 ^ 10) n = false then b
  else if 128 < (b.logQ (n / 5)).length then b.bump .fwmTraceDrop (n / 5)
  else b.logTake n 1 0 id (v % 2 ^ 48)

/-- The log writer of a half writes its next record to the ring, where memory takes it; then a write that waits enters. -/
def Box.logDrain (b : Box) (h : Nat) : Box :=
  match b.logQ h with
  | [] => b
  | r :: rest =>
    if !b.memReady h then b
    else
      let w := b.get .fwmLogWr h
      let (_, b) := b.memWrite (h * halfBytes + logRing + 64 * w) (leBytes 64 r.image) 3
      let b := b.put .fwmLogWr ((w + 1) % logLen) h
      let b := if w + 1 = logLen then b.bump .fwmLogWrap h else b
      let b := { b with fwm := { b.fwm with
        logq := if rest = [] then b.fwm.logq.del h else b.fwm.logq.put h rest
        tail := b.fwm.tail.put h ((r :: b.fwm.tail.at h []).take 128) } }
      match b.logWaiting h with
      | some (n, x) =>
        ({ b with fwm := { b.fwm with logWait := b.fwm.logWait.del n } }).logTake n x.kind x.sev x.code x.payload
      | none => b

/-! ### Images (R525, R526, R529, R530) -/

/-- SEC takes an image for a bank that is EMPTY, STAGED or REJECTED, and writes it to flash; an image it refuses changes
nothing (DEDUCED, log 42). -/
def Box.imageStage (b : Box) (slot : Nat) (img : List Byte) : Box :=
  if !b.secRuns ∨ [0, 2, 9].contains (b.get .fwmImgState slot) = false ∨ b.imageOk (slot / 2) img = false then b
  else
    let a := slotAddr slot
    let kept := b.sec.flash.filter (fun e => !(decide (a ≤ e.1) && decide (e.1 < a + 0x00800000)))
    let b := { b with sec := { b.sec with flash := flashPut kept a img, manifest := b.sec.manifest.put slot (imgManifest img) } }
    let b := (b.put .fwmImgState 2 slot).put .fwmImgVer (imgVer img) slot
    b.each (upTo 4) (fun b m => b.put .fwmImgDigest (imgDigest img / 2 ^ (64 * m) % 2 ^ 64) slot m)

/-- A write of IMG.CMD. -/
def Box.imageCmd (b : Box) (slot v : Nat) : Nat × Box :=
  let st := b.get .fwmImgState slot
  let b' := b.put .fwmImgCmd v slot
  match v with
  | 1 =>
    let lap := b.get .fwmImgActLap slot
    if st ≠ 2 ∨ lap < b.lap + 3 then (1, b)
    else match b'.calArm lap 5 slot with
      | some b'' => (0, b''.put .fwmImgState 3 slot)
      | none => (1, b)
  | 2 =>
    if st ≠ 3 ∧ st ≠ 4 then (1, b)
    else
      let b := (b'.put .fwmImgState 2 slot).calDrop 5 slot
      (0, { b with fwm := { b.fwm with deferred := b.fwm.deferred.del slot, released := b.fwm.released.erase slot } })
  | 3 => if st ≠ 7 then (1, b) else (0, b'.revertSlot slot)
  | 4 =>
    if st ≠ 7 then (1, b)
    else
      let b := b'.put .fwmImgState 6 slot
      let b := if b.get .fwmImgState (otherBank slot) = 8 then b.put .fwmImgState 0 (otherBank slot) else b
      (0, b.floorRaise (slot / 2) (b.get .fwmImgVer slot) (b.sec.manifest.at slot 0))
  | _ => (0, b')

/-! ### The commands -/

/-- `FWM.CORE[n].CMD` written with RESTART. -/
def execCoreRestart (src : Src) (n : MCore) (s : State) : Host.Outcome State Fault Refusal :=
  act (fun b => b.regWrite src (fun b => b.coreCmd src.toNat n 1)) s

/-- A core writes READY. -/
def execCoreReady (n : MCore) (s : State) : Host.Outcome State Fault Refusal := act (fun b => (b.coreCmd n n 3).2) s

/-- `FWM.CORE[n].WD` written: the period begins anew. -/
def execWatchdogKick (src : Src) (n : MCore) (s : State) : Host.Outcome State Fault Refusal :=
  act (fun b => b.regWrite src (fun b => (0, b.put .fwmCoreWd 1 n))) s

/-- WD_MS have passed without a write to a core's WD. -/
def execCoreWatchdog (n : MCore) (s : State) : Host.Outcome State Fault Refusal := act (fun b => b.watchdogOut n) s

/-- BOOT_TO_MS have passed since a core began to restart. -/
def execBootTimeout (n : MCore) (s : State) : Host.Outcome State Fault Refusal := act (fun b => b.bootOut n) s

/-- FWM makes a bench core acting. -/
def execBenchTakeover (r : Fin 3) (s : State) : Host.Outcome State Fault Refusal := act (fun b => b.takeover r) s

/-- 1 ms has passed: a role's checkpoint goes to its bench core. -/
def execBenchCheckpoint (r : Fin 3) (s : State) : Host.Outcome State Fault Refusal := act (fun b => b.checkpoint r) s

/-- `FWM.ROLE[r].CMD` written with HAND_BACK. -/
def execHandBack (src : Src) (r : Fin 5) (s : State) : Host.Outcome State Fault Refusal :=
  act (fun b => b.regWrite src (fun b => b.handBack src.toNat r 1)) s

/-- A core writes LOGCMD. -/
def execLogWrite (n : MCore) (cmd : BitVec 20) (s : State) : Host.Outcome State Fault Refusal :=
  act (fun b => b.logWrite n cmd.toNat) s

/-- A LOGCMD write of a half has waited 1 µs. -/
def execLogWaitExpire (h : Half) (s : State) : Host.Outcome State Fault Refusal := act (fun b => b.logExpire h) s

/-- A core stores to TRACE. -/
def execTracePoint (n : MCore) (v : BitVec 64) (s : State) : Host.Outcome State Fault Refusal :=
  act (fun b => b.trace n v.toNat) s

/-- SEC receives an image for a slot. -/
def execImageStage (slot : Fin 10) (image : List Byte) (s : State) : Host.Outcome State Fault Refusal :=
  act (fun b => b.imageStage slot image) s

/-- `FWM.IMG[s].CMD` written with ARM. -/
def execImageArm (src : Src) (slot : Fin 10) (s : State) : Host.Outcome State Fault Refusal :=
  act (fun b => b.regWrite src (fun b => b.imageCmd slot 1)) s

/-- `FWM.IMG[s].CMD` written with DISARM. -/
def execImageDisarm (src : Src) (slot : Fin 10) (s : State) : Host.Outcome State Fault Refusal :=
  act (fun b => b.regWrite src (fun b => b.imageCmd slot 2)) s

/-- `FWM.IMG[s].CMD` written with REVERT. -/
def execImageRevert (src : Src) (slot : Fin 10) (s : State) : Host.Outcome State Fault Refusal :=
  act (fun b => b.regWrite src (fun b => b.imageCmd slot 3)) s

/-- `FWM.IMG[s].CMD` written with CONFIRM. -/
def execImageConfirm (src : Src) (slot : Fin 10) (s : State) : Host.Outcome State Fault Refusal :=
  act (fun b => b.regWrite src (fun b => b.imageCmd slot 4)) s

/-- A deferred activation is in emergency 60 s after its lap. -/
def execDeferredCancel (slot : Fin 10) (s : State) : Host.Outcome State Fault Refusal := act (fun b => b.deferredOut slot) s

end Sys2Proof.Machine
end

