-- ==== Sys2Proof/Machine/Marshal.lean ====
section
/-!
DEFINITION. The marshal protocol: scores, links, device cases, verdicts, health and admission (R584, R594 to R611).
-/
namespace Sys2Proof.Machine

/-! ### Frames (R608) -/

/-- States of the module (R609). -/
def mrOut : Nat := 0
@[inherit_doc mrOut] def mrProb : Nat := 1
@[inherit_doc mrOut] def mrIn : Nat := 2
@[inherit_doc mrOut] def mrDerated : Nat := 3
@[inherit_doc mrOut] def mrExpelled : Nat := 4

/-- A payload of the module: type, code, observers, colour, subject, count, time, points, ledger entries. -/
def Box.mrPayload (b : Box) (typ code obs w subj cnt ns pts led : Nat) : Nat :=
  b.sec.plid * 2 ^ 224 + typ * 2 ^ 216 + code * 2 ^ 208 + min obs 255 * 2 ^ 200 + w * 2 ^ 192 + subj * 2 ^ 160
    + cnt * 2 ^ 128 + ns % 2 ^ 64 * 2 ^ 64 + pts % 2 ^ 32 * 2 ^ 32 + led % 2 ^ 32

/-- A marshal frame to an FEID; FEID 0 is no address. -/
def Box.mrTo (b : Box) (feid typ payload : Nat) : Box := if feid = 0 then b else b.emit (.ctrl 3 feid typ (beBytes 32 payload))

/-- A hop-local marshal frame on a physical lane (R595). -/
def Box.mrHop (b : Box) (f s typ payload : Nat) : Box := b.emit (.marshal f s typ payload)

/-- Whether the protocol is on, and the members' indices. -/
def Box.mrOn (b : Box) : Bool := b.get .marMemberN != 0
@[inherit_doc Box.mrOn] def Box.members_ (b : Box) : List Nat := upTo (b.get .marMemberN)

/-- The keeper's index of a subject, and the backup's (R598). -/
def Box.keeperOf (b : Box) (p : Nat) : Nat := crc32c (beBytes 4 p) % b.get .marMemberN
@[inherit_doc Box.keeperOf] def Box.backupOf (b : Box) (p : Nat) : Nat := (b.keeperOf p + 1) % b.get .marMemberN

/-- Whether a member index is the module's own. -/
def Box.isSelf (b : Box) (j : Nat) : Bool := b.get .marMemberPlid j == b.sec.plid

/-- A frame to every other member. -/
def Box.mrAll (b : Box) (typ payload : Nat) : Box :=
  b.each (b.members_.filter (fun j => !b.isSelf j)) (fun b j => b.mrTo (b.get .marMemberFeid j) typ payload)

/-! ### Health (R606, R609) -/

/-- The health word. -/
def Box.health (b : Box) : Nat :=
  let dark := ((upTo 1024).filter (fun l => !b.laneUp (fibreOf l) (b.slotOf l))).length
  let quar := ((upTo 128).filter (fun c => b.get .rlyState c == coreQuar)).length
  let bays := ((upTo 10).filter (fun n => b.bay n == bayFaded || b.bay n == bayFault)).length
  b.get .marSelfState * 2 ^ 28 + b.get .ddlHealth * 2 ^ 24 + b.get .pwrPsState % 8 * 2 ^ 21
    + flag (b.cgAny [cgInDoubt]) * 2 ^ 20 + flag b.mar.stormOn * 2 ^ 19 + flag b.mar.slow * 2 ^ 18 + min dark 255 * 2 ^ 10
    + min quar 127 * 2 ^ 3 + min bays 7

/-- The payload of STATUS (DEDUCED, log 122). -/
def Box.mrStatus (b : Box) : Nat := b.mrPayload 0x12 0 0 0 0 0 0 b.health 0

/-- STATUS on every UP lane. -/
def Box.mrHops (b : Box) : Box :=
  b.each ((upTo 1280).filter (fun k => b.laneUp (k / 10) (k % 10))) (fun b k => b.mrHop (k / 10) (k % 10) 0x12 b.mrStatus)

/-- SELF_STATE changes, and partners are told. -/
def Box.selfGo (b : Box) (st : Nat) : Box :=
  if b.get .marSelfState = st then b
  else
    let b := b.put .marSelfState st
    if b.mrOn then b.mrHops else b

/-! ### Verdicts (R601 to R604, R607, R610) -/

/-- Spare entries of a subject, and those not yet used. -/
def Box.sparesOf (b : Box) (p : Nat) : List Nat := (upTo 256).filter (fun e => b.get .marSpareSubj e == p && p != 0)
@[inherit_doc Box.sparesOf] def Box.sparesFree (b : Box) (p : Nat) : List Nat :=
  (b.sparesOf p).filter (fun e => b.get .marSpareUsed e == 0)

/-- Expulsions of the ledger within the budget window before a time. -/
def Box.ledgerCount (b : Box) (ns : Nat) : Nat :=
  ((upTo 64).filter (fun m =>
    let v := b.get .marLedger m
    decide (v ≠ 0) && decide (v % 2 ^ 64 ≤ ns) && decide (ns < v % 2 ^ 64 + b.get .marBudgetS * 1000000000))).length

/-- The FEIDs of a spare entry move to the spare's next-hop set: traffic stamped before this instant keeps the old ones
(R77, R603). -/
def Box.moveFeids (b : Box) (e : Nat) : Box :=
  let lo := b.get .marSpareFeidLo e
  let keys := (((b.pipe 0).em.flatMap (fun x => x.2.ways.filterMap id) ++ (b.pipe 0).stash).filter
    (fun x => x.typ == 1 && x.prog && !x.staged && decide (lo ≤ x.key) && decide (x.key < lo + b.get .marSpareFeidCnt e))).map (·.key)
  b.each keys.eraseDups (fun b k =>
    match b.emProg 1 k with
    | some x => (b.applyRecord ⟨3, 2, 1, 0, 0, 0, k, b.get .marSpareNhs e, x.lane, 0⟩).2
    | none => b)

/-- A case of the keeper about a subject takes a state. -/
def Box.caseMark (b : Box) (p st : Nat) : Box :=
  b.each ((upTo 64).filter (fun c => (b.get .marCaseState c == 1 || b.get .marCaseState c == 2) && b.get .marCaseSubj c == p))
    (fun b c => b.put .marCaseState st c)

/-- A device is derated. -/
def Box.derate (b : Box) (v : Verdict) : Box :=
  let b := { b with mar := { b.mar with derated := with_ b.mar.derated v.subj } }
  let b := (b.raise 0 .marLedger 0 sevAlarm 0).caseMark v.subj 3
  if v.subj = b.sec.plid then b.selfGo mrDerated else b

/-- A verdict is decided. -/
def Box.verdictGo (b : Box) (v : Verdict) : Box :=
  match v.code with
  | 1 =>
    if b.mar.expelled.contains v.subj then b
    else if b.ledgerCount v.applyT < b.get .marBudget ∧ b.sparesFree v.subj ≠ [] then
      let l := b.sparesFree v.subj
      let u : Undo := ⟨b.stamp, [], b.fwd.pipes, b.fwd.lpm⟩
      let b := { b with
        tim := { b.tim with undo := u :: b.tim.undo }
        mar := { b.mar with
          expelled := with_ b.mar.expelled v.subj, derated := b.mar.derated.erase v.subj
          ledgerPos := (b.mar.ledgerPos + 1) % 64 } }
      let b := b.put .marLedger (v.applyT % 2 ^ 64 + v.subj * 2 ^ 64) ((b.mar.ledgerPos + 63) % 64)
      let b := (b.each l (fun b e => (b.put .marSpareUsed 1 e).moveFeids e)).caseMark v.subj 2
      if v.subj = b.sec.plid then ({ b with mar := { b.mar with joinSent := false } }).selfGo mrExpelled else b
    else b.derate v
  | 2 => if b.mar.expelled.contains v.subj then b else b.derate v
  | 3 =>
    let b := { b with mar := { b.mar with derated := b.mar.derated.erase v.subj } }
    if v.subj = b.sec.plid ∧ b.get .marSelfState = mrDerated then b.selfGo mrIn else b
  | 4 =>
    let b := { b with mar := { b.mar with derated := b.mar.derated.erase v.subj, expelled := b.mar.expelled.erase v.subj } }
    if v.subj = b.sec.plid ∧ (b.get .marSelfState = mrOut ∨ b.get .marSelfState = mrExpelled) then
      ({ b with mar := { b.mar with joinSent := false } }).selfGo mrProb
    else b
  | _ => b

/-- A verdict arrives: held until its APPLY_T, or decided at once with a record when that has passed. -/
def Box.verdictIn (b : Box) (v : Verdict) : Box :=
  if v.applyT < b.ns then (b.raise 0 .marLedger 0 sevError 0).verdictGo v
  else { b with mar := { b.mar with verdicts := b.mar.verdicts ++ [v] } }

/-- The verdict that is decided first: the earliest APPLY_T, then the lowest subject (R602). -/
def firstVerdict : List Verdict → Option Verdict
  | [] => none
  | v :: t =>
    match firstVerdict t with
    | none => some v
    | some u => if v.applyT < u.applyT ∨ (v.applyT = u.applyT ∧ v.subj ≤ u.subj) then some v else some u

/-- The verdicts due at the earliest APPLY_T held are decided, at most `n`. -/
def Box.verdictsDue (b : Box) (at_ : Nat) : Nat → Box
  | 0 => b
  | n + 1 =>
    match firstVerdict b.mar.verdicts with
    | some v =>
      if v.applyT ≤ at_ then
        (({ b with mar := { b.mar with verdicts := b.mar.verdicts.erase v } }).verdictGo v).verdictsDue at_ n
      else b
    | none => b

/-- The keeper sends a verdict to every member, the fabric manager, the subject and the spare (R601). A subject that is
no member is reached at the FEID its spare entry moves. -/
def Box.sendVerdict (b : Box) (code subj : Nat) : Box :=
  let t := (b.ns / 1000 + 1) * 1000 + b.get .marVerdictUs * 1000
  let e := (b.sparesFree subj).head?
  let spare := (e.map (b.get .marSpareSparePlid ·)).getD 0
  let pl := b.mrPayload 0x11 code 0 0 subj 0 t spare (b.ledgerCount b.ns)
  let feids := [b.get .marFmFeid]
    ++ (if b.members_.any (fun j => b.get .marMemberPlid j == subj) then []
        else (((b.sparesOf subj).head?).map (b.get .marSpareFeidLo ·)).toList)
    ++ (e.map (b.get .marSpareSpareFeid ·)).toList
  let b := (b.mrAll 0x11 pl).each feids (fun b f => b.mrTo f 0x11 pl)
  b.verdictIn ⟨code, subj, spare, t⟩

/-! ### Cases (R599 to R604) -/

/-- A case. -/
def Box.case_ (b : Box) (c : Nat) : Option CaseSt := b.mar.cases.find c

/-- The open case of a subject (DEDUCED, log 121). -/
def Box.openCase (b : Box) (p : Nat) : Option Nat :=
  (upTo 64).find? (fun c => [1, 2, 3].contains (b.get .marCaseState c) && b.get .marCaseSubj c == p)

/-- A report about a subject reaches its keeper: its case counts it, and quorum sends the verdict once. -/
def Box.caseReport (b : Box) (sender subj first : Nat) : Box :=
  let slot := match b.openCase subj with
    | some c => some c
    | none => ((upTo 64).find? (fun c => b.get .marCaseState c == 0)).orElse fun _ =>
        (upTo 64).find? (fun c => b.get .marCaseState c == 4)
  match slot with
  | none => b.bump .marCaseLost
  | some c =>
    let b := if (b.openCase subj).isSome then b.bump .marCaseCount c
      else
        let x : CaseSt := ⟨subj, [], first, first, false⟩
        let b := { b with mar := { b.mar with cases := b.mar.cases.put c x } }
        ((b.put .marCaseSubj subj c).put .marCaseCount 1 c).put .marCaseState 1 c
    match b.case_ c with
    | none => b
    | some x =>
      let known := x.obs.any (·.1 == sender)
      let obs : List (Nat × Nat) := if known then x.obs.map (fun (o : Nat × Nat) => if o.1 = sender then (sender, b.ns) else o)
        else if x.obs.length < 8 then x.obs ++ [(sender, b.ns)] else x.obs
      let x := { x with obs := obs, lastObs := first }
      let b := ({ b with mar := { b.mar with cases := b.mar.cases.put c x } }).put .marCaseObs obs.length c
      let recent : List (Nat × Nat) := obs.filter (fun (o : Nat × Nat) => b.ns ≤ o.2 + b.get .marCaseMs * 1000000)
      if b.get .marCaseState c = 1 ∧ b.get .marQuorum ≤ recent.length then (b.put .marCaseState 2 c).sendVerdict 1 subj else b

/-- Whether the module acts on reports about a subject: as keeper, or as backup of a keeper that is silent (R599). -/
def Box.keeps (b : Box) (p : Nat) : Bool :=
  let silent := match b.mar.status.find (b.get .marMemberPlid (b.keeperOf p)) with
    | some x => decide (x.1 + 3 * b.get .marStatusUs * 1000 < b.ns)
    | none => true
  b.mrOn && (b.isSelf (b.keeperOf p) || (b.isSelf (b.backupOf p) && silent))

/-- A REPORT arrives. -/
def Box.reportIn (b : Box) (sender subj first : Nat) : Box := if b.keeps subj then b.caseReport sender subj first else b

/-- The module reports a device to keeper and backup, at most once in REPORT_GAP_US; what it keeps itself it notes itself. -/
def Box.reportOut (b : Box) (p pts : Nat) : Box :=
  if (b.mar.reported.find p).any (fun t => decide (b.ns < t + b.get .marReportGapUs * 1000)) then b
  else
    let b := { b with mar := { b.mar with reported := b.mar.reported.put p b.ns } }
    let pl := b.mrPayload 0x10 0 0 0 p 0 b.ns pts 0
    let b := b.each ([b.keeperOf p, b.backupOf p].eraseDups.filter (fun j => !b.isSelf j))
      (fun b j => b.mrTo (b.get .marMemberFeid j) 0x10 pl)
    b.reportIn b.sec.plid p b.ns

/-- The summary of a case, sent once. -/
def Box.summary (b : Box) (c : Nat) : Box :=
  match b.case_ c with
  | none => b
  | some x =>
    if x.summarised then b
    else
      let b := { b with mar := { b.mar with cases := b.mar.cases.put c { x with summarised := true } } }
      b.mrTo (b.get .marFmFeid) 0x16
        (b.mrPayload 0x16 0 x.obs.length 0 x.subj (b.get .marCaseCount c) x.firstObs ((x.lastObs - x.firstObs) / 1000) 0)

/-- A case has been quiet: it closes, CLEAR goes out, and a module that waited to join is admitted (R604, R610). -/
def Box.closeCase (b : Box) (c : Nat) : Box :=
  if [1, 2, 3].contains (b.get .marCaseState c) = false then b
  else
    let p := b.get .marCaseSubj c
    let b := ((b.summary c).put .marCaseState 4 c).sendVerdict 3 p
    if b.mar.joins.contains p then ({ b with mar := { b.mar with joins := b.mar.joins.erase p } }).sendVerdict 4 p else b

/-! ### Admission (R610) -/

/-- The keeper admits a module once no open case names it. -/
def Box.joinIn (b : Box) (p : Nat) : Box :=
  if !b.mrOn || !b.isSelf (b.keeperOf p) then b
  else if (b.openCase p).isSome then { b with mar := { b.mar with joins := with_ b.mar.joins p } }
  else b.sendVerdict 4 p

/-- The module asks to be admitted, once, when a lane is UP and its clock is acquired. -/
def Box.tryJoin (b : Box) : Box :=
  let st := b.get .marSelfState
  if !b.mrOn || b.mar.joinSent || !(st == mrOut || st == mrExpelled) || !b.acquired
    || (upTo 1280).all (fun k => !b.laneUp (k / 10) (k % 10)) then b
  else
    let b := { b with mar := { b.mar with joinSent := true } }
    let k := b.keeperOf b.sec.plid
    if b.isSelf k then b.joinIn b.sec.plid
    else b.mrTo (b.get .marMemberFeid k) 0x13 (b.mrPayload 0x13 0 0 0 b.sec.plid 0 0 0 0)

/-- STATUS_US has passed. -/
def Box.statusOut (b : Box) : Box :=
  if !b.mrOn then b
  else
    let b := (b.mrAll 0x12 b.mrStatus).mrTo (b.get .marFmFeid) 0x12 b.mrStatus
    let b := if b.ns / (max 1 (b.get .marStatusUs) * 1000) % 10 = 0 then b.mrHops else b
    b.tryJoin

/-! ### Scores and links (R594 to R597) -/

/-- Points of the subject of a link case: a lane, or with colour 8 a fibre. -/
def Box.linkPts (b : Box) (f w : Nat) : Nat :=
  if w < 8 then b.get .marLnScore (laneOf f w) else ((upTo 8).map (fun v => b.get .marLnScore (laneOf f v))).sum

/-- Logical lanes of the subject. -/
def linkLanes (f w : Nat) : List Nat := if w < 8 then [laneOf f w] else (upTo 8).map (laneOf f)

/-- Another UP lane of the fibre for the frames of a case. -/
def Box.linkVia (b : Box) (f w : Nat) : Option Nat :=
  (upTo 10).find? (fun s => b.laneUp f s && (w == 8 || s != b.slotOf (laneOf f w)))

/-- The case of a subject. -/
def Box.linkCase (b : Box) (f w : Nat) : Option LinkCase := b.mar.links.find? (fun x => x.f == f && x.w == w)

/-- This end suspects a lane or fibre. -/
def Box.suspectLink (b : Box) (f w : Nat) : Box :=
  if (b.linkCase f w).isSome then b
  else
    let t := b.ns + b.get .marVerdictUs * 1000
    let x : LinkCase := ⟨f, w, t, false, true⟩
    let b := { b with mar := { b.mar with links := b.mar.links ++ [x] } }
    match b.linkVia f w with
    | some s => b.mrHop f s 0x14 (b.mrPayload 0x14 (if w < 8 then 1 else 2) 0 (w % 8) (b.peerPlid f s) 0 t 0 0)
    | none => b

/-- The points of the closed windows as the score registers show them. -/
def Box.showScores (b : Box) : Box :=
  let clear (q : RegKey) : Bool := q.reg == Reg.marLnScore || q.reg == Reg.marPsScore
  let b := { b with regs := b.regs.filter (fun e => !clear e.1) }
  let sums (a c : Store Nat) : List (Nat × Nat) := ((a ++ c).map (·.1)).eraseDups.map (fun k => (k, a.at k 0 + c.at k 0))
  let b := b.each (sums b.mar.lanePts b.mar.lanePrev) (fun b e => b.put .marLnScore (min e.2 65535) e.1)
  b.each (sums b.mar.portPts b.mar.portPrev) (fun b e => b.put .marPsScore (min e.2 65535) e.1)

/-- The PLID that the lanes of a 400 G port report, and the points of a device over the two windows. -/
def Box.portPlid (b : Box) (n : Nat) : Nat :=
  (((portLanes n).map (fun l => b.peerPlid (fibreOf l) (b.slotOf l))).find? (· ≠ 0)).getD 0
@[inherit_doc Box.portPlid] def Box.devScore (b : Box) (p : Nat) : Nat :=
  ((b.regs.filter (fun e => e.1.reg == .marPsScore && b.portPlid e.1.i == p)).map (·.2)).sum
    + b.mar.devPts.at p 0 + b.mar.devPrev.at p 0

/-- A score window ends: the symbols corrected on each UP lane, a free value, count above BER_SYM (DESIGN CHOICE, log
44), the two windows are summed and judged. -/
def Box.scoreWindow (b : Box) : Box :=
  let b := b.each b.upLanes (fun b l =>
    let (n, b) := b.fresh
    if b.get .marBerSym < n then b.scoreLane l 0 else b)
  let b := b.showScores
  let lanes := (b.regs.filter (fun e => e.1.reg == .marLnScore && decide (b.get .marSuspect ≤ e.2))).map (·.1.i)
  let devs := ((b.regs.filter (fun e => e.1.reg == .marPsScore)).map (fun e => b.portPlid e.1.i)
    ++ (b.mar.devPts ++ b.mar.devPrev).map (·.1)).eraseDups.filter (fun p => p != 0 && decide (b.get .marSuspect ≤ b.devScore p))
  let scores := devs.map (fun p => (p, b.devScore p))
  let b := { b with mar := { b.mar with
    lanePrev := b.mar.lanePts, lanePts := [], portPrev := b.mar.portPts, portPts := []
    devPrev := b.mar.devPts, devPts := [] } }
  if !b.mrOn then b
  else
    let b := b.each (lanes.map fibreOf).eraseDups (fun b f =>
      match lanes.filter (fun l => fibreOf l == f) with
      | [l] => b.suspectLink f (colourOf l)
      | _ => b.suspectLink f 8)
    b.each scores (fun b (e : Nat × Nat) => b.reportOut e.1 e.2)

/-- Subject colour of a link frame's payload: 8 for a fibre. -/
def linkW (pl : Nat) : Nat := if bits pl 215 208 = 2 then 8 else bits pl 199 192 % 8

/-- A LINK_SUSPECT arrives: it is agreed where the module's own points reach half of MAR.SUSPECT. -/
def Box.suspectIn (b : Box) (f s pl : Nat) : Box :=
  let w := linkW pl
  let t := bits pl 127 64
  if !b.mrOn ∨ 2 * b.linkPts f w < b.get .marSuspect then b
  else
    let x : LinkCase := match b.linkCase f w with
      | some x => { x with agreed := true }
      | none => ⟨f, w, t, true, false⟩
    let b := { b with mar := { b.mar with links := b.mar.links.filter (fun (y : LinkCase) => !(y.f == f && y.w == w)) ++ [x] } }
    b.mrHop f s 0x15 (b.mrPayload 0x15 (bits pl 215 208) 0 (w % 8) (b.peerPlid f s) 0 t 0 0)

/-- A LINK_AGREE arrives: both ends expel the subject at APPLY_T. -/
def Box.agreeIn (b : Box) (f pl : Nat) : Box :=
  let w := linkW pl
  { b with mar := { b.mar with links := b.mar.links.map (fun (y : LinkCase) => if y.f = f ∧ y.w = w then { y with agreed := true } else y) } }

/-- No LINK_AGREE came: the subject is held out of the module's own spraying, its points count for the partner. -/
def Box.agreeOut (b : Box) (f w : Nat) : Box :=
  match b.linkCase f w with
  | none => b
  | some x =>
    if x.agreed ∨ !x.ours then b
    else
      let b := { b with mar := { b.mar with links := b.mar.links.erase x } }
      let p : Nat := (((linkLanes f w).map (fun l => b.peerPlid f (b.slotOf l))).find? (· ≠ 0)).getD 0
      let b := if p = 0 then b
        else { b with mar := { b.mar with devPts := b.mar.devPts.upd p 0 (· + b.linkPts f w) } }
      b.each (linkLanes f w) (fun b l => b.setLane f (b.slotOf l) (fun y => { y with heldOut := true }))

/-- APPLY_T of an agreed subject: a lane moves to a spare, or is drained and held DARK where none can start; a fibre drains
with its ports fenced. -/
def Box.linkOut (b : Box) (f w : Nat) : Box :=
  match b.linkCase f w with
  | none => b
  | some x =>
    if !x.agreed then b
    else
      let b := { b with mar := { b.mar with links := b.mar.links.erase x } }
      if w < 8 then
        let b' := if b.optRuns (halfOf w) then b.startSpare f w .fault else b
        if b'.hasSpare f w then b' else b.cmdDarken f w 3
      else
        (b.each (upTo 10) (fun b s => if b.laneIdle f s then b else b.cmdDarken f s 3)).fencePorts (range' (4 * f) 4)

/-! ### The commands -/

/-- CTL writes MAR.ERR_ACK. -/
def execErrAck (src : Src) (m : BitVec 8) (s : State) : Host.Outcome State Fault Refusal :=
  act (fun b => b.regWrite src (fun b => (0, (b.put .marErrAck m.toNat).retire m.toNat))) s

/-- WIN_US have passed. -/
def execScoreWindow (s : State) : Host.Outcome State Fault Refusal := act Box.scoreWindow s

/-- A LINK_SUSPECT arrives on a lane. -/
def execLinkSuspect (f : Fibre) (sl : Slot) (payload : BitVec 256) (s : State) : Host.Outcome State Fault Refusal :=
  act (fun b => b.suspectIn f sl payload.toNat) s

/-- A LINK_AGREE arrives on a lane. -/
def execLinkAgree (f : Fibre) (_sl : Slot) (payload : BitVec 256) (s : State) : Host.Outcome State Fault Refusal :=
  act (fun b => b.agreeIn f payload.toNat) s

/-- AGREE_US have passed since LINK_SUSPECT was sent about a lane (colour 0 to 7) or a fibre (8). -/
def execAgreeTimeout (f : Fibre) (w : Fin 9) (s : State) : Host.Outcome State Fault Refusal := act (fun b => b.agreeOut f w) s

/-- APPLY_T of an agreed lane or fibre has come. -/
def execLinkExpel (f : Fibre) (w : Fin 9) (s : State) : Host.Outcome State Fault Refusal := act (fun b => b.linkOut f w) s

/-- A REPORT arrives. -/
def execReport (payload : BitVec 256) (s : State) : Host.Outcome State Fault Refusal :=
  act (fun b => b.reportIn (bits payload.toNat 255 224) (bits payload.toNat 191 160) (bits payload.toNat 127 64)) s

/-- A VERDICT arrives. -/
def execVerdict (payload : BitVec 256) (s : State) : Host.Outcome State Fault Refusal :=
  act (fun b => b.verdictIn ⟨bits payload.toNat 215 208, bits payload.toNat 191 160, bits payload.toNat 63 32,
    bits payload.toNat 127 64⟩) s

/-- The earliest APPLY_T held has come. -/
def execVerdictApply (s : State) : Host.Outcome State Fault Refusal :=
  act (fun b => match firstVerdict b.mar.verdicts with
    | some v => b.verdictsDue v.applyT b.mar.verdicts.length
    | none => b) s

/-- A case has been quiet for CASE_CLOSE_MS. -/
def execCaseClose (c : Fin 64) (s : State) : Host.Outcome State Fault Refusal := act (fun b => b.closeCase c) s

/-- SUMMARY_MS have passed since a case opened. -/
def execCaseSummary (c : Fin 64) (s : State) : Host.Outcome State Fault Refusal := act (fun b => b.summary c) s

/-- STATUS_US have passed. -/
def execStatusTx (s : State) : Host.Outcome State Fault Refusal := act Box.statusOut s

/-- A STATUS arrives. -/
def execStatus (payload : BitVec 256) (s : State) : Host.Outcome State Fault Refusal :=
  act (fun b => { b with mar := { b.mar with
    status := b.mar.status.put (bits payload.toNat 255 224) (b.ns, bits payload.toNat 63 32) } }) s

/-- A JOIN arrives. -/
def execJoin (payload : BitVec 256) (s : State) : Host.Outcome State Fault Refusal :=
  act (fun b => b.joinIn (bits payload.toNat 255 224)) s

/-- PROBE_MS have passed in PROBATION. -/
def execProbationEnd (s : State) : Host.Outcome State Fault Refusal :=
  act (fun b => if b.get .marSelfState = mrProb then b.selfGo mrIn else b) s

end Sys2Proof.Machine
end

