-- ==== Sys2Proof/Machine/RegRead.lean ====
section
/-!
DEFINITION. What a read of the management address space returns: the value of each field at present, the words of registers
with their latches, the LPDDR6 window, and who may read what (R634, R646 to R655).
-/
namespace Sys2Proof.Machine

/-! ### Values of fields -/

/-- Fields that show what the environment gives, of which no command tells: each reading is a free value (DESIGN
CHOICE, log 44). -/
def measured : Reg → Bool
  | .pwrVinMv | .pwrRailMv | .pwrRailMa | .pwrCoolInC | .pwrCoolOutC | .prtLaneFecCorr
  | .prtStripeSkew => true
  | _ => false

/-- The effective junction limit of a region (R570). -/
def Box.tjLimit (b : Box) (h r : Nat) : Nat :=
  let under := b.regs.filter (fun e =>
    e.1.reg == .lckRingLowTlock && e.2 == 1 && Config.ringUnder h r e.1.i e.1.j)
  under.foldl (fun n e => min n (b.get .lckRingTlock e.1.i e.1.j - 400)) (b.get .pwrTjLim * 16)

/-- The value of a field of a register instance at present, as a reader sees it. -/
def Box.readField (b : Box) (r : Reg) (i : Nat := 0) (j : Nat := 0) (k : Nat := 0) : Nat :=
  match r with
  | .timNowNs => b.ns % 2 ^ 64
  | .timNowFrac => b.stamp % 2 ^ 16
  | .timLapNow => b.lap % 2 ^ 54
  | .bufCellsFree => (b.hb i).freeCells
  | .bufSharedFree => b.sharedFree i
  | .bufFenced => (b.hb i).fenced
  | .pacQCredit => b.creditShown i (lr i j)
  | .pacLaneCredit => b.creditShown i (4096 + i)
  | .sprLaneState => b.sprState i
  | .sprLinesFree => b.sprLinesFree i
  | .mbxLeaseAgeMs => b.leaseAge
  | .pwrRegionTjLim => b.tjLimit i j
  | .marErrq => ((b.mar.errq.find i).map ErrRec.image).getD 0
  | .marStormTbl => (b.mar.storm[i]?.map ErrRec.image).getD 0
  | .marHealth => b.health
  | r => if measured r then Config.free b.free % 2 ^ r.info.width else b.get r i j k

/-- Fields that the register tables call signed. -/
def Reg.signed : Reg → Bool
  | .prtLaneLolDbm | .lckRingDetune | .lckRingErrPm | .lckFf | .optCombLinePwr | .optTuneLaserPwr | .optSpareOmaDbm
  | .bufAlphaIng | .bufAlphaEgr | .pacQCredit | .pacLaneCredit | .pacLaneOverhead | .grdEnvFibDbm | .pwrRegionRate
  | .telMonMin | .telMonMax | .telMonAlarmHi | .telMonAlarmLo => true
  | _ => false

/-! ### Words -/

/-- The whole register at a hit: its fields, each in its bits (R649). -/
def Box.regValue (b : Box) (x : Hit) : Nat :=
  (x.regs.map (fun r => b.readField r x.i x.j x.k * 2 ^ r.info.lo)).sum

/-- A word of a register's value (R650). -/
def wordOf (v w : Nat) : Nat := v / 2 ^ (64 * w) % 2 ^ 64

/-- The key under which a register's words are latched and held. -/
def Hit.key (x : Hit) : RegKey := ⟨x.regs.headD .timNowNs, x.i, x.j, x.k⟩

/-- Words of the register at a hit. -/
def Hit.words (x : Hit) : Nat := x.regs.foldl (fun n r => max n r.words) 1

/-- Put an entry in an association list. -/
def assocPut {κ α : Type} [DecidableEq κ] (l : List (κ × α)) (k : κ) (v : α) : List (κ × α) :=
  (k, v) :: l.filter (fun e => e.1 ≠ k)

/-- The entry of an association list. -/
def assocFind {κ α : Type} [DecidableEq κ] (l : List (κ × α)) (k : κ) : Option α :=
  (l.find? (fun e => e.1 = k)).map (·.2)

/-- A read of a register word by a requester (R651, R81): word 0 of a multi-word register latches it. LCK.HR_MIN shows the
lowest headroom since it was read (R161; DEDUCED, log 62; DEDUCED, log 134). -/
def Box.readWord (b : Box) (src : Nat) (x : Hit) : Nat × Box :=
  let v := b.regValue x
  if x.key.reg = .timNowNs then (v, { b with tim := { b.tim with frac := b.tim.frac.put src (b.stamp % 65536) } })
  else if x.key.reg = .timNowFrac then (b.tim.frac.at src v, b)
  else if x.key.reg = .lckHrMin then (v, b.put .lckHrMin 0xFFF)
  else if x.words = 1 then (v, if x.regs.any measured then b.fresh.2 else b)
  else if x.word = 0 then
    (wordOf v 0, { b with tim := { b.tim with latch := assocPut b.tim.latch (src, x.key) v } })
  else (wordOf ((assocFind b.tim.latch (src, x.key)).getD v) x.word, b)

/-! ### Who may read (R634) -/

/-- The channel of a register of a mailbox channel (R499 to R503). -/
def Hit.channel (x : Hit) : Option Nat :=
  match x.key.reg with
  | .mbxRcv | .mbxKs7 | .mbxData | .mbxRdata | .mbxBuf | .mbxFull | .mbxRfull | .mbxReady | .mbxSrcid | .mbxLock
  | .mbxDoorbell | .mbxWfull => some x.i
  | _ => none

/-- Whether the mask of a session lets it read a register (DEDUCED, log 65). -/
def Box.permReg (b : Box) (k : Nat) (x : Hit) : Bool :=
  let r := x.key.reg
  let grp := b.get .telPermGrpLo k ≤ x.i ∧ x.i ≤ b.get .telPermGrpHi k
  if x.channel.isSome then true
  else if r = .telSbuf then b.bit .telPermBlocks 23 k
  else b.bit .telPermBlocks r.info.block k && (!isGroupReg r || decide grp)
where
  /-- Fields of `COL.GRP[n]` and `SPR.GRP[n]`: those whose first index counts groups. -/
  isGroupReg (r : Reg) : Bool :=
    (r.info.block == 7 && r.info.dims.head?.any (fun d => d.2.2 == 16384))
      || (r.info.block == 8 && r.info.dims.head?.any (fun d => d.2.2 == 256))

/-- Whether the mask lets it read an address of LPDDR6. -/
def Box.permMem (b : Box) (k off : Nat) : Bool :=
  if regionTag (memA off) = 3 then b.bit .telPermBlocks 21 k
  else if regionTag (memA off) = 4 then b.bit .telPermBlocks 22 k
  else false

/-- Whether an address lies in the LPDDR6 window, and in the table window (R646). -/
def inMem (a : Nat) : Bool := decide (lpddrAddr ≤ a) && decide (a < lpddrAddr + 2 * halfBytes)
@[inherit_doc inMem] def inTables (a : Nat) : Bool := decide (tableWindow ≤ a) && decide (a < tableWindow + 2 ^ 24)

/-- Whether a requester may read an address. -/
def Box.mayRead (b : Box) (src a : Nat) : Bool :=
  if isCore src || b.isAgent src then true
  else match b.sessSlot src with
    | none => false
    | some k =>
      if b.get .mbxSessState k ≠ 2 then false
      else if inMem a then b.permMem k (a - lpddrAddr)
      else if inTables a then b.bit .telPermBlocks 3 k
      else match Machine.locate a with
        | some x => b.permReg k x
        | none => true

/-! ### Reads -/

/-- A read in the LPDDR6 window, under the tag of the region or window that holds the word (R654). -/
def Box.readMem (b : Box) (m : Mem) (a : Nat) : Nat × Nat × Box :=
  let off := a - lpddrAddr
  if a % 8 ≠ 0 then (5, 0, b)
  else if !b.memReady (memHalf off) then (1, 0, b)
  else match b.memRead m off 8 (b.homeTag (off / 32)) with
    | (.ok, v, b) => (0, leNat v, b)
    | (_, _, b) => (1, 0, b)

/-- A read of a management address: status, value (R496, R634, R651 to R655). -/
def Box.readAddr (b : Box) (m : Mem) (src a : Nat) : Nat × Nat × Box :=
  if !b.mayRead src a then (4, 0, b)
  else if inMem a then b.readMem m a
  else if inTables a then if a % 8 = 0 then (0, 0, b) else (5, 0, b)
  else match Machine.locate a with
    | none => (5, 0, b)
    | some x =>
      match x.key.reg with
      | .mbxData => b.dataRead src x.i
      | .mbxRdata => b.rdataRead src x.i
      | .mbxBuf => b.bufRead src x.i x.j
      | .mbxLock => b.lockRead src x.i
      | _ => let (v, b) := b.readWord src x; (0, v, b)

/-- A read of a management address. -/
def execRegisterRead (src : Src) (addr : BitVec 48) (s : State) : Host.Outcome State Fault Refusal :=
  act (fun b => b.answer src (fun b => b.readAddr s.mem src.toNat addr.toNat)) s

end Sys2Proof.Machine
end

