-- ==== Sys2Proof/Machine/Telemetry.lean ====
section
/-!
DEFINITION. Programmable counters, the central reader and its dumps, and sampled monitors (R618 to R625, R630, R632).
-/
namespace Sys2Proof.Machine

/-! ### Programmable counters (R618, R619) -/

/-- Fields that hold a state, so that an event sets them (DEDUCED, log 45). -/
def Reg.isState : Reg → Bool
  | .timCalState | .timCgState | .prtLaneState | .lckRingState | .optCombState | .bufEqState | .rlyState | .rlyTState
  | .rlyBundleState | .colGrpSlotState | .sprGrpSlotState | .sprLaneState | .embTblState | .embTblBankState | .memState
  | .ddlWidthState | .ddlBState | .gstState | .mbxSessState | .mbxLeaseState | .fwmCoreState | .fwmImgState | .pwrPsState
  | .marCaseState | .marSelfState => true
  | _ => false

/-- A counter: half, block, number, and its SEL. -/
structure Cnt where
  h : Nat
  b : Nat
  i : Nat
  sel : Nat
  deriving DecidableEq, Repr

/-- MODE, ROW, INST and OP of a counter. -/
def Cnt.mode (c : Cnt) : Nat := c.sel % 4
@[inherit_doc Cnt.mode] def Cnt.row (c : Cnt) : Nat := c.sel / 2 ^ 2 % 2 ^ 8
@[inherit_doc Cnt.mode] def Cnt.inst (c : Cnt) : Nat := c.sel / 2 ^ 10 % 2 ^ 16
@[inherit_doc Cnt.mode] def Cnt.op (c : Cnt) : Nat := c.sel / 2 ^ 26 % 4

/-- The counters of a mode. -/
def Box.counters (b : Box) (mode : Nat) : List Cnt :=
  b.regs.filterMap (fun e => if e.1.reg = .telCntSel ∧ e.2 % 4 = mode then some ⟨e.1.i, e.1.j, e.1.k, e.2⟩ else none)

/-- Whether a counter watches a register instance: one of its row, of its half where the register has halves. -/
def Cnt.watches (c : Cnt) (q : RegKey) : Bool :=
  q.reg.info.block == c.b && q.reg.info.row == c.row && (c.inst == 0xFFFF || c.inst == joinIndex q.reg.info.dims [q.i, q.j, q.k] 0)
    && (ownerHalf q.reg.info.dims [q.i, q.j, q.k]).all (· == c.h)

/-- A counter adds; past 48 bits it wraps and sets OVF. -/
def Box.cntAdd (b : Box) (c : Cnt) (n : Nat) : Box :=
  let v := b.get .telCntVal c.h c.b c.i + n
  let b := b.put .telCntVal v c.h c.b c.i
  if v < 2 ^ 48 then b
  else { b.put .telCntOvf 1 c.h c.b c.i with tel := { b.tel with wrapped := with_ b.tel.wrapped (c.h, c.b, c.i) } }

/-- What an edge counter adds for a register that went from one value to another (DEDUCED, log 45). -/
def edgeOf (r : Reg) (old new : Nat) : Nat :=
  if r.info.cls = .sticky then flag (new &&& old != new)
  else if r.isState then flag (old != new)
  else if r.info.cls = .ro then new - old
  else 0

/-- The registers that edge counters watch. -/
def Box.watched (b : Box) : Regs :=
  let l := b.counters 1
  b.regs.filter (fun e => l.any (fun c => c.watches e.1))

/-- Edge counters take what happened since the last tick. -/
def Box.countEdges (b : Box) : Box :=
  let now := b.watched
  let gone := b.tel.last.filter (fun e => (Regs.find now e.1).isNone)
  let keys := (now ++ gone).map (·.1)
  let old (q : RegKey) : Nat := (Regs.find b.tel.last q).getD (q.reg.resetAt q.i q.j q.k)
  let b' := b.each (b.counters 1) (fun b c =>
    let n := ((keys.filter c.watches).map (fun q => edgeOf q.reg (old q) (b.get q.reg q.i q.j q.k))).sum
    if n = 0 then b else b.cntAdd c n)
  { b' with tel := { b'.tel with last := now } }

/-- Indices of a register's instances, outermost first. -/
def allIndices : List (Ix × Nat × Nat) → List (List Nat)
  | [] => [[]]
  | (_, lo, n) :: t => (range' lo n).flatMap (fun i => (allIndices t).map (i :: ·))

/-- Whether a field compares true under OP. -/
def cmpOp (op v cmp : Nat) : Bool :=
  match op with
  | 0 => v == cmp
  | 1 => decide (cmp ≤ v)
  | 2 => decide (v < cmp)
  | _ => false

/-- Whether a level counter counts. -/
def Box.levelTrue (b : Box) (c : Cnt) : Bool :=
  let cmp := b.get .telCntCmp c.h c.b c.i
  ((Reg.ofBlock c.b).filter (fun r => r.info.row == c.row)).any (fun r =>
    (allIndices r.info.dims).any (fun l =>
      let q : RegKey := ⟨r, l.getD 0 0, l.getD 1 0, l.getD 2 0⟩
      c.watches q && cmpOp c.op (b.readField q.reg q.i q.j q.k) cmp))

/-- Level counters count `n` ticks of the time base. -/
def Box.countLevels (b : Box) (n : Nat) : Box :=
  b.each ((b.counters 2).filter b.levelTrue) (fun b c => b.cntAdd c n)

/-- A write to `TEL[h][b].CLR`: 1 clears the block's counters at the next lap boundary. -/
def Box.writeClr (b : Box) (h blk v : Nat) : Nat × Box :=
  if v = 0 then (0, b)
  else (0, { b.put .telClr 1 h blk with tel := { b.tel with clr := with_ b.tel.clr (32 * h + blk) } })

/-- The lap boundary clears the blocks that wait for it. -/
def Box.clrLap (b : Box) : Box :=
  let gone (q : RegKey) : Bool :=
    (q.reg == .telCntVal || q.reg == .telCntOvf || q.reg == .telClr) && b.tel.clr.contains (32 * q.i + q.j)
  { b with regs := b.regs.filter (fun e => !gone e.1), tel := { b.tel with clr := [] } }

/-- A class E field of an instrument has taken effect: a counter restarts, a monitor is cleared (R619, R632). -/
def Box.telEffect (b : Box) (q : RegKey) : Box :=
  match q.reg with
  | .telCntSel | .telCntCmp => (b.put .telCntVal 0 q.i q.j q.k)
  | .telMonKind | .telMonSrc | .telMonArg | .telMonBase | .telMonWidth | .telMonScale => b.monClear q.i q.j
  | _ => b

/-! ### Profiles (R620 to R622) -/

/-- The addresses of a profile's ranges, in order. -/
def Box.rangeWords (b : Box) (j : Nat) : List Nat :=
  (upTo 64).flatMap (fun r =>
    (upTo (b.get .telDumpRangeWords j r)).map (fun n => b.get .telDumpRangeBase j r + 8 * n))

/-- The words of a list of addresses that belong to a half, with their values. -/
def Box.wordsOfHalf (b : Box) (h : Nat) (l : List Nat) : List (Nat × Nat) :=
  l.filterMap (fun a =>
    match Machine.locate a with
    | some x => if x.key.reg.half x.i x.j x.k = h then some (a, wordOf (b.regValue x) x.word) else none
    | none => none)

/-- What a half latches of a profile: its words of the ranges, then the programmable counters. -/
def Box.dumpEntries (b : Box) (h j : Nat) : List (Nat × Nat) :=
  let prog := (upTo 21).filter (fun blk => b.bit .telDumpProg blk j)
  b.wordsOfHalf h (b.rangeWords j)
    ++ prog.flatMap (fun blk => (upTo 64).map (fun i => (Reg.addr .telCntVal h blk i, b.get .telCntVal h blk i)))

/-- The monitor that a word is a field of. -/
def monOf (a : Nat) : Option (Nat × Nat) :=
  match Machine.locate a with
  | some x => if x.key.reg.info.block = 18 ∧ 27 ≤ x.key.reg.info.row ∧ x.key.reg.info.row ≤ 39 then some (x.i, x.j) else none
  | none => none

/-- Monitors with CLR_ON_DUMP of which a profile names a field are cleared after its latch (R632). -/
def Box.monDumped (b : Box) (entries : List (Nat × Nat)) : Box :=
  b.each ((entries.filterMap (fun e => monOf e.1)).eraseDups) (fun b p =>
    if b.get .telMonClrOnDump p.1 p.2 = 1 then b.monClear p.1 p.2 else b)

/-- A half's latch bank that is not busy; none while the half is dark or in reset (R636). -/
def Box.latchBank (b : Box) (h : Nat) : Option Nat :=
  if b.darkHalf h || b.halfReset h then none
  else [2 * h, 2 * h + 1].find? (fun n => b.tel.banks.at n [] == [])

/-- A half latches profiles that fire together, (profile, at a calendar entry), in ascending order. -/
def Box.dumpHalf (b : Box) (h lap : Nat) (l : List (Nat × Bool)) : Box :=
  match b.latchBank h with
  | none => b
  | some n =>
    let wrap := b.tel.wrapped.any (fun w => w.1 == h)
    let recs : List Latched := l.map (fun p => ⟨p.1, p.2, lap, b.ns, b.dumpEntries h p.1, wrap⟩)
    { b with tel := { b.tel with
      banks := b.tel.banks.put n recs
      wrapped := b.tel.wrapped.filter (fun (w : Nat × Nat × Nat) => w.1 != h) } }

/-- Profiles fire at the start of a lap: latched on each half with a bank, else counted and recorded. -/
def Box.dumpFire (b : Box) (lap : Nat) (l : List (Nat × Bool)) : Box :=
  if l = [] then b
  else
    let missed := (b.latchBank 0).isNone || (b.latchBank 1).isNone
    let b := { b with tel := { b.tel with fired := l.foldl (fun (f : Store Nat) (p : Nat × Bool) => f.put p.1 lap) b.tel.fired } }
    let new := (upTo 2).flatMap (fun h => if (b.latchBank h).isSome then l.flatMap (fun (p : Nat × Bool) => b.dumpEntries h p.1) else [])
    let b := (b.dumpHalf 0 lap l).dumpHalf 1 lap l
    let b := if missed then b.each l (fun b p => (b.bump .telDumpSkip p.1).raise 0 .telDumpSkip p.1 sevNotice 0) else b
    b.monDumped new

/-- Whether a profile fires periodically at a lap, and has not fired in it (R621). -/
def Box.dumpDue (b : Box) (lap j : Nat) : Bool :=
  b.get .telDumpPeriodLaps j != 0 && lap % b.get .telDumpPeriodLaps j == 0 && b.tel.fired.find j != some lap

/-! ### The reader (R623 to R625) -/

/-- First half offset of the counter dump region. -/
def dumpRing : Nat := 0x300000000

/-- A dump record, its CRC field given. -/
def Box.dumpRecord (b : Box) (h : Nat) (x : Latched) (crc : Nat) : List Byte :=
  beBytes 4 0x4B434431 ++ leBytes 4 b.sec.plid ++ leBytes 1 h ++ leBytes 1 x.j ++ leBytes 2 (flag x.cal + 2 * flag x.wrap)
    ++ leBytes 4 x.entries.length ++ leBytes 8 x.lap ++ leBytes 8 x.ns ++ leBytes 4 (b.get .telDumpSeq h) ++ leBytes 4 crc
    ++ List.replicate 24 0
    ++ x.entries.flatMap (fun e => leBytes 6 e.1 ++ leBytes 2 0 ++ leBytes 8 e.2)

/-- Bytes written to the ring of a half, around its end; memory that does not answer takes none of them. -/
def Box.ringWrite (b : Box) (h : Nat) (bytes : List Byte) : Box :=
  let w := b.get .telDumpWr h
  let base := h * halfBytes + dumpRing
  let b := if !b.memReady h then b
    else
      let head := bytes.take (2 ^ 30 - w)
      let b := (b.memWrite (base + w) head 4).2
      if head.length = bytes.length then b else (b.memWrite base (bytes.drop head.length) 4).2
  b.put .telDumpWr ((w + bytes.length) % 2 ^ 30) h

/-- The frames that export a record: up to 8192 bytes each, after their offset. -/
def Box.exportDump (b : Box) (bytes : List Byte) : Nat → Nat → Box
  | 0, _ => b
  | n + 1, off =>
    (b.exportRec 1 0x07 (leBytes 4 off ++ (bytes.drop off).take 8192)).exportDump bytes n (off + 8192)

/-- The readout of a bank's next profile ends: its record goes where TARGET says. -/
def Box.readoutDone (b : Box) (bank : Nat) : Box :=
  match b.tel.banks.at bank [] with
  | [] => b
  | x :: rest =>
    let h := bank / 2
    let bytes := b.dumpRecord h x (crc32c (b.dumpRecord h x 0))
    let n := b.tel.dumps.at (16 * h + x.j) 0 + 1
    let b := { b with tel := { b.tel with
      banks := if rest = [] then b.tel.banks.del bank else b.tel.banks.put bank rest
      dumps := b.tel.dumps.put (16 * h + x.j) n } }
    let b := if b.bit .telDumpTarget 0 x.j then b.ringWrite h bytes else b
    let div := b.get .telDumpExportDiv x.j
    let b := if b.bit .telDumpTarget 1 x.j && div != 0 && n % div == 0 then
      b.exportDump bytes ((bytes.length + 8191) / 8192) 0 else b
    b.put .telDumpSeq (b.get .telDumpSeq h + 1) h

/-! ### Sampled monitors (R630) -/

/-- The value at a management address as a monitor reads it, and the field's width; a signed field is extended. -/
def Box.monRead (b : Box) (a : Nat) : Option (Int × Nat) :=
  match Machine.locate a with
  | none => none
  | some x =>
    let r := x.key.reg
    if x.regs.length = 1 ∧ r.words = 1 then
      some (if r.signed then toSigned r.info.width (b.readField r x.i x.j x.k) else (b.readField r x.i x.j x.k : Int), r.info.width)
    else some ((wordOf (b.regValue x) x.word : Int), 64)

/-- SAMPLE_US have passed for a monitor. -/
def Box.monSample (b : Box) (h m : Nat) : Box :=
  if b.darkHalf h || b.halfReset h then b
  else match b.get .telMonKind h m, b.monRead (b.get .telMonSrc h m) with
    | 1, some (x, _) => (b.fresh.2).monTake h m x
    | 2, some (x, w) =>
      let v := ofSigned w x
      let b := b.fresh.2
      let b' := { b with tel := { b.tel with prev := b.tel.prev.put (32 * h + m) v } }
      match b.tel.prev.find (32 * h + m) with
      | some p => b'.monTake h m (((v : Int) - p) % (2 ^ w : Nat))
      | none => b'
    | _, _ => b

/-! ### The commands -/

/-- 1 written to `TEL[h][b].CLR`. -/
def execCounterClear (src : Src) (h : Half) (blk : Fin 21) (s : State) : Host.Outcome State Fault Refusal :=
  act (fun b => b.regWrite src (fun b => b.writeClr h blk 1)) s

/-- A lap begins that is a multiple of a profile's PERIOD_LAPS. -/
def execDumpPeriod (j : Fin 16) (s : State) : Host.Outcome State Fault Refusal :=
  act (fun b => if b.dumpDue b.lap j then b.dumpFire b.lap [(j.val, false)] else b) s

/-- The readout of a latched profile ends. -/
def execDumpReadoutDone (bank : Fin 4) (s : State) : Host.Outcome State Fault Refusal := act (fun b => b.readoutDone bank) s

/-- A level or delta monitor takes its sample. -/
def execMonitorSample (h : Half) (m : Fin 32) (s : State) : Host.Outcome State Fault Refusal := act (fun b => b.monSample h m) s

/-- 1 written to `TEL[h].MON[m].CMD`. -/
def execMonitorClear (src : Src) (h : Half) (m : Fin 32) (s : State) : Host.Outcome State Fault Refusal :=
  act (fun b => b.regWrite src (fun b => (0, b.monClear h m))) s

end Sys2Proof.Machine
end

