-- ==== Sys2Proof/Machine/StartUp.lean ====
section
/-!
DEFINITION. From power to admission: the eleven steps of start-up, the wake from standby, and the causes that the board
target shows (R638 to R645, R677).
-/
namespace Sys2Proof.Machine

/-! ### Conditions (R638) -/

/-- Whether the boot chain of a die ran and found what it needs (R23, R542). -/
def Box.booted (b : Box) (h : Nat) : Bool :=
  (b.sec.straps.find h).isSome && !b.bit .secBootstat 0 h && !b.bit .secBootstat 2 h

/-- Whether a step is complete. -/
def Box.stepDone (b : Box) (j : Nat) : Bool := b.start.done.contains j

/-- Whether rails are good on the halves that run. -/
def Box.liveGood (b : Box) (l : List Nat) : Bool := b.start.live.all (fun h => b.railsGood h l)

/-- Whether some lane of a fibre that passes a test is UP. -/
def Box.upOn (b : Box) (p : Nat → Bool) : Bool := (upTo 1280).any (fun k => p (k / 10) && b.laneUp (k / 10) (k % 10))

/-- The entry condition of a step. -/
def Box.stepEntry (b : Box) : Nat → Bool
  | 1 => true
  | 2 => b.stepDone 1 && b.railsGood 0 [0] && b.railsGood 1 [0]
  | 3 => b.stepDone 2
  | 4 => b.stepDone 3 && b.get .timStatusRefLost == 0 && (b.booted 0 || b.booted 1)
  | 5 => b.stepDone 4
  | 6 => b.stepDone 4 && b.liveGood [7] && b.get .grdLock == 1
  | 7 => b.stepDone 5 && b.stepDone 6
  | 8 => b.stepDone 7 && b.upOn (fun _ => true)
  | 9 => b.stepDone 7 && b.upOn (fun f => b.get .prtMode f == 1 || b.get .prtMode f == 2) && b.sec.ident != []
  | 10 => b.stepDone 8 && b.stepDone 9
  | 11 => b.stepDone 10
  | _ => false

/-- What must hold for a step that was entered to be complete; the rest is the environment's to say. -/
def Box.stepOver (b : Box) : Nat → Bool
  | 3 => b.booted 0 || b.booted 1
  | 5 => b.start.live.all (fun h => b.get .memState h == 3 || b.get .memState h == 4)
  | 7 => (upTo 1280).all (fun k =>
      !b.laneMay (k / 10) (k % 10) || b.laneUp (k / 10) (k % 10) || b.lnState (k / 10) (k % 10) == lnFault)
  | 8 => b.acquired
  | 9 => b.get .mbxLeaseState == 1
  | 10 => b.mrOn
  | 11 => b.get .marSelfState == mrIn
  | _ => true

/-! ### What a step does when it is entered -/

/-- Step 4 on a half: groups B and, after it, C; its management cores leave reset. -/
def Box.halfLive (b : Box) (h : Nat) : Box :=
  let b := b.railsOn (railsOf h [1, 2])
  let b := { b with start := { b.start with live := with_ b.start.live h } }
  (b.each (range' (5 * h) 5) (fun b n => b.putIf (b.cst n == coreOff) .fwmCoreState coreBoot n)).showCores h

/-- Step 5 on a half: group D; LPDDR6 trains, with every region written with zeros where its contents are lost, or resumes
(R451). -/
def Box.memStart (b : Box) (h : Nat) : Box :=
  let b := b.railsOn [railKey h 7]
  if b.start.resume.contains h then b.memWake h
  else if b.get .memState h = 0 then (b.memZero (h * halfBytes) halfBytes).put .memState 1 h
  else b.putIf (b.get .memState h == 5) .memState 1 h

/-- Step 6: group E; cartridges warm; rings that are off sweep, and spare-feed rings park. -/
def Box.lightStart (b : Box) : Box :=
  let b := b.each b.start.live (fun b h => b.railsOn (railsOf h [8, 9]))
  let b := b.each (upTo 18) Box.warm
  b.each ((upTo 3840).filter (fun k => b.start.live.contains (ringHalf (k % 30)) && b.get .lckRingState (k / 30) (k % 30) == rgOff))
    (fun b k => b.put .lckRingState (if 28 ≤ k % 30 then rgParked else rgSweep) (k / 30) (k % 30))

/-- The fibres that the board record names for the host bridge (R548). -/
def Box.hostFibres (b : Box) : List Nat := (upTo 128).filter (fun f => bitAt (leNat ((b.sec.board.drop 4).take 16)) f)

/-- Step 7: fibre modes, then CMD = TRAIN to every lane (R639). -/
def Box.lanesStart (b : Box) : Box :=
  let links := ((upTo 4).map (fun j => b.get .mbxBrdLink j)).filter (fun f => decide (f < 128))
  let b := b.each links (fun b f => b.put .prtMode 2 f)
  let b := b.each b.hostFibres (fun b f => b.put .prtMode 1 f)
  b.each (upTo 1280) (fun b k => b.cmdTrain (k / 10) (k % 10))

/-- A step is entered. -/
def Box.stepEnter (b : Box) (j : Nat) : Box :=
  let b := { b with start := { b.start with entered := with_ b.start.entered j } }
  match j with
  | 1 =>
    let b := { b with start := { b.start with powered := true, at_ := b.ns }, pwr := { b.pwr with vaonOff := false } }
    b.railsOn [0, 16]
  | 4 =>
    let new := (upTo 2).filter (fun h => b.booted h && !b.start.live.contains h)
    (b.each new Box.halfLive).agreeStart true true
  | 5 => b.each b.start.live Box.memStart
  | 6 => b.lightStart
  | 7 => b.lanesStart
  | 11 => b.tryJoin
  | _ => b

/-! ### How a step ends (R642, R643) -/

/-- A step is complete. Its time is counted on a clock of which nothing is stated here: a free value (DESIGN CHOICE,
log 46). -/
def Box.stepFinish (b : Box) (j : Nat) : Box :=
  let b := { b with start := { b.start with done := with_ b.start.done j } }
  (b.putFree .fwmStartMs j).showStart

/-- A step meets a failure: its bit, an interrupt cause and a record; start-up goes on, but in steps 1, 8 and 11 and where no
die can boot. -/
def Box.stepFail (b : Box) (j : Nat) : Box :=
  if j = 1 then b
  else
    let b := ((b.setBit .fwmStartFail (j - 1)).irq 2).raise 0 .fwmStartFail j sevError 0
    match j with
    | 2 => (b.put .secHuCapUf 0).stepFinish 2
    | 3 => if b.stepOver 3 then b.stepFinish 3 else b
    | 8 | 9 | 10 | 11 => b
    | j => b.stepFinish j

/-- Start-up step `j`: it starts when its entry condition holds; once entered, it completes or meets a failure. Step 2
measures the hold-up, but after a wake or a warm reset, which do not enter it. -/
def Box.startup (b : Box) (j : Nat) (ok : Bool) (capUf : Nat) : Box :=
  if b.stepDone j then b
  else if !b.start.entered.contains j then (if b.stepEntry j then b.stepEnter j else b)
  else if !ok then b.stepFail j
  else if !b.stepOver j then b
  else ((if j = 2 then b.put .secHuCapUf capUf else b).stepFinish j)

/-- The servo's offset has stayed within ±20 ns for 1 s: it sets ACQUIRED (R640). -/
def Box.timeAcquired (b : Box) : Box :=
  let b := b.put .timCtrlAcquired 1
  let b := if b.start.entered.contains 8 && !b.stepDone 8 then b.stepFinish 8 else b
  b.tryJoin

/-- A WAKE at the board target: in standby, start-up begins at step 3 in P0; in any other state it has no effect. Standby is
reached at once in this model, so no WAKE meets a module that is entering it. -/
def Box.wake (b : Box) : Box :=
  if b.get .pwrPsState % 8 ≠ 4 then b else (b.put .pwrPsState 0).startAt [1, 2] []

/-! ### The commands -/

/-- A step of start-up. -/
def execStartupStep (step : Fin 12) (ok : Bool) (capUf : BitVec 16) (s : State) : Host.Outcome State Fault Refusal :=
  act (fun b => b.startup step ok capUf.toNat) s

/-- The servo has locked. -/
def execFabricTimeAcquire (s : State) : Host.Outcome State Fault Refusal := act Box.timeAcquired s

/-- WAKE written to the board target. -/
def execWake (s : State) : Host.Outcome State Fault Refusal := act Box.wake s

/-- Bits written 1 at offset 0x12 of the board target. -/
def execInterruptCauseClear (bits : BitVec 16) (s : State) : Host.Outcome State Fault Refusal :=
  act (fun b => { b with start := { b.start with causes := b.start.causes - (b.start.causes &&& bits.toNat) } }) s

end Sys2Proof.Machine
end

