-- ==== Sys2Proof/Machine/Values.lean ====
section
/-!
DEFINITION. What registers accept: the ranges of fields, the conditions under which quiesced fields are written, and the checks
of staged collective definitions (R334, R652, R658, R659, R682).
-/
namespace Sys2Proof.Machine

/-! ### Ranges (R652) -/

/-- Throttle steps of a relay clock, MHz (R571). -/
def clockSteps : List Nat := [2000, 1750, 1500, 1250, 1000, 750, 500]

/-- Least bandwidths of a half, with one of them replaced (R447). -/
def Box.bwSum (b : Box) (h k v : Nat) : Nat := ((upTo 6).map (fun x => if x = k then v else b.get .memBwMinGbps h x)).sum

/-- Whether a value lies in a field's stated range or value set (DESIGN CHOICE, log 61). -/
def Box.valueOk (b : Box) (r : Reg) (i j v : Nat) : Bool :=
  match r with
  | .timVoteCloseNs => decide (v ≤ 2 ^ (b.get .timLapExp - 1))
  | .timLapExp => decide (10 ≤ v) && decide (v ≤ 30)
  | .timCgCmd => decide (v ≤ 6)
  | .prtWidth | .prtCrouterN | .prtLaneFecReq | .prtMode | .fwdNhsMode | .memRateMax | .gstWinKind | .bufColourDscp
  | .rlyTCmd | .colQuarCmd | .embTblCmd | .telSmpEvent => decide (v ≤ 2)
  | .fwdMtu => decide (v ≤ 9216)
  | .fwdSweepUs => decide (500 ≤ v)
  | .fwdDscpRung => v == 0 || v == 3
  | .bufIqAlpha | .bufEqAlpha => decide (v < 4) || decide (8 ≤ v)
  | .bufAlphaIng | .bufAlphaEgr => decide (v < 4) || decide (9 ≤ v)
  | .pacSampleNs => decide (64 ≤ v) && decide (v ≤ 4096)
  | .pacQRate => j == 0 || decide (1000 ≤ v)
  | .rlySteer => halfOfCore v == i
  | .rlySubst => halfOfCore v == halfOfCore i
  | .rlyWqBundle => decide (v < 16) || v == 0x1F
  | .colHeatProg => decide (1 ≤ v) && decide (v ≤ 4)
  | .memScrubH => decide (1 ≤ v) && decide (v ≤ 168)
  | .memBwMinGbps => decide (b.bwSum i j v ≤ 400)
  | .gstWinTag => decide (0x20 ≤ v)
  | .marQuorum => decide (2 ≤ v) && decide (v ≤ 8)
  | .marMemberN => decide (v ≤ 64)
  | .marSpareFeidCnt => decide (v ≤ 4096)
  | .pwrPsReq => decide (v ≤ 4)
  | .pwrTjLim => decide (v + 5 ≤ b.get .grdEnvTripC)
  | .pwrDieCeilMhz => clockSteps.contains v
  | .fwmCoreCmd => v != 2
  | .fwmImgCmd => decide (v ≤ 4)
  | .mbxBrdLink => decide (v < 128) || v == 0xFF
  | .telMonSampleUs => decide (1 ≤ v)
  | .telSmpLane => decide (v < 1024) || v == 0x7FF
  | .telCntSel => v % 4 != 3 && v / 2 ^ 26 != 3
  | .telMonSrc => decide (v < 16) || (Machine.locate v).isSome || inMem v || inTables v
  | _ => true

/-! ### Quiesced fields (R57, R659) -/

/-- Half of an LPDDR6 window that the relay address names. -/
def Window.half (w : Window) : Nat := memHalf (w.base - lpddrAddr)

/-- Whether some bundle window is assigned on a half. -/
def Box.winAssigned (b : Box) (h : Nat) : Bool :=
  b.rly.bundles.any (fun e => e.2.placed != [] && e.2.windows.any (fun w => w.kind == 1 && w.half == h))

/-- Whether the user of a quiesced field rests; the fields with a write of their own are checked there. -/
def Box.quiet (b : Box) (r : Reg) (i j : Nat) : Bool :=
  match r with
  | .timLapExp => (upTo 64).all (fun n => b.get .timCalState n == 0) && (upTo 16).all (fun n => b.cgState n == cgFree)
  | .prtPfRole | .prtCrouterPos | .prtMode => !b.fibreRunning i
  | .prtLaneRplEn => b.laneIdle i j
  | .lckDitherPm => !b.start.entered.contains 6
  | .fwdKfhEtype | .fwdKfhUdp | .fwdHseed0 | .fwdHseed1 | .fwdHseed2 | .fwdHseed3 =>
    !b.stepDone 7 || b.mar.resets.any (fun r => r.domain == 4)
  | .colDieRsvMaxKib => !(b.regs.any (fun e => e.1.reg == .colGrpCtrl && bitAt e.2 0 && b.get .colGrpQuotaKib e.1.i != 0))
  | .memRateMax | .memPprEn => b.get .memState 0 != 1 && b.get .memState 1 != 1
  | .memWinGib => !b.winAssigned i
  | .mbxBrdLink =>
    let f := b.get .mbxBrdLink i
    !(decide (f < 128) && b.get .prtMode f == 2 && b.fibreRunning f)
  | .mbxOmpPort => (upTo 16).all (fun k => b.get .mbxSessState k == 0)
  | .mbxKs7 => b.get .mbxFull i == 0 && !b.locked i
  | .gstWinKind | .gstWinBase | .gstWinSize | .gstWinRights | .gstWinTag | .gstPostq | .gstNotifyBase | .gstNotifyLines =>
    b.gstate i != gsRun
  | _ => true

/-! ### Fields that only commit groups change (R658) -/

/-- Fields of a collective definition (R332). -/
def colFields : List Reg :=
  [.colGrpCtrl, .colGrpKind, .colGrpOp, .colGrpFmtIn, .colGrpAcc, .colGrpFmtOut, .colGrpGen, .colGrpRanks, .colGrpFirstSeq,
   .colGrpSeed, .colGrpRfeid, .colGrpAxG, .colGrpAxI, .colGrpAxP, .colGrpOrder, .colGrpQuotaKib, .colGrpSpillMaxMib,
   .colGrpTimeoutUs, .colGrpTopk, .colGrpRsDiv, .colGrpWq, .colGrpMirrorExp]

/-- Fields of a table definition and of the shard map (R396). -/
def embFields : List Reg :=
  [.embTblCtrl, .embTblFmt, .embTblDim, .embTblHalfBit, .embTblGfrac, .embTblWq, .embTblSeed, .embTblFirstStep]
@[inherit_doc embFields] def mapFields : List Reg :=
  [.embMapCtrl, .embMapTable, .embMapRepl, .embMapRowLo, .embMapRowHi, .embMapBaseN, .embMapBaseS, .embMapStateN, .embMapStateS]

/-- Whether a field changes only through commit groups. -/
def groupOnly (r : Reg) : Bool :=
  colFields.contains r || sprFields.contains r || embFields.contains r || mapFields.contains r
    || [Reg.optBypPass, .embTblCstep, .rlyBundleRun].contains r

/-! ### Collective definitions (R308, R322, R334, R682) -/

/-- Whether a format takes MX scaling, and a format code with its scaling is one of R282. -/
def defFmtOk (f : Nat) (mx : Bool) : Bool := decide (f ≤ fKbp) && (!mx || (decide (fE4m3 ≤ f) && decide (f ≤ fInt8)))

/-- Whether an operator may reduce an input format in an accumulation width. -/
def reduceOk (op f : Nat) (mx : Bool) (acc : Nat) : Bool :=
  if f < fInt8 then
    if op = 0 ∨ op = 1 then decide (acc ≤ 2)
    else if 2 ≤ op ∧ op ≤ 4 then decide (acc ≤ 1)
    else (op == opArgmax || op == opTopk) && !mx && acc == 0
  else if f = fKbp then (op == 0 || op == 1) && (acc == 0 || acc == 2)
  else if mx then (op == 0 && (acc == 1 || acc == 2)) || ((op == 2 || op == 3) && acc == 1)
  else acc == 0 && [0, 2, 3, 5, 6, 7, opArgmax, opTopk].contains op

/-- Whether the definition of group n in `v` is VALID, and one that the device itself reduces. -/
def Box.colValid (v : Box) (n : Nat) : Bool := v.bit .colGrpCtrl 0 n
@[inherit_doc Box.colValid] def Box.colCounts (v : Box) (n : Nat) : Bool := v.colValid n && v.get .colGrpKind n != 15

/-- What a definition that the device reduces must meet. -/
def Box.reduces (v : Box) (n : Nat) : Bool :=
  let g := v.grp n
  defFmtOk g.fin g.mxIn && defFmtOk g.fout g.mxOut && reduceOk g.op g.fin g.mxIn g.acc
    && (!g.pairs || (g.kind == 0 && g.acc == 0 && g.fout == g.fin && g.mxOut == g.mxIn))
    && (g.op != opTopk || (decide (1 ≤ v.get .colGrpTopk n) && decide (v.get .colGrpTopk n ≤ 512)))
    && (g.kind != 2 || (g.fout == g.fin && g.mxOut == g.mxIn))
    && decide (1 ≤ g.ranks) && decide (g.ranks ≤ 2 ^ 20) && v.get .colGrpRsDiv n != 0 && decide (v.get .colGrpMirrorExp n ≤ 16)

/-- Whether a definition of group n, staged in `v` over `b`, fails R334 by itself. -/
def Box.colBad (b v : Box) (n : Nat) : Bool :=
  v.colValid n &&
    (!([0, 1, 2, 15] : List _).contains (v.get .colGrpKind n)
      || !axesOk (v.get .colGrpOrder n) (v.get .colGrpAxG n) (v.get .colGrpAxI n) (v.get .colGrpAxP n)
      || (v.get .colGrpKind n != 15 && !v.reduces n)
      || (b.colValid n && colFields.any (fun r => b.get r n != v.get r n) && b.get .colGrpGen n == v.get .colGrpGen n))

/-- The valid groups whose quotas count. -/
def Box.colSummed (v : Box) : List Nat :=
  (v.regs.filterMap (fun e => if e.1.reg = .colGrpCtrl ∧ bitAt e.2 0 then some e.1.i else none)).filter v.colCounts

/-- The quotas of the valid groups, and their spill limits. -/
def Box.quotaSum (v : Box) : Nat := (v.colSummed.map (fun n => v.get .colGrpQuotaKib n)).sum
@[inherit_doc Box.quotaSum] def Box.spillSum (v : Box) : Nat := (v.colSummed.map (fun n => v.get .colGrpSpillMaxMib n)).sum

end Sys2Proof.Machine
end

