-- ==== Sys2Proof/Machine/Commit.lean ====
section
/-!
DEFINITION. Commit groups: staging, the checks at the seal, votes and outcomes (R63 to R76, R152, R187, R334, R375, R421).
-/
namespace Sys2Proof.Machine

/-! ### What is staged, as it would stand (R69) -/

/-- The value of a field after a word of its register is written: reserved bits are ignored (R16; DESIGN CHOICE, log
53). -/
def Box.fieldData (b : Box) (x : Hit) (r : Reg) (d : Nat) : Nat :=
  if r.words = 1 then d / 2 ^ r.info.lo % 2 ^ r.info.width
  else
    let old := b.get r x.i x.j x.k
    (old - wordOf old x.word * 2 ^ (64 * x.word) + d * 2 ^ (64 * x.word)) % 2 ^ r.info.width

/-- The fields that staged writes touch. -/
def touched (l : List (Nat × Nat)) : List RegKey :=
  (l.flatMap (fun e => match Machine.locate e.1 with
    | some x => x.regs.map (fun r => ⟨r, x.i, x.j, x.k⟩)
    | none => [])).eraseDups

/-- The registers as the staged writes leave them. -/
def Box.overlay (b : Box) (l : List (Nat × Nat)) : Box :=
  l.foldl (fun (v : Box) (e : Nat × Nat) => match Machine.locate e.1 with
    | some x => v.each x.regs (fun v r => v.put r (v.fieldData x r e.2) x.i x.j x.k)
    | none => v) b

/-- Instances whose definition fields are touched. -/
def instances (l : List RegKey) (fields : List Reg) : List Nat :=
  ((l.filter (fun q => fields.contains q.reg)).map (·.i)).eraseDups

/-- Lanes that the passes of a group will take drain, with the time to its lap (R153; DEDUCED, log 58). -/
def Box.passDrain (b : Box) (n at_ : Nat) : Box :=
  let g := b.cg n
  let v := b.overlay g.writes
  let us := (at_ - b.ns) / 1000
  b.each (instances (touched g.writes) [.optBypPass]) (fun b x =>
    b.each (upTo 16) (fun b i => b.each (upTo 8) (fun b w =>
      let outF := 16 * x + (i + w + 1) % 16
      if v.bit .optBypPass w x i && !b.bit .optBypPass w x i && !b.laneIdle outF w then b.laneGo us outF w else b)))

/-! ### CMD (R67, R68, R71, R76) -/

/-- Whether a group that holds no other reason may open (R68). -/
def Box.mayOpen (b : Box) (n : Nat) : Bool :=
  let c := b.get .timCgCommitLap n
  let voting := b.get .timCgVoteGrp n != 0xFFFF
  b.cgState n == cgFree && decide (b.lap + 3 ≤ c) && decide (c ≤ b.lap + 2 ^ 24)
    && decide ((if voting then 2 else 1) ≤ b.calFree.length) && (!voting || b.acquired) && b.get .mbxLeaseState == 1

/-- CMD = OPEN: COMMIT is armed at the commit lap, and for a voting group VOTE_CLOSE one lap before. -/
def Box.openCg (b : Box) (n : Nat) : Nat × Box :=
  if !b.mayOpen n then (1, b)
  else
    let c := b.get .timCgCommitLap n
    let g := b.get .timCgVoteGrp n
    let b := (b.setCg n (fun _ => { lap := c, grp := g })).put .timCgCmd 1 n
    let b := (b.calArm c 1 n).getD b
    let b := if g = 0xFFFF then b else (b.calArm (c - 1) 2 n).getD b
    (0, ((b.put .timCgWrites 0 n).put .timCgBytes 0 n).cgGo n cgOpen)

/-- CMD = SEAL: staging closes. -/
def Box.sealCg (b : Box) (n : Nat) : Nat × Box :=
  if b.cgState n = cgOpen then (0, (b.put .timCgCmd 2 n).cgGo n cgSealed) else (1, b)

/-- CMD = ABORT, of an OPEN or BROKEN group: a voting group casts 0 at once. -/
def Box.abortCg (b : Box) (n : Nat) : Nat × Box :=
  if b.cgState n = cgOpen ∨ b.cgState n = cgBroken then (0, ((b.put .timCgCmd 3 n).cgCast n false).cgAbort n) else (1, b)

/-- CMD = RELEASE. -/
def Box.releaseCg (b : Box) (n : Nat) : Nat × Box :=
  if b.cgState n = cgCommitted ∨ b.cgState n = cgAborted then
    (0, ((b.put .timCgCmd 4 n).setCg n (fun _ => {})).cgGo n cgFree)
  else (1, b)

/-- CMD = RESOLVE-COMMIT: the staged writes apply at the next lap boundary. -/
def Box.resolveCg (b : Box) (n : Nat) : Nat × Box :=
  if b.cgState n = cgInDoubt ∧ (b.cg n).resolve = false then
    (0, ((b.put .timCgCmd 5 n).setCg n (fun x => { x with resolve := true })).passDrain n (b.lapStart (b.lap + 1)))
  else (1, b)

/-- CMD = RESOLVE-ABORT. -/
def Box.unresolveCg (b : Box) (n : Nat) : Nat × Box :=
  if b.cgState n = cgInDoubt ∧ (b.cg n).resolve = false then (0, (b.put .timCgCmd 6 n).cgAbort n) else (1, b)

/-- A write to TIM.CG[n].CMD: 0 changes nothing (DEDUCED, log 55). -/
def Box.writeCgCmd (b : Box) (n v : Nat) : Nat × Box :=
  match v with
  | 0 => (0, b)
  | 1 => b.openCg n
  | 2 => b.sealCg n
  | 3 => b.abortCg n
  | 4 => b.releaseCg n
  | 5 => b.resolveCg n
  | 6 => b.unresolveCg n
  | _ => (1, b)

/-! ### Staging (R64, R65) -/

/-- A write to STAGE_ADDR. -/
def Box.stageAddr (b : Box) (n a : Nat) : Nat × Box :=
  if b.cgState n = cgOpen then (0, b.put .timCgStageAddr a n) else (1, b)

/-- A staged unit joins a group. -/
def Box.stage (b : Box) (n : Nat) (u : StageUnit) : Box := b.setCg n (fun x => { x with staged := x.staged ++ [u] })

/-- Whether every field of a register takes staged writes. -/
def Hit.staged (x : Hit) : Bool := x.regs.all (fun r => r.info.cls == .live || r.info.cls == .epoch)

/-- A write to STAGE_DATA: one register write, or 8 bytes of the table window (DESIGN CHOICE, log 51; DESIGN CHOICE,
log 52). -/
def Box.stageData (b : Box) (n d : Nat) : Nat × Box :=
  let a := b.get .timCgStageAddr n
  if b.cgState n ≠ cgOpen then (1, b)
  else if inTables a then
    if a % 8 ≠ 0 then (1, b.cgBreak n 1)
    else if 2 ^ 20 < b.get .timCgBytes n + 8 then (1, b.cgBreak n 3)
    else (0, ((((b.put .timCgStageData d n).stage n (.tbl a d)).put .timCgBytes (b.get .timCgBytes n + 8) n).put
      .timCgStageAddr (a + 8) n))
  else match Machine.locate a with
    | none => (1, b.cgBreak n 1)
    | some x =>
      if !x.staged then (1, b.cgBreak n 0)
      else if 4096 ≤ b.get .timCgWrites n then (1, b.cgBreak n 2)
      else (0, ((b.put .timCgStageData d n).stage n (.reg a d)).put .timCgWrites (b.get .timCgWrites n + 1) n)

/-! ### The checks at the seal -/

/-- A pass of colour w on fibre 16g + i that R152 refuses. -/
def Box.passBad (b v : Box) (g i w : Nat) : Bool :=
  let inF := 16 * g + i
  let outF := 16 * g + (i + w + 1) % 16
  v.bit .optBypPass w g i &&
    (!b.bit .grdBypPermit (8 * i + w) g || b.rxSlot inF w != w || b.txSlot outF w != w || b.hasSpare outF w
      || b.opt.pend.any (fun r => r.f == outF && r.w == w)
      || (b.opt.cal.find g).any (fun c => c.1 == outF && c.2.1 == w))

/-- Whether definitions that both halves hold fail (R69, R334, R375, R398, R421). -/
def Box.definitionsBad (b v : Box) (l : List RegKey) : Bool :=
  (instances l colFields).any (b.colBad v) || (instances l sprFields).any (b.sprBad v)
    || (instances l embFields).any (b.tblBad v) || (instances l mapFields).any v.mapBad
    || (instances l [.embTblCstep]).any (fun t => b.tbState t != tbClosed || b.get .embTblStep t != v.get .embTblCstep t)
    || ((instances l colFields).any v.colCounts && decide (2048 < v.spillSum))

/-- Whether the share of a half fails: ranges of its fields, sums per die and per home half, passes of its colours; of north
also the class shares and the vote group. -/
def Box.shareBad (b v : Box) (l : List RegKey) (h vote : Nat) : Bool :=
  l.any (fun q => q.reg.half q.i q.j q.k == h && !v.valueOk q.reg q.i q.j (v.get q.reg q.i q.j q.k))
    || ((instances l colFields).any v.colCounts
      && [2 * h, 2 * h + 1].any (fun d => decide (v.get .colDieRsvMaxKib d < v.quotaSum)))
    || ((instances l sprFields).any v.sprValid && decide (8192 < v.sprLines h))
    || l.any (fun q => q.reg == .optBypPass && (upTo 8).any (fun w => halfOf w == h && b.passBad v q.i q.j w))
    || (h == 0 && l.any (fun q => q.reg == .ddlSharePct)
      && decide (100 < v.get .ddlSharePct 1 + v.get .ddlSharePct 2 + v.get .ddlSharePct 3))
    || (h == 0 && vote != 0xFFFF && !b.voteGrpOk vote)

/-- Whether a staged word sets a bit that no field of its register takes, or a bit of COL.GRP[n].CTRL that R332 fixes at
0 (DEDUCED, log 139). -/
def reservedSet (x : Hit) (d : Nat) : Bool :=
  (x.key.reg == .colGrpCtrl && bits d 7 3 != 0) || d &&& wordOf ((x.regs.map (fun r => (2 ^ r.info.width - 1) * 2 ^ r.info.lo)).sum) x.word != d

/-- Whether reserved bits of a half's share are set; definitions that both halves hold are of both shares. -/
def reservedBad (l : List (Nat × Nat)) (h : Nat) : Bool :=
  l.any (fun e => (Machine.locate e.1).any (fun x =>
    reservedSet x e.2 && (groupOnly x.key.reg || x.key.reg.half x.i x.j x.k == h)))

/-- The table records of a group placed, none where they break a rule or find no room (R187, R655). -/
def Box.placeRecords (b : Box) (g : CgSt) : Option Box :=
  match recordsOf g.units with
  | none => none
  | some l => if b.checkRecords [] l then b.stageRecords l else none

/-- The seal check of a group: whether north and south fail, and the device with the records placed and the tables
bound. -/
def Box.sealCheck (b : Box) (n : Nat) : Bool × Bool × Box :=
  let g := b.cg n
  let l := touched g.writes
  let v := b.overlay g.writes
  let placed := b.placeRecords g
  let both := b.definitionsBad v l || placed.isNone
  let b' := (placed.getD b).setCg n (fun x => { x with placed := g.units != [] })
  (both || b.shareBad v l 0 g.grp || reservedBad g.writes 0, both || b.shareBad v l 1 g.grp || reservedBad g.writes 1,
    b'.each (instances l [.embTblCstep]) (fun b t => b.put .embTblCg n t))

/-- Both halves have finished their checks: the module votes, or the group breaks. A module that has voted already, or whose
lease has ended, does not vote again (R69, R70, R80; DESIGN CHOICE, log 59). -/
def Box.sealDone (b : Box) (n : Nat) : Box :=
  if b.cgState n ≠ cgSealed then b
  else
    let (north, south, b') := b.sealCheck n
    if north || south then
      let b := if north then b.setBit .timCgErr 4 n else b
      let b := if south then b.setBit .timCgErr 5 n else b
      (b.cgGo n cgBroken).cgCast n false
    else if (b.cg n).cast.isSome || (b.cg n).doomed then b'
    else
      let b' := b'.cgGo n cgVoted
      if (b.cg n).voting then b'.cgCast n true
      else
        let b' := b'.setCg n (fun x => { x with cast := some true, outcome := some true })
        if (b.cg n).lap ≤ b.lap + 2 then b'.passDrain n (b.lapStart (b.cg n).lap) else b'

/-! ### Outcomes (R71, R75, R76, R384) -/

/-- An outcome for the groups of a vote group and commit lap (DEDUCED, log 56). -/
def Box.outcome (b : Box) (grp seq : Nat) (ok : Bool) : Box :=
  b.each (upTo 16) (fun b n =>
    let g := b.cg n
    if !g.voting ∨ g.grp ≠ grp ∨ g.lap % 2 ^ 32 ≠ seq then b
    else if b.cgState n = cgVoted ∧ g.outcome = none then
      if ok then (b.setCg n (fun x => { x with outcome := some true })).passDrain n (b.lapStart g.lap) else b.cgAbort n
    else if b.cgState n = cgInDoubt ∧ g.resolve = false then
      if ok then (b.setCg n (fun x => { x with resolve := true })).passDrain n (b.lapStart (b.lap + 1)) else b.cgAbort n
    else b)

/-- An outcome enters VOTE_LOG; an entry less than 4096 laps old that it overwrites is counted and named in a record
(DEDUCED, log 57). -/
def Box.voteLog (b : Box) (grp lap outcome : Nat) : Box :=
  let m := b.tim.votePos
  let old := b.get .timVoteLog m
  let oldLap := old / 2 ^ 16 % 2 ^ 54
  let b := if old ≠ 0 ∧ b.lap < oldLap + 4096 then
      (b.bump .timVoteLogLost).raise 0 .timVoteLogLost (old % 2 ^ 16) sevError 0 (old % 2 ^ 16 * 2 ^ 704 + oldLap)
    else b
  { b.put .timVoteLog (grp + lap % 2 ^ 54 * 2 ^ 16 + outcome * 2 ^ 72) m with
    tim := { b.tim with votePos := (m + 1) % 4096 } }

/-- The tree of a vote group is closed for a commit lap. -/
def Box.voteClose (b : Box) (grp lap : Nat) : Box :=
  match b.closeVote grp lap with
  | (none, b) => b
  | (some v, b) => (b.voteLog grp lap (if v = 1 then 1 else 0)).outcome grp (lap % 2 ^ 32) (v == 1)

/-! ### The reference (R49) -/

/-- The board reference has failed: ACQUIRED is cleared, and every voting group that has not voted casts 0. -/
def Box.refLost (b : Box) : Box :=
  let b := (b.put .timStatusRefLost 1).put .timCtrlAcquired 0
  b.each (upTo 16) (fun b n => if [cgOpen, cgBroken, cgSealed].contains (b.cgState n) then b.cgCast n false else b)

/-! ### The commands -/

/-- CMD = OPEN written. -/
def execCgOpen (src : Src) (n : Fin 16) (s : State) : Host.Outcome State Fault Refusal :=
  act (fun b => b.regWrite src (fun b => b.writeCgCmd n 1)) s

/-- STAGE_ADDR written. -/
def execCgStageAddrWrite (src : Src) (n : Fin 16) (addr : BitVec 48) (s : State) : Host.Outcome State Fault Refusal :=
  act (fun b => b.regWrite src (fun b => b.stageAddr n addr.toNat)) s

/-- STAGE_DATA written. -/
def execCgStageDataWrite (src : Src) (n : Fin 16) (data : BitVec 64) (s : State) : Host.Outcome State Fault Refusal :=
  act (fun b => b.regWrite src (fun b => b.stageData n data.toNat)) s

/-- CMD = SEAL written. -/
def execCgSeal (src : Src) (n : Fin 16) (s : State) : Host.Outcome State Fault Refusal :=
  act (fun b => b.regWrite src (fun b => b.writeCgCmd n 2)) s

/-- Both halves finish their checks. -/
def execCgSealCheckDone (n : Fin 16) (s : State) : Host.Outcome State Fault Refusal := act (fun b => b.sealDone n) s

/-- CMD = ABORT written. -/
def execCgAbort (src : Src) (n : Fin 16) (s : State) : Host.Outcome State Fault Refusal :=
  act (fun b => b.regWrite src (fun b => b.writeCgCmd n 3)) s

/-- CMD = RELEASE written. -/
def execCgRelease (src : Src) (n : Fin 16) (s : State) : Host.Outcome State Fault Refusal :=
  act (fun b => b.regWrite src (fun b => b.writeCgCmd n 4)) s

/-- CMD = RESOLVE-COMMIT written. -/
def execCgResolveCommit (src : Src) (n : Fin 16) (s : State) : Host.Outcome State Fault Refusal :=
  act (fun b => b.regWrite src (fun b => b.writeCgCmd n 5)) s

/-- CMD = RESOLVE-ABORT written. -/
def execCgResolveAbort (src : Src) (n : Fin 16) (s : State) : Host.Outcome State Fault Refusal :=
  act (fun b => b.regWrite src (fun b => b.writeCgCmd n 6)) s

/-- VOTE_CLOSE_NS have passed in the lap before the commit lap of a vote. -/
def execVoteTreeClose (grp : Fin 256) (commitLap : BitVec 54) (s : State) : Host.Outcome State Fault Refusal :=
  act (fun b => b.voteClose grp commitLap.toNat) s

/-- An outcome frame that a service FEID of the module addresses has reached CTL. -/
def execVoteOutcomeReceived (grp : BitVec 16) (seq : BitVec 32) (outcome : Bool) (s : State) :
    Host.Outcome State Fault Refusal := act (fun b => b.outcome grp.toNat seq.toNat outcome) s

/-- The board reference fails. -/
def execReferenceLost (s : State) : Host.Outcome State Fault Refusal := act Box.refLost s

end Sys2Proof.Machine
end

