-- ==== Sys2Proof/Machine/RegWrite.lean ====
section
/-!
DEFINITION. What a write into the management address space does: who may write, the class of the field, and the fields whose
write acts at once (R497, R641 to R662).
-/
namespace Sys2Proof.Machine

/-! ### Quiesced and sticky fields (R57, R484, R659, R660) -/

/-- The lap exponent changes: what was due at a boundary of the old numbering is due at the next one of the new
(DESIGN CHOICE, log 47). -/
def Box.writeLapExp (b : Box) (v : Nat) : Nat × Box :=
  if !b.quiet .timLapExp 0 0 then (1, b)
  else
    let b := b.put .timLapExp v
    let due (e : RegKey × Nat × Nat) : RegKey × Nat × Nat := (e.1, e.2.1, b.lap + 1)
    (0, { b with tim := { b.tim with lapDone := b.lap, shadow := b.tim.shadow.map due } })

/-- The 400 G ports that are members of valid groups. -/
def Box.usedPorts (b : Box) : List Nat :=
  (b.regs.flatMap (fun e =>
    if e.1.reg = .colGrpCtrl ∧ bitAt e.2 0 then
      memberPorts (b.get .colGrpOrder e.1.i) (b.get .colGrpAxG e.1.i) (b.get .colGrpAxI e.1.i) (b.get .colGrpAxP e.1.i)
    else if e.1.reg = .sprGrpCtrl ∧ bitAt e.2 0 then b.sprPorts e.1.i
    else [])).eraseDups

/-- A write to PRT[f].MODE: 1 and 2 are refused on a fibre of a member port or of a bypass circuit. -/
def Box.writeMode (b : Box) (f v : Nat) : Nat × Box :=
  let used := b.usedPorts.any (fun p => p / 4 == f) || (upTo 8).any (fun w => b.bypassIn f w || b.bypassOut f w)
  if !b.quiet .prtMode f 0 || (v != 0 && used) then (1, b) else (0, b.put .prtMode v f)

/-- A write to a class Q field whose value is in range. -/
def Box.writeQuiet (b : Box) (r : Reg) (i j k v : Nat) : Nat × Box :=
  match r with
  | .timLapExp => b.writeLapExp v
  | .prtMode => b.writeMode i v
  | .prtWidth => b.writeWidth i j v
  | .prtBond => b.writeBond i j v
  | .prtCrouterN => b.writeCrouterN i v
  | .prtLaneFecReq => b.writeFecReq i j v
  | .rlyIstore => b.writeIstore i j v
  | .bufFenceCmd => b.fenceCmd i v
  | r => if b.quiet r i j then (0, b.put r v i j k) else (1, b)

/-- A write to a class S field. -/
def Box.writeSticky (b : Box) (src : Nat) (r : Reg) (i j k v : Nat) : Nat × Box :=
  match r with
  | .rlyTFault | .gstFenceCause | .rlyBundleErr => (0, if v = 0 then b else b.put r 0 i j k)
  | .grdEvent => b.guardClear src v (b.get .pwrPinW)
  | r => (0, b.put r (b.get r i j k &&& (2 ^ r.info.width - 1 - v % 2 ^ r.info.width)) i j k)

/-! ### Live fields (R656) -/

/-- A write to a dump range: a range with an unmapped word, or a profile of more than 2^20 words per half, is refused
(R620). -/
def Box.writeRange (b : Box) (r : Reg) (j k v : Nat) : Nat × Box :=
  let b' := b.put r v j k
  let mine := (upTo (b'.get .telDumpRangeWords j k)).map (fun n => b'.get .telDumpRangeBase j k + 8 * n)
  if mine.any (fun a => (Machine.locate a).isNone)
    ∨ [0, 1].any (fun h => decide (2 ^ 20 < (b'.wordsOfHalf h (b'.rangeWords j)).length)) then (1, b)
  else (0, b')

/-- A write to TEL.PERM[k] (R635). -/
def Box.writePerm (b : Box) (src : Nat) (r : Reg) (k v : Nat) : Nat × Box :=
  if !b.isAgent src then (4, b) else if b.get .mbxSessState k = 0 then (1, b) else (0, b.put r v k)

/-- A write to a class L field of the TIM block whose value is in range. -/
def Box.writeTim (b : Box) (src : Nat) (r : Reg) (i v : Nat) : Nat × Box :=
  match r with
  | .timIncr => b.writeIncr v
  | .timStep => b.writeStep v
  | .timSetNs => b.writeSetNs v
  | .timCtrlAcquired => b.writeAcquired v
  | .timCalLap | .timCalArg => if b.get .timCalState i = 1 then (1, b) else (0, b.put r v i)
  | .timCalAction => b.writeCalAction src i v
  | .timCgCmd => b.writeCgCmd i v
  | .timCgCommitLap | .timCgVoteGrp => if b.cgState i = cgFree then (0, b.put r v i) else (1, b)
  | .timCgStageAddr => b.stageAddr i v
  | .timCgStageData => b.stageData i v
  | r => (0, b.put r v i)

/-- A write to a class L field of management, power and telemetry blocks whose value is in range. -/
def Box.writeMgmt (b : Box) (m : Mem) (src : Nat) (r : Reg) (i j k v : Nat) : Nat × Box :=
  match r with
  | .fwmCoreCmd => b.coreCmd src i v
  | .fwmCoreWd => (0, b.put .fwmCoreWd 1 i)
  | .fwmCoreLogcmd => (0, b.logWrite i v)
  | .fwmCoreTrace => (0, b.trace i v)
  | .fwmRoleCmd => b.handBack src i v
  | .fwmImgCmd => b.imageCmd i v
  | .pwrPsReq => b.writePsReq v
  | .pwrFfsafe => (0, (b.put .pwrFfsafe v i).ffCheck)
  | .marErrAck => (0, (b.put .marErrAck v).retire v)
  | .marRstCmd => b.writeReset m src (v % 8) (v / 8)
  | .telClr => b.writeClr i j v
  | .telDumpRangeBase | .telDumpRangeWords => b.writeRange r i j v
  | .telSbufRd => (0, b.sbufRead i v)
  | .telMonCmd => (0, if v = 1 then b.monClear i j else b)
  | .telPermBlocks | .telPermGrpLo | .telPermGrpHi => b.writePerm src r i v
  | r => (0, b.put r v i j k)

/-- A write to a class L field whose value is in range. -/
def Box.writeLive (b : Box) (m : Mem) (src : Nat) (r : Reg) (i j k v : Nat) : Nat × Box :=
  match r with
  | .prtLaneCmd => b.writeLaneCmd i j v
  | .lckFfEn => (0, (b.put .lckFfEn v).ffCheck)
  | .optSelSrc => b.writeSel i v
  | .fwdTcmd => b.writeTcmd i v
  | .pacQRate | .pacQBurst | .pacLaneRate | .pacLaneBurst | .pacPortRate | .pacPortBurst => b.writePacer r i j v
  | .rlyTCmd => (0, b.thrCmd (16 * i + j) v)
  | .colQuarCmd => b.quarCmd i v
  | .colHeatCmd => (0, if v = 1 then b.heatCmd i else b.put .colHeatCmd v i)
  | .embTblCmd => b.embCmd i v
  | .ddlCmd => b.writeDdlCmd v
  | .ddlBundleEn => b.writeBundleEn v
  | .gstCmd => b.writeGuestCmd i v
  | .gstPwrMaxW => b.writeGuestCap i v
  | r => if r.info.block = 17 then b.writeTim src r i v else b.writeMgmt m src r i j k v

/-- A write of a field by a requester that may write it (R652, R656 to R661). -/
def Box.writeField (b : Box) (m : Mem) (src : Nat) (r : Reg) (i j k v : Nat) : Nat × Box :=
  if r.info.cls = .ro then (1, b)
  else if !b.valueOk r i j v then (1, b)
  else match r.info.cls with
    | .live => b.writeLive m src r i j k v
    | .epoch => if groupOnly r then (1, b) else (0, b.shadowPut r v i j k)
    | .quiesced => b.writeQuiet r i j k v
    | .sticky => b.writeSticky src r i j k v
    | .ro => (1, b)

/-- A write of all fields of a register: none is applied when one is refused (DEDUCED, log 63). What the refusal of a
register's only field does besides (R65, R186) is done. -/
def Box.writeFields (b : Box) (m : Mem) (src : Nat) (x : Hit) (d : Nat) : List Reg → Nat × Box
  | [] => (0, b)
  | [r] => b.writeField m src r x.i x.j x.k (d / 2 ^ r.info.lo % 2 ^ r.info.width)
  | r :: t =>
    match b.writeField m src r x.i x.j x.k (d / 2 ^ r.info.lo % 2 ^ r.info.width) with
    | (0, b') => match b'.writeFields m src x d t with
      | (0, b'') => (0, b'')
      | (st, _) => (st, b)
    | (st, _) => (st, b)

/-! ### Words (R651) -/

/-- The value of a register whose highest word is written: lower words as the requester holds them, else as they are. -/
def Box.heldValue (b : Box) (src : Nat) (x : Hit) (d : Nat) : Nat :=
  let old := b.regValue x
  ((upTo x.word).map (fun w => ((assocFind b.tim.held (src, x.key, w)).getD (wordOf old w)) * 2 ^ (64 * w))).sum
    + d * 2 ^ (64 * x.word)

/-- A write to a word of a register by a requester that may write it. -/
def Box.writeWord (b : Box) (m : Mem) (src : Nat) (x : Hit) (d : Nat) : Nat × Box :=
  if x.words = 1 then b.writeFields m src x d x.regs
  else if x.key.reg.info.cls = .ro then (1, b)
  else if x.word + 1 < x.words then
    (0, { b with tim := { b.tim with held := assocPut b.tim.held (src, x.key, x.word) d } })
  else
    let v := b.heldValue src x d
    let held := b.tim.held.filter (fun (e : (Nat × RegKey × Nat) × Nat) => !(e.1.1 == src && e.1.2.1 == x.key))
    let b := { b with tim := { b.tim with held := held } }
    b.writeField m src x.key.reg x.i x.j x.k (v % 2 ^ x.key.reg.info.width)

/-! ### Writes during a reset (R662) -/

/-- Whether a reset in force resets the block, or the instance, of a register (DEDUCED, log 64). -/
def ResetSt.holds (y : ResetSt) (x : Hit) : Bool :=
  let r := x.key.reg
  match y.domain with
  | 1 => r.info.block == 0 && (r.info.dims[1]?).any (fun d => d.1 == .slot) && phys x.i x.j == y.inst
  | 3 => [6, 7, 9].contains r.info.block
  | 4 => [3, 4, 5].contains r.info.block
  | 5 => ownerHalf r.info.dims [x.i, x.j, x.k] == some y.inst
  | _ => !warmKept r && r != .marRstCmd

/-- Whether a write waits for the end of a reset: not one to a quiesced field, which is applied at once. -/
def Box.waits (b : Box) (x : Hit) : Bool :=
  x.key.reg.info.cls != .quiesced && x.key.reg.info.cls != .ro && b.mar.resets.any (·.holds x)

/-! ### Who may write (R497, R652, R654, R655) -/

/-- Whether a requester may write a register: cores and the lease holder any; another live session what R499 to R503 name. -/
def Box.mayWrite (b : Box) (src : Nat) (x : Hit) : Bool :=
  isCore src || b.isAgent src || (b.liveSess src && x.channel.isSome && x.key.reg != .mbxRcv)

/-- A write in the LPDDR6 window: of a core, to the table overflow region (DEDUCED, log 66). -/
def Box.writeMem (b : Box) (src a d : Nat) : Nat × Box :=
  let off := a - lpddrAddr
  if a % 8 ≠ 0 then (5, b)
  else if !isCore src ∨ regionTag (memA off) ≠ 5 ∨ !b.memReady (memHalf off) then (1, b)
  else match b.memWrite off (leBytes 8 d) 5 with
    | (.ok, b) => (0, b)
    | (_, b) => (1, b)

/-- A write to a register word whose requester may write it, or has it wait for a reset to end. -/
def Box.writeReg (b : Box) (m : Mem) (src a d : Nat) (x : Hit) : Nat × Box :=
  if !b.mayWrite src x then (4, b)
  else if b.waits x then
    if x.regs.all (fun r => b.valueOk r x.i x.j (d / 2 ^ r.info.lo % 2 ^ r.info.width)) then
      (0, { b with mar := { b.mar with late := b.mar.late ++ [(src, a, d)] } })
    else (1, b)
  else b.writeWord m src x d

/-- A write of a word: status, the value an access returns, effect. -/
def Box.writeAddr (b : Box) (m : Mem) (src a d : Nat) : Nat × Nat × Box :=
  let st (p : Nat × Box) : Nat × Nat × Box := (p.1, 0, p.2)
  if inMem a ∨ inTables a then
    if !isCore src && !b.isAgent src then (4, 0, b)
    else if inMem a then st (b.writeMem src a d)
    else (if a % 8 = 0 then 1 else 5, 0, b)
  else match Machine.locate a with
    | none => (if isCore src || b.isAgent src then 5 else 4, 0, b)
    | some x =>
      match x.key.reg with
      | .mbxData => b.dataWrite src x.i d
      | .mbxRdata => b.rdataWrite src x.i d
      | .mbxBuf => b.bufWrite src x.i x.j d
      | .mbxDoorbell => b.doorbell src x.i (d % 2)
      | .mbxLock => b.lockWrite src x.i (d % 2 ^ 16)
      | .mbxLease => b.leaseWrite src d
      | _ => st (b.writeReg m src a d x)

/-- A reset has ended: the writes that waited for it are applied, in their order. -/
def Box.lateWrites (b : Box) (m : Mem) : Box :=
  let l := b.mar.late
  ({ b with mar := { b.mar with late := [] } }).each l (fun b e => (b.writeAddr m e.1 e.2.1 e.2.2).2.2)

/-! ### The commands -/

/-- A write to a register field that has no row of its own. -/
def execRegisterWrite (src : Src) (addr : BitVec 48) (data : BitVec 64) (s : State) : Host.Outcome State Fault Refusal :=
  act (fun b => b.answer src (fun b => b.writeAddr s.mem src.toNat addr.toNat data.toNat)) s

/-- A write of a pacer's RATE or BURST. -/
def execPacerRateWrite (src : Src) (addr : BitVec 48) (data : BitVec 64) (s : State) : Host.Outcome State Fault Refusal :=
  act (fun b => b.answer src (fun b => b.writeAddr s.mem src.toNat addr.toNat data.toNat)) s

/-- A write of a sampler's EN: its own generator, seeded then, is not stated, and its draws are free values. -/
def execSamplerEnable (src : Src) (addr : BitVec 48) (data : BitVec 64) (s : State) : Host.Outcome State Fault Refusal :=
  act (fun b => b.answer src (fun b => b.writeAddr s.mem src.toNat addr.toNat data.toNat)) s

/-- A write of TEL.PERM[k]. -/
def execPermWrite (src : Src) (addr : BitVec 48) (data : BitVec 64) (s : State) : Host.Outcome State Fault Refusal :=
  act (fun b => b.answer src (fun b => b.writeAddr s.mem src.toNat addr.toNat data.toNat)) s

/-- The duration of a reset has passed. -/
def execResetExit (s : State) : Host.Outcome State Fault Refusal := act (fun b => b.resetEnd.lateWrites s.mem) s

end Sys2Proof.Machine
end

