-- ==== Sys2Proof/Machine/Lap.lean ====
section
/-!
DEFINITION. The start of a lap: dumps, the congestion map, shadows, the calendar, commits; and the ticks that lead to it
(R42, R46, R61, R62, R71 to R78, R153, R248, R622, R657).
-/
namespace Sys2Proof.Machine

/-! ### What a boundary replaces (R77, R657) -/

/-- Keep what traffic stamped before the boundary of lap `l` still sees: the registers given, and the tables of `b`
(DESIGN CHOICE, log 50). -/
def Box.keepOld (b : Box) (l : Nat) (regs : List (RegKey × Nat)) : Box :=
  if regs = [] then b
  else
    let u : Undo := ⟨b.lapStart l * 65536, regs, b.fwd.pipes, b.fwd.lpm⟩
    { b with tim := { b.tim with undo := u :: b.tim.undo } }

/-- What follows when a class E field takes a value. -/
def Box.tookEffect (b : Box) (q : RegKey) : Box :=
  if q.reg = .ddlSharePct then b.budgets b.liveBundles.length else b.telEffect q

/-- Shadows that are due take effect, the last accepted of a field last (R657). -/
def Box.shadowLap (b : Box) (l : Nat) : Box :=
  let due := b.tim.shadow.filter (fun e => decide (e.2.2 ≤ l))
  let old := ((due.map (·.1)).eraseDups).map (fun q => (q, b.get q.reg q.i q.j q.k))
  let b := { b with tim := { b.tim with shadow := b.tim.shadow.filter (fun (e : RegKey × Nat × Nat) => !decide (e.2.2 ≤ l)) } }
  (b.keepOld l old).each due (fun b e => (b.put e.1.reg e.2.1 e.1.i e.1.j e.1.k).tookEffect e.1)

/-- The congestion map of the lap that ended is installed (R248), and shown to the monitors of lap boundaries (R630). -/
def Box.cmLap (b : Box) (l : Nat) : Box :=
  let old := (upTo 32).map (fun m => ((⟨.pacCmNow, m, 0, 0⟩ : RegKey), b.get .pacCmNow m))
  let b := b.cmFreeze (l - 1) (fun b x => !b.eligible x 0 none)
  let b := b.keepOld l (old.filter (fun e => b.get .pacCmNow e.1.i != e.2))
  let mons := b.regs.filterMap (fun e => if e.1.reg = .telMonKind ∧ e.2 = 3 then some (e.1.i, e.1.j) else none)
  b.each mons (fun b p =>
    let a := b.get .telMonArg p.1 p.2
    if b.get .telMonSrc p.1 p.2 % 16 = 6 ∧ a < 1024 then b.monTake p.1 p.2 (b.cmOf a) else b)

/-! ### Bypass circuits (R153) -/

/-- A pass of colour w on fibre 16g + i takes effect: its drop and comb-gate rings park, both lanes go dark. -/
def Box.passSet (b : Box) (g i w : Nat) : Box :=
  let inF := 16 * g + i
  let outF := 16 * g + (i + w + 1) % 16
  let b := (b.put .lckRingState rgParked inF w).put .lckRingState rgParked outF (20 + w)
  let cut (b : Box) (f : Nat) : Box := if b.laneIdle f w then b else b.laneCut f w
  cut (cut b inF) outF

/-- A pass is removed: the rings lock again and the lanes train. -/
def Box.passClear (b : Box) (g i w : Nat) : Box :=
  let inF := 16 * g + i
  let outF := 16 * g + (i + w + 1) % 16
  let b := (b.put .lckRingState rgSweep inF w).put .lckRingState rgSweep outF (20 + w)
  (b.laneRise inF w).laneRise outF w

/-- A commit applies the passes of fibre 16g + i; a pass without its permit bit is not applied (R533). -/
def Box.passCommit (b : Box) (g i v : Nat) : Box :=
  let old := b.get .optBypPass g i
  let new := (upTo 8).foldl (fun n w =>
    if bitAt v w ∧ (bitAt old w ∨ b.bit .grdBypPermit (8 * i + w) g) then n + 2 ^ w else n) 0
  let b := b.put .optBypPass new g i
  b.each (upTo 8) (fun b w =>
    if bitAt new w ∧ !bitAt old w then b.passSet g i w
    else if bitAt old w ∧ !bitAt new w then b.passClear g i w
    else b)

/-! ### Commits (R71, R72, R75 to R78) -/

/-- A staged register write takes effect, as one of the requester that holds the lease (DESIGN CHOICE, log 54). -/
def Box.applyUnit (m : Mem) (b : Box) (e : Nat × Nat) : Box :=
  match Machine.locate e.1 with
  | none => b
  | some x =>
    b.each x.regs (fun b r =>
      let v := b.fieldData x r e.2
      if r.info.cls = .live then (b.writeField m (b.get .mbxLeaseSrcid) r x.i x.j x.k v).2
      else match r with
        | .optBypPass => b.passCommit x.i x.j v
        | .rlyBundleRun => (b.put r v x.i).bundleRun x.i v
        | .embMapCtrl => b.put r (v % 4) x.i
        | r => (b.put r v x.i x.j x.k).tookEffect ⟨r, x.i, x.j, x.k⟩)

/-- Definitions that a commit replaced take effect: `o` is the device before it. -/
def Box.defsCommit (b o : Box) (l : List RegKey) (lap : Nat) : Box :=
  let b := b.each (instances l colFields) (fun b n =>
    if colFields.any (fun r => o.get r n != b.get r n) then b.groupCommit n else b)
  let b := b.each (instances l sprFields) (fun b n => if o.sprDiffers b n then b.sprCommit n else b)
  let b := (b.each (instances l embFields) Box.tblCommit).each (instances l mapFields) Box.mapCommit
  b.each (instances l [.embTblCstep]) (fun b t => if b.tbState t = tbClosed then b.commitStep t lap else b)

/-- A group applies at the start of a lap and enters COMMITTED. -/
def Box.cgApply (b : Box) (m : Mem) (n lap : Nat) : Box :=
  let g := b.cg n
  let l := (touched g.writes).filter (fun q => q.reg.info.cls == .epoch)
  let old := l.map (fun q => (q, b.get q.reg q.i q.j q.k))
  let o := b.keepOld lap (if g.placed ∧ old = [] then [(⟨.pacCmLap, 0, 0, 0⟩, b.get .pacCmLap)] else old)
  let b := o.each g.writes (Box.applyUnit m)
  let b := if g.placed then b.commitRecords g.records else b
  let b := b.defsCommit o l lap
  (b.setCg n (fun x => { x with staged := [], placed := false, resolve := false })).cgGo n cgCommitted

/-- The COMMIT entry of a group fires. -/
def Box.commitFire (b : Box) (m : Mem) (n lap : Nat) : Box :=
  let st := b.cgState n
  if st = cgVoted then
    if (b.cg n).outcome = some true then b.cgApply m n lap
    else (b.cgGo n cgInDoubt).raise 0 .timCgState n sevError 0
  else if st = cgOpen ∨ st = cgSealed ∨ st = cgBroken then (b.cgAbort n).raise 0 .timCgState n sevError 9
  else b

/-- The VOTE_CLOSE entry of a group fires. -/
def Box.voteFire (b : Box) (n : Nat) : Box :=
  if [cgOpen, cgSealed, cgBroken].contains (b.cgState n) then (b.cgCast n false).cgAbort n else b

/-! ### The calendar (R46, R61, R62) -/

/-- ARMED entries of an action and a lap, in ascending index. -/
def Box.calDue (b : Box) (action lap : Nat) : List Nat :=
  (upTo 64).filter (fun n => b.get .timCalState n == 1 && b.get .timCalAction n == action && b.get .timCalLap n == lap)

/-- An entry fires: it is logged, LATE ones are counted. -/
def Box.calFire (b : Box) (n outcome : Nat) : Box :=
  let b := b.calLog n outcome
  if outcome = 1 then b.bump .timCalLateCnt else b

/-- Entries of an action and a lap fire: `f` is what the action does with the argument. -/
def Box.fireAll (b : Box) (action lap : Nat) (late : Bool) (f : Box → Nat → Box) : Box :=
  b.each (b.calDue action lap) (fun b n => if b.get .timCalState n = 1 then f (b.calFire n (flag late)) (b.get .timCalArg n) else b)

/-- FW_ACTIVATE entries fire; one that an emergency holds is logged DEFERRED. -/
def Box.fireFw (b : Box) (lap : Nat) (late : Bool) : Box :=
  b.each (b.calDue 5 lap) (fun b n =>
    let (o, b) := b.fwActivate (b.get .timCalArg n) lap (flag late)
    b.calFire n o)

/-- A LAP_MARK rings the doorbell of a management core. -/
def Box.lapMark (b : Box) (core : Nat) : Box :=
  if core < 10 then ({ b with mbx := { b.mbx with marks := with_ b.mbx.marks core } }).emit (.wakeCore core) else b

/-- COMMIT in ascending group number; a group that CMD = RESOLVE, or a late outcome, released applies at the boundary that is
under way. -/
def Box.fireCommits (b : Box) (m : Mem) (lap : Nat) (late now : Bool) : Box :=
  b.each (upTo 16) (fun b n =>
    match (b.calDue 1 lap).find? (fun e => b.get .timCalArg e == n) with
    | some e => (b.calFire e (flag late)).commitFire m n lap
    | none => if now && b.cgState n == cgInDoubt && (b.cg n).resolve then b.cgApply m n lap else b)

/-- VOTE_CLOSE in ascending group number. -/
def Box.fireVotes (b : Box) (lap : Nat) (late : Bool) : Box :=
  b.each (upTo 16) (fun b n =>
    match (b.calDue 2 lap).find? (fun e => b.get .timCalArg e == n) with
    | some e => (b.calFire e (flag late)).voteFire n
    | none => b)

/-- The entries of a lap fire in the order of R61, but COUNTER_DUMP, which has fired; `now` for the lap that begins. -/
def Box.fireLap (b : Box) (m : Mem) (late now : Bool) (lap : Nat) : Box :=
  let b := (b.fireVotes lap late).fireCommits m lap late now
  let b := b.fireAll 3 lap late (fun b a => b.spareSwitch lap a)
  let b := b.fireAll 4 lap late (fun b a => b.calStep (a / 10) (a % 10))
  (b.fireFw lap late).fireAll 7 lap late Box.lapMark

/-- Put a lap in a list of laps in ascending order. -/
def lapIn : List Nat → Nat → List Nat
  | [], x => [x]
  | y :: t, x => if x = y then y :: t else if x < y then x :: y :: t else y :: lapIn t x

/-- The laps, up to the present one, at which entries are due, and the present one. -/
def Box.lapsDue (b : Box) (l : Nat) : List Nat :=
  ((upTo 64).filter (fun n => b.get .timCalState n == 1 && decide (b.get .timCalLap n ≤ l))).foldl
    (fun (a : List Nat) n => lapIn a (b.get .timCalLap n)) [l]

/-- Every profile that fires at the boundary is latched at once (R61, R621, R622). -/
def Box.dumpLap (b : Box) (l onTime : Nat) : Box :=
  let entries := (b.lapsDue l).flatMap (fun x => (b.calDue 6 x).map (fun n => (x, n)))
  let cal (j : Nat) : Bool := entries.any (fun e => b.get .timCalArg e.2 == j)
  let fire := ((upTo 16).filter (fun j => cal j || b.dumpDue l j)).map (fun j => (j, cal j))
  (b.dumpFire l fire).each entries (fun b e => b.calFire e.2 (flag (decide (onTime < e.1 ∨ e.1 < l))))

/-- Local groups whose lap is two laps ahead announce the lanes that their passes take. -/
def Box.drainLap (b : Box) (l : Nat) : Box :=
  b.each (upTo 16) (fun b n =>
    let g := b.cg n
    if b.cgState n = cgVoted ∧ !g.voting ∧ g.lap ≤ l + 2 then b.passDrain n (b.lapStart g.lap) else b)

/-- A lap boundary has been passed: the present lap has begun. `onTime` is the lap that plain counting had reached; the starts
of later laps were passed by a step or a load, and of laps before the present one too (R46; DEDUCED, log 49). -/
def Box.lapWork (b : Box) (m : Mem) (onTime : Nat) : Box :=
  let l := b.lap
  let b := (b.dumpLap l onTime).cmLap l
  let b := ((b.shadowLap l).clrLap).psLap l
  let b := b.each (b.lapsDue l) (fun b x => b.fireLap m (decide (onTime < x ∨ x < l)) (decide (x = l)) x)
  let b := ((b.lightLap l).actReleased).drainLap l
  { b with tim := { b.tim with lapDone := l } }

/-! ### Ticks (R42, R45 to R47) -/

/-- What the engines of the device do at every tick: the log writers, and frames that wait for cells (DESIGN CHOICE,
log 1). -/
def Box.engines (b : Box) : Box := (((b.logDrain 0).logDrain 1).colRetry).embRetry

/-- The lap that the present tick reaches by plain counting. -/
def Box.countedLap (b : Box) : Nat := (b.now.toNat + b.get .timIncr) / 2 ^ 40 / b.lapLen

/-- One tick of the time base. -/
def Box.tick (b : Box) (m : Mem) : Box :=
  let onTime := if b.tim.load.isSome then 0 else b.countedLap
  let b := b.tickTime.engines
  let b := if b.tim.lapDone < b.lap then b.lapWork m onTime
    else { b with tim := { b.tim with lapDone := b.lap } }
  b.countEdges.countLevels 1

/-- Time runs to the start of the next lap, or through a step or load that waits. -/
def Box.toBoundary (b : Box) (m : Mem) : Box :=
  if b.tim.load.isSome ∨ b.tim.step.isSome then b.tick m
  else
    let t := b.lapStart (b.lap + 1)
    let b := (b.engines.countEdges).countLevels (b.ticksTo t - 1)
    let b := b.runTo t
    ((b.lapWork m b.lap).countEdges).countLevels 1

/-! ### The commands -/

/-- A lap begins. -/
def execLapBoundary (s : State) : Host.Outcome State Fault Refusal := act (fun b => b.toBoundary s.mem) s

end Sys2Proof.Machine
end

