-- ==== Sys2Proof/Machine/Receive.lean ====
section
/-!
DEFINITION. A frame that a receive lane has decoded: stamp, damage, link retry on the receiving side, fences, the paths
past the pipelines, and admission into the cell buffer and an admission queue (R50, R86, R163, R201, R207, R213, R227 to
R231, R583, R595).
-/
namespace Sys2Proof.Machine

/-- A frame as a receive lane sees it: fibre, slot, logical lane, receive stamp, rung and bytes. -/
structure Rx where
  f : Nat
  s : Nat
  l : Nat
  stamp : Nat
  rung : Nat
  bytes : List Byte
  deriving DecidableEq, Repr

/-- What became of a frame at its receiver: taken, lost at admission, or held by a reset (no answer at all). -/
inductive Took where
  | taken | lost | silent
  deriving DecidableEq, Repr

/-- The bytes of a frame after its KFH, when it is a CTRL frame with the FEID of all ones: one hop only (R486, R595;
DEDUCED, log 69). -/
def hopBody (p : Parsed) (fr : List Byte) : Option (List Byte) :=
  if p.hasK ∧ p.op = opCtrl ∧ p.feid = 2 ^ 32 - 1 then some ((fr.take (endOf fr)).drop ((p.kfh.getD 0) + 16)) else none

/-- A hop-local marshal frame, handed over without the pipeline (R595, R608). -/
def Box.hopLocal (b : Box) (f s : Nat) (body : List Byte) : Box :=
  let m := beNat (body.take 32)
  match bits m 223 216 with
  | 0x10 => b.reportIn (bits m 255 224) (bits m 191 160) (bits m 127 64)
  | 0x11 => b.verdictIn ⟨bits m 215 208, bits m 191 160, bits m 63 32, bits m 127 64⟩
  | 0x12 => { b with mar := { b.mar with status := b.mar.status.put (bits m 255 224) (b.ns, bits m 63 32) } }
  | 0x13 => b.joinIn (bits m 255 224)
  | 0x14 => b.suspectIn f s m
  | 0x15 => b.agreeIn f m
  | _ => b

/-- The forwarding core is held by a reset of its domain (R588, R591). -/
def Box.coreHeld (b : Box) : Bool := b.mar.resets.any (fun r => r.domain == 4)

/-- A frame the buffer has no room for (R227, R624). -/
def Box.rxLost (b : Box) (x : Rx) (cause : Nat) : Box :=
  b.sample ⟨x.bytes, x.stamp, x.rung, 0, x.l, alLane, phys x.f x.s, 0, []⟩ ⟨1, cause, false, none, none, 0⟩

/-- Admission of a frame: account or headroom, cells, then a descriptor of the admission queue (R163, R201, R207, R213,
R227). `quiet` is set where the sender replays a frame that is not accepted, and the loss is not counted. -/
def Box.rxAdmit (b : Box) (x : Rx) (quiet : Bool) : Took × Box :=
  let lost (b : Box) : Box := if quiet then b else (b.rxLost x 0x13).bump .bufIqDropThr x.l x.rung
  let b' := b.when (x.rung != 0 && !b.striped (portOf x.l)) (·.xoff x.l x.rung)
  let fr : Held := ⟨x.bytes, x.stamp, x.rung, 0, x.l, alLane, phys x.f x.s, 0, []⟩
  match b.ingCharge x.l x.rung (cellsOf x.bytes.length) with
  | none => (.lost, lost b')
  | some (how, c) =>
    match c.allocFrame (halfOf x.l) { fr with colour := b.colourOfFrame fr, ing := how } 1 with
    | none => (.lost, lost b)
    | some (d, c) =>
      if c.admRoom x.l x.rung then (.taken, c.setAdm x.l x.rung (c.adm x.l x.rung ++ [d]))
      else
        let c := c.release d
        (.lost, if quiet then c else (c.rxLost x 0).bump .fwdDrop (c.pipeOf x.l) 0)

/-- Where an undamaged frame goes: dropped at a fence (R583), to MAR (R595), to the sprint reducer (R169), or into the
buffer. -/
def Box.rxRoute (b : Box) (x : Rx) (quiet : Bool) : Took × Box :=
  let p := b.parse x.bytes
  let n := portOf x.l
  if (x.rung = 1 ∨ x.rung = 2) ∧ b.get .marPsFence n = 1 then (.taken, b.bump .marPsFenceDrop n)
  else if let some body := hopBody p x.bytes then (.taken, b.hopLocal x.f x.s body)
  else if p.hasK ∧ p.op = opSprint ∧ b.klRx x.f x.s then
    match b.sprArrive x.f x.s x.stamp x.bytes with
    | (true, b) => (.taken, b)
    | (false, b) => (.lost, b)
  else if p.hasK ∧ p.op = opKeepalive ∧ b.klRx x.f x.s then (.taken, b.keepaliveRx x.f x.s x.bytes)
  else if b.coreHeld then (.silent, if x.rung = 0 then b.bump .marRstDrop else b)
  else b.rxAdmit x quiet

/-! ### Link retry, receiving side (R229 to R231) -/

/-- A NAK names the expected number; tagged frames are discarded until it arrives (R231). -/
def Box.rxNak (b : Box) (f s : Nat) : Box :=
  ((b.setRty f s (fun x => { x with rxWait := true })).emit (.nak f s (b.rty f s).rxExp)).bump .prtLaneRplNakTx f s

/-- An ACK names the last accepted frame (R230, R231). -/
def Box.rxAck (b : Box) (f s : Nat) : Box :=
  (b.setRty f s (fun x => { x with rxSince := 0 })).emit (.ack f s (((b.rty f s).rxExp + 4095) % 4096))

/-- A tagged frame was accepted: after 16 of them an ACK goes out (R230). -/
def Box.rxTaken (b : Box) (f s : Nat) : Box :=
  let b := b.setRty f s (fun x => { x with rxExp := (x.rxExp + 1) % 4096, rxSince := x.rxSince + 1, rxWait := false })
  if 16 ≤ (b.rty f s).rxSince then b.rxAck f s else b

/-- A tagged frame on a lane with link retry (R231). In a forwarding-core reset, frames that are not accepted meet no
answer (R591). -/
def Box.rxTagged (b : Box) (x : Rx) (tag : Nat) (damaged : Bool) : Box :=
  let y := b.rty x.f x.s
  let nak (b : Box) : Box := if b.coreHeld then b else b.rxNak x.f x.s
  let seq := bits tag 11 0
  let behind := (y.rxExp + 4096 - seq) % 4096
  if !tagOk tag then (if y.rxWait then b else nak b)
  else if 1 ≤ behind ∧ behind ≤ 1024 then (if b.coreHeld then b else b.rxAck x.f x.s)
  else if behind ≠ 0 then (if y.rxWait then b else nak b)
  else if damaged then nak b
  else
    match b.rxRoute { x with rung := bits tag 19 18 } true with
    | (.taken, b) => b.rxTaken x.f x.s
    | (.lost, b) => nak b
    | (.silent, b) => b

/-- A codeword that cannot be corrected marked the frame (R86): it is counted and scored (R594). -/
def Box.uncorrectable (b : Box) (f s l : Nat) : Box := (b.bump .prtLaneFecUncorr f s).scoreLane l 1

/-- A frame on a HOST_BRIDGE or BOARD_LINK fibre (R486, R487): a board announce is read, any other frame is relayed. -/
def Box.rxBoard (b : Box) (f s : Nat) (bytes : List Byte) : Box :=
  match hopBody (b.parse bytes) bytes with
  | some body =>
    let m := beNat (body.take 16)
    if bits m 95 88 = 3 then b.announced f (bits m 127 96) (bits m 87 80) (bits m 47 0) else b.boardRelay f s bytes
  | none => b.boardRelay f s bytes

/-- A frame arrives on a physical lane. `damaged` says that an uncorrectable codeword marked it; a wrong FCS damages it
too (R227; DEDUCED, log 68). -/
def Box.receive (b : Box) (f s : Nat) (bytes : List Byte) (tag : Option Nat) (damaged : Bool) : Box :=
  match b.lnRx f s, b.rxColour f s with
  | true, some w =>
    let l0 := laneOf f w
    let l := if b.striped (portOf l0) then 2 * b.portBase l0 else l0
    let b := b.when damaged (·.uncorrectable f s l0)
    let bad := damaged || decide (withFcs bytes ≠ bytes)
    let x : Rx := ⟨f, s, l, b.rxStamp f s, b.rungOf (b.parse bytes), bytes⟩
    match (if b.retryOn f s then tag else none) with
    | some t => b.rxTagged x t bad
    | none =>
      if bad then b.bump .prtLaneRxBad f s
      else if b.get .prtMode f ≠ 0 then b.rxBoard f s bytes
      else (b.rxRoute x false).2
  | _, _ => b

/-- A frame arrives on a physical lane. -/
def execLaneFrameReceive (f : Fibre) (sl : Slot) (frame : List Byte) (tag : Option (BitVec 24)) (damaged : Bool)
    (s : State) : Host.Outcome State Fault Refusal :=
  act (fun b => b.receive f sl frame (tag.map (·.toNat)) damaged) s

end Sys2Proof.Machine
end

