-- ==== Sys2Proof/Machine/Omp.lean ====
section
/-!
DEFINITION. The OMP engine of the north base die: the handshake, tagged messages, requests and their replay window, and the
end of a session by CLOSE (R490 to R497, R540, R552, R635).
-/
namespace Sys2Proof.Machine

/-- Count a dropped message under a cause of MBX.OMP_DROP. -/
def Box.ompDrop (b : Box) (c : Nat) : Box := b.bump .mbxOmpDrop c

/-- Whether the engine works: the north half is neither dark nor in a reset (R490). -/
def Box.ompOn (b : Box) : Bool := !(b.darkHalf 0) && !(b.halfReset 0)

/-- A list of bytes cut or filled with zeros to a length. -/
def toLen (n : Nat) (l : List Byte) : List Byte := (l ++ List.replicate n 0).take n

/-- An OMP header (R491): type, session, request number, body bytes, status. -/
def ompHeader (type_ session seq len status : Nat) : List Byte :=
  beBytes 24 (1 * 2 ^ 184 + type_ * 2 ^ 176 + session * 2 ^ 160 + seq % 2 ^ 64 * 2 ^ 96 + len * 2 ^ 80 + status * 2 ^ 72)

/-- The tag of a message under a key (R493). -/
def ompTag (key : Nat) (l : List Byte) : List Byte := digest32 (Config.kmac key l 256 "OMP1 tag")

/-- A tagged message. -/
def ompTagged (key type_ session seq status : Nat) (body : List Byte) : List Byte :=
  let l := ompHeader type_ session seq body.length status ++ body
  l ++ ompTag key l

/-- A tagged message as it is read: request number, body, the bytes under the tag, the tag. None when it is malformed. -/
structure OmpMsg where
  seq : Nat
  body : List Byte
  signed : List Byte
  tag : List Byte
  deriving DecidableEq, Repr

/-- Read a tagged message of a type and session. -/
def ompRead (type_ session : Nat) (msg : List Byte) : Option OmpMsg :=
  let h := beNat (msg.take 24)
  let len := bits h 95 80
  if 8192 < msg.length ∨ msg.length ≠ 24 + len + 32 ∨ bits h 191 184 ≠ 1 ∨ bits h 183 176 ≠ type_
    ∨ bits h 175 160 ≠ session then none
  else some ⟨bits h 159 96, (msg.drop 24).take len, msg.take (24 + len), msg.drop (24 + len)⟩

/-! ### The handshake (R492, R493) -/

/-- The next session number: ascending modulo 4096, skipping 0 and every number in use (R495), among at most `n`. -/
def Box.nextNum (b : Box) : Nat → Nat → Nat
  | 0, m => m
  | n + 1, m =>
    let m := (m + 1) % 4096
    if m = 0 ∨ (b.sessSlot (srcOf m)).isSome then b.nextNum n m else m

/-- Lengths in a HELLO body: nonce, encapsulation key, public key, role byte, signature. -/
def helloLen : Nat := 32 + 1184 + 1312 + 1 + 2420

/-- The operator key under which a client certificate verifies (R552). -/
def Box.certKey (b : Box) (pk : List Byte) (role : Byte) (sig : List Byte) : Option (List Byte) :=
  (b.sec.opKeys.find? (fun (k : OpKey) => bitAt k.purpose 0 && sigOk (some k.pk) (pk ++ [role]) sig)).map (·.pk)

/-- The module certificate of a die (R540). -/
def Box.moduleCert (b : Box) (die : Nat) : List Byte :=
  toLen 1312 (Config.identityPk die b.sec.plid) ++ toLen 2420 (Config.deviceCert die b.sec.plid)

/-- A HELLO: answered by ACCEPT, or refused and counted (DEDUCED, log 116; DEDUCED, log 132). -/
def Box.hello (b : Box) (peer : Nat) (body : List Byte) : Box :=
  if !b.ompOn then b
  else if body.length ≠ helloLen then b.ompDrop 5
  else
    let ek := (body.drop 32).take 1184
    let pk := (body.drop 1216).take 1312
    let role := (body.drop 2528).headD 0
    let shakes := b.mbx.shakes.filter (fun t => decide (b.ns < t + 1000000000))
    match (upTo 16).find? (fun k => b.get .mbxSessState k == 0), b.certKey pk role (body.drop 2529) with
    | some k, some opPk =>
      if 16 ≤ shakes.length ∨ !b.secSigns then b.ompDrop 4
      else
        let n := b.nextNum 32 b.mbx.lastNum
        let (nonce, b) := b.fresh
        let (r, b) := b.fresh
        let acc := digest32 nonce ++ toLen 1088 (Config.mlkemCt ek r) ++ beBytes 2 n ++ beBytes 4 b.sec.plid ++ b.moduleCert b.secHalf
        let acc := acc ++ toLen 2420 (Config.mldsaSign b.secHalf (digest32 (hash (body ++ acc))))
        let h := hash (body ++ acc)
        let keys := Config.kmac (Config.mlkemSecret ek r) (digest32 h) 512 "OMP1 keys"
        let x : Session := ⟨keys % 2 ^ 256, keys / 2 ^ 256 % 2 ^ 256, h, pk, opPk, 0, [], [], 0⟩
        let b := { b with mbx := { b.mbx with sess := b.mbx.sess.put k x, lastNum := n, shakes := shakes ++ [b.ns] } }
        let b := (((b.put .mbxSessState 1 k).put .mbxSessSrcid (srcOf n) k).put .mbxSessPeerIp6 peer k).put .mbxSessRole role.toNat k
        b.emit (.omp peer (ompHeader 0x02 n 0 acc.length 0 ++ acc))
    | _, _ => b.ompDrop 4

/-! ### Tagged messages -/

/-- A tagged message of a session in a state: unknown sessions, malformed messages and failed tags are counted. -/
def Box.ompTagIn (b : Box) (state type_ n : Nat) (msg : List Byte) (f : Box → Nat → Session → OmpMsg → Box) : Box :=
  if !b.ompOn then b
  else match (b.sessSlot (srcOf n)).bind (fun k => (b.mbx.sess.find k).map (fun x => (k, x))) with
    | none => b.ompDrop 3
    | some (k, x) =>
      if b.get .mbxSessState k ≠ state then b.ompDrop 3
      else match ompRead type_ n msg with
        | none => b.ompDrop 5
        | some m => if ompTag x.keyIn m.signed = m.tag then f b k x m else b.ompDrop 1

/-- Send bytes to the client of a slot. -/
def Box.ompSend (b : Box) (k : Nat) (l : List Byte) : Box := b.emit (.omp (b.get .mbxSessPeerIp6 k) l)

/-- A PROVE: the client's signature over H makes the session LIVE, with the default read permissions (R492, R635). -/
def Box.prove (b : Box) (n : Nat) (msg : List Byte) : Box :=
  b.ompTagIn 1 0x03 n msg (fun b k x m =>
    if m.body.length ≠ 2420 then b.ompDrop 5
    else if Config.mldsaVerify x.pk (digest32 x.h) m.body = false then b
    else ((b.put .mbxSessState 2 k).permDefault k).ompSend k (ompTagged x.keyOut 0x04 n 0 0 []))

/-! ### Requests (R494, R496, R497) -/

/-- The operations of a body: opcode, address, value; none when the body is malformed. -/
def ompOps : Nat → List Byte → Option (List (Nat × Nat × Nat))
  | _, [] => some []
  | 0, _ :: _ => none
  | n + 1, l =>
    let v := beNat (l.take 16)
    let op := bits v 127 120
    if l.length < 16 ∨ (op ≠ 1 ∧ op ≠ 2) then none
    else (ompOps n (l.drop 16)).map (fun t => (op, bits v 111 64, bits v 63 0) :: t)

/-- Execute operations in order up to the first that fails: the status and value of each that was executed. -/
def Box.ompRun (b : Box) (m : Mem) (src : Nat) : List (Nat × Nat × Nat) → List (Nat × Nat) × Box
  | [] => ([], b)
  | (op, a, v) :: t =>
    let (st, x, b) := if op = 1 then b.readAddr m src a else b.writeAddr m src a v
    let r : Nat × Nat := (st, if op = 1 then x else v)
    if st ≠ 0 then ([r], b)
    else
      let (l, b) := b.ompRun m src t
      (r :: l, b)

/-- The body of a RESPONSE, and its STATUS. -/
def ompResults (l : List (Nat × Nat)) : List Byte := l.flatMap (fun r => beBytes 16 (r.1 * 2 ^ 64 + r.2 % 2 ^ 64))
@[inherit_doc ompResults] def ompStatus (l : List (Nat × Nat)) : Nat := (l.findIdx? (fun r => r.1 != 0)).getD 0xFF

/-- An accepted request is entered: the window of R494 moves on. -/
def Session.accept (x : Session) (seq : Nat) : Session :=
  let high := max x.high seq
  { x with high := high, accepted := (seq :: x.accepted).filter (fun q => decide (high < q + 64)), requests := x.requests + 1 }

/-- The RESPONSE to an accepted request is kept; the last 64 stay. -/
def Session.keep (x : Session) (seq : Nat) (r : List Byte) : Session :=
  let l := x.kept ++ [(seq, r)]
  { x with kept := l.drop (l.length - 64) }

/-- A REQUEST. -/
def Box.request (b : Box) (mem : Mem) (n : Nat) (msg : List Byte) : Box :=
  b.ompTagIn 2 0x10 n msg (fun b k x m =>
    match ompOps 64 m.body with
    | none => b.ompDrop 5
    | some ops =>
      match x.kept.find? (fun e => e.1 == m.seq) with
      | some e => b.ompSend k e.2
      | none =>
        if m.seq + 64 ≤ x.high ∨ x.accepted.contains m.seq then b.ompDrop 2
        else
          let x := x.accept m.seq
          let b := { b with mbx := { b.mbx with sess := b.mbx.sess.put k x } }
          let (l, b) := b.ompRun mem (srcOf n) ops
          let r := ompTagged x.keyOut 0x11 n m.seq (ompStatus l) (ompResults l)
          if (b.mbx.sess.find k).isNone then b
          else
            let b := { b with mbx := { b.mbx with sess := b.mbx.sess.put k (x.keep m.seq r) } }
            let b := b.ompSend k r
            if 2 ^ 32 ≤ x.requests then b.sessEnd k else b)

/-! ### The commands -/

/-- A HELLO arrives. -/
def execHello (peer : BitVec 128) (body : List Byte) (s : State) : Host.Outcome State Fault Refusal :=
  act (fun b => b.hello peer.toNat body) s

/-- A PROVE arrives. -/
def execProve (session : BitVec 12) (msg : List Byte) (s : State) : Host.Outcome State Fault Refusal :=
  act (fun b => b.prove session.toNat msg) s

/-- A REQUEST arrives. -/
def execRequest (session : BitVec 12) (msg : List Byte) (s : State) : Host.Outcome State Fault Refusal :=
  act (fun b => b.request s.mem session.toNat msg) s

/-- An OMP READ operation. -/
def execOmpRead (src : Src) (addr : BitVec 48) (s : State) : Host.Outcome State Fault Refusal :=
  act (fun b => b.answer src (fun b => b.readAddr s.mem src.toNat addr.toNat)) s

/-- An OMP WRITE operation. -/
def execOmpWrite (src : Src) (addr : BitVec 48) (value : BitVec 64) (s : State) : Host.Outcome State Fault Refusal :=
  act (fun b => b.answer src (fun b => b.writeAddr s.mem src.toNat addr.toNat value.toNat)) s

/-- A CLOSE ends the session. -/
def execOmpClose (session : BitVec 12) (msg : List Byte) (s : State) : Host.Outcome State Fault Refusal :=
  act (fun b => b.ompTagIn 2 0x20 session.toNat msg (fun b k _ _ => b.sessEnd k)) s

end Sys2Proof.Machine
end

