-- ==== Sys2Proof/Machine/Dispatch.lean ====
section
/-!
DEFINITION. One arm for each command: the call of its meaning.
-/
namespace Sys2Proof.Machine

def exec (i : Instr) (s : State) : Host.Outcome State Fault Refusal :=
  match i with
  | .registerWrite src addr data => Sys2Proof.Machine.execRegisterWrite src addr data s
  | .lapBoundary => Sys2Proof.Machine.execLapBoundary s
  | .timIncrWrite src v => Sys2Proof.Machine.execTimIncrWrite src v s
  | .timStepWrite src v => Sys2Proof.Machine.execTimStepWrite src v s
  | .timSetNsWrite src v => Sys2Proof.Machine.execTimSetNsWrite src v s
  | .acquiredWrite src v => Sys2Proof.Machine.execAcquiredWrite src v s
  | .referenceLost => Sys2Proof.Machine.execReferenceLost s
  | .tpulse highNs => Sys2Proof.Machine.execTpulse highNs s
  | .calArm src n action => Sys2Proof.Machine.execCalArm src n action s
  | .calDisarm src n => Sys2Proof.Machine.execCalDisarm src n s
  | .cgOpen src n => Sys2Proof.Machine.execCgOpen src n s
  | .cgStageAddrWrite src n addr => Sys2Proof.Machine.execCgStageAddrWrite src n addr s
  | .cgStageDataWrite src n data => Sys2Proof.Machine.execCgStageDataWrite src n data s
  | .cgSeal src n => Sys2Proof.Machine.execCgSeal src n s
  | .cgSealCheckDone n => Sys2Proof.Machine.execCgSealCheckDone n s
  | .cgAbort src n => Sys2Proof.Machine.execCgAbort src n s
  | .cgRelease src n => Sys2Proof.Machine.execCgRelease src n s
  | .cgResolveCommit src n => Sys2Proof.Machine.execCgResolveCommit src n s
  | .cgResolveAbort src n => Sys2Proof.Machine.execCgResolveAbort src n s
  | .voteTreeClose grp commitLap => Sys2Proof.Machine.execVoteTreeClose grp commitLap s
  | .voteOutcomeReceived grp seq outcome => Sys2Proof.Machine.execVoteOutcomeReceived grp seq outcome s
  | .laneFrameReceive f sl frame tag damaged => Sys2Proof.Machine.execLaneFrameReceive f sl frame tag damaged s
  | .pipelineDescriptor p ecc => Sys2Proof.Machine.execPipelineDescriptor p ecc s
  | .egressAdmitRetry l r => Sys2Proof.Machine.execEgressAdmitRetry l r s
  | .spillReadback l => Sys2Proof.Machine.execSpillReadback l s
  | .schedulerPick l => Sys2Proof.Machine.execSchedulerPick l s
  | .transmitDone l => Sys2Proof.Machine.execTransmitDone l s
  | .pfcReceived l xoff r => Sys2Proof.Machine.execPfcReceived l xoff r s
  | .pauseWatchdog l r => Sys2Proof.Machine.execPauseWatchdog l r s
  | .portFenceClear src n => Sys2Proof.Machine.execPortFenceClear src n s
  | .replayAckTimer f sl => Sys2Proof.Machine.execReplayAckTimer f sl s
  | .replayAck f sl seq => Sys2Proof.Machine.execReplayAck f sl seq s
  | .replayNak f sl seq => Sys2Proof.Machine.execReplayNak f sl seq s
  | .replayTimeout f sl => Sys2Proof.Machine.execReplayTimeout f sl s
  | .queueSample => Sys2Proof.Machine.execQueueSample s
  | .cmExport => Sys2Proof.Machine.execCmExport s
  | .pacerRateWrite src addr data => Sys2Proof.Machine.execPacerRateWrite src addr data s
  | .tableAdd src w0 w1 w2 w3 => Sys2Proof.Machine.execTableAdd src w0 w1 w2 w3 s
  | .tableDelete src w0 w1 w2 w3 => Sys2Proof.Machine.execTableDelete src w0 w1 w2 w3 s
  | .tableModify src w0 w1 w2 w3 => Sys2Proof.Machine.execTableModify src w0 w1 w2 w3 s
  | .tableSetMember src w0 w1 w2 w3 => Sys2Proof.Machine.execTableSetMember src w0 w1 w2 w3 s
  | .tableSetMode src w0 w1 w2 w3 => Sys2Proof.Machine.execTableSetMode src w0 w1 w2 w3 s
  | .sweepPass => Sys2Proof.Machine.execSweepPass s
  | .comparePassEnd p t mdig => Sys2Proof.Machine.execComparePassEnd p t mdig s
  | .fenceCmd src h ptr => Sys2Proof.Machine.execFenceCmd src h ptr s
  | .fenceTestDone h pass => Sys2Proof.Machine.execFenceTestDone h pass s
  | .portWidthWrite src f h v => Sys2Proof.Machine.execPortWidthWrite src f h v s
  | .portBondWrite src f h v => Sys2Proof.Machine.execPortBondWrite src f h v s
  | .crouterNWrite src f v => Sys2Proof.Machine.execCrouterNWrite src f v s
  | .fecReqWrite src f sl v => Sys2Proof.Machine.execFecReqWrite src f sl v s
  | .laneTrain src f sl => Sys2Proof.Machine.execLaneTrain src f sl s
  | .laneDrain src f sl => Sys2Proof.Machine.execLaneDrain src f sl s
  | .laneDark src f sl => Sys2Proof.Machine.execLaneDark src f sl s
  | .laneLightOff f sl => Sys2Proof.Machine.execLaneLightOff f sl s
  | .laneDetectDone f sl => Sys2Proof.Machine.execLaneDetectDone f sl s
  | .laneEqDone f sl => Sys2Proof.Machine.execLaneEqDone f sl s
  | .capabilityMessage f sl msg => Sys2Proof.Machine.execCapabilityMessage f sl msg s
  | .laneQualDone f sl pass => Sys2Proof.Machine.execLaneQualDone f sl pass s
  | .macMergeVerify f sl => Sys2Proof.Machine.execMacMergeVerify f sl s
  | .laneStateTimeout f sl => Sys2Proof.Machine.execLaneStateTimeout f sl s
  | .laneRetryTimer f sl => Sys2Proof.Machine.execLaneRetryTimer f sl s
  | .lossOfLight f sl => Sys2Proof.Machine.execLossOfLight f sl s
  | .lightReturn f sl => Sys2Proof.Machine.execLightReturn f sl s
  | .rip f sl index arg => Sys2Proof.Machine.execRip f sl index arg s
  | .ripExclusionEnd f sl => Sys2Proof.Machine.execRipExclusionEnd f sl s
  | .drain f sl dark us => Sys2Proof.Machine.execDrain f sl dark us s
  | .sparePrep f sl w alias_ canTune => Sys2Proof.Machine.execSparePrep f sl w alias_ canTune s
  | .spareReady f sl w alias_ => Sys2Proof.Machine.execSpareReady f sl w alias_ s
  | .spareNak f sl w cause => Sys2Proof.Machine.execSpareNak f sl w cause s
  | .spareGo f sl w lap16 => Sys2Proof.Machine.execSpareGo f sl w lap16 s
  | .spareReturn f sl w lap16 => Sys2Proof.Machine.execSpareReturn f sl w lap16 s
  | .lockLoopSample f j err wantUw => Sys2Proof.Machine.execLockLoopSample f j err wantUw s
  | .ringUnlocked f j => Sys2Proof.Machine.execRingUnlocked f j s
  | .ringRelocked f j => Sys2Proof.Machine.execRingRelocked f j s
  | .ringRelockTimeout f j => Sys2Proof.Machine.execRingRelockTimeout f j s
  | .ffRefit h r bin coeff => Sys2Proof.Machine.execFfRefit h r bin coeff s
  | .benchSwitch src g bay => Sys2Proof.Machine.execBenchSwitch src g bay s
  | .selectorMove g => Sys2Proof.Machine.execSelectorMove g s
  | .benchHoldExpire g => Sys2Proof.Machine.execBenchHoldExpire g s
  | .fadeWarn b w pwr => Sys2Proof.Machine.execFadeWarn b w pwr s
  | .fadePlan b w pwr => Sys2Proof.Machine.execFadePlan b w pwr s
  | .fadeCrit b w pwr worst => Sys2Proof.Machine.execFadeCrit b w pwr worst s
  | .fadeLoss b w pwr => Sys2Proof.Machine.execFadeLoss b w pwr s
  | .tunableFade g j pwr => Sys2Proof.Machine.execTunableFade g j pwr s
  | .combWarmed b inTime pwr => Sys2Proof.Machine.execCombWarmed b inTime pwr s
  | .omaLow f sl => Sys2Proof.Machine.execOmaLow f sl s
  | .laneDriverFault f sl => Sys2Proof.Machine.execLaneDriverFault f sl s
  | .calibrationDue f sl => Sys2Proof.Machine.execCalibrationDue f sl s
  | .calStepDone f sl detune tlockMod tlockGate oma => Sys2Proof.Machine.execCalStepDone f sl detune tlockMod tlockGate oma s
  | .bypassDrain n => Sys2Proof.Machine.execBypassDrain n s
  | .fibrePowerOver f => Sys2Proof.Machine.execFibrePowerOver f s
  | .bypassLightDrop f => Sys2Proof.Machine.execBypassLightDrop f s
  | .cartridgeRemove bay => Sys2Proof.Machine.execCartridgeRemove bay s
  | .cartridgeInsert bay id crcOk => Sys2Proof.Machine.execCartridgeInsert bay id crcOk s
  | .cartridgeWarmStart bay => Sys2Proof.Machine.execCartridgeWarmStart bay s
  | .relayDispatch h => Sys2Proof.Machine.execRelayDispatch h s
  | .wqRoom c q => Sys2Proof.Machine.execWqRoom c q s
  | .add th d a b => Sys2Proof.Machine.execAdd th d a b s
  | .sub th d a b => Sys2Proof.Machine.execSub th d a b s
  | .and th d a b => Sys2Proof.Machine.execAnd th d a b s
  | .or th d a b => Sys2Proof.Machine.execOr th d a b s
  | .xor th d a b => Sys2Proof.Machine.execXor th d a b s
  | .sll th d a b => Sys2Proof.Machine.execSll th d a b s
  | .srl th d a b => Sys2Proof.Machine.execSrl th d a b s
  | .sra th d a b => Sys2Proof.Machine.execSra th d a b s
  | .mul th d a b => Sys2Proof.Machine.execMul th d a b s
  | .mulh th d a b => Sys2Proof.Machine.execMulh th d a b s
  | .slt th d a b => Sys2Proof.Machine.execSlt th d a b s
  | .sltu th d a b => Sys2Proof.Machine.execSltu th d a b s
  | .min th d a b => Sys2Proof.Machine.execMin th d a b s
  | .max th d a b => Sys2Proof.Machine.execMax th d a b s
  | .addi th d a iv => Sys2Proof.Machine.execAddi th d a iv s
  | .andi th d a iv => Sys2Proof.Machine.execAndi th d a iv s
  | .ori th d a iv => Sys2Proof.Machine.execOri th d a iv s
  | .xori th d a iv => Sys2Proof.Machine.execXori th d a iv s
  | .slli th d a iv => Sys2Proof.Machine.execSlli th d a iv s
  | .srli th d a iv => Sys2Proof.Machine.execSrli th d a iv s
  | .li th d v => Sys2Proof.Machine.execLi th d v s
  | .beq th a b off => Sys2Proof.Machine.execBeq th a b off s
  | .bne th a b off => Sys2Proof.Machine.execBne th a b off s
  | .blt th a b off => Sys2Proof.Machine.execBlt th a b off s
  | .bge th a b off => Sys2Proof.Machine.execBge th a b off s
  | .bltu th a b off => Sys2Proof.Machine.execBltu th a b off s
  | .bgeu th a b off => Sys2Proof.Machine.execBgeu th a b off s
  | .jal th d off => Sys2Proof.Machine.execJal th d off s
  | .jalr th d a off => Sys2Proof.Machine.execJalr th d a off s
  | .ld th d a addr size => Sys2Proof.Machine.execLd th d a addr size s
  | .st th d a addr size => Sys2Proof.Machine.execSt th d a addr size s
  | .vld th d a iv => Sys2Proof.Machine.execVld th d a iv s
  | .vst th d a iv => Sys2Proof.Machine.execVst th d a iv s
  | .vlds th d a b p fmt => Sys2Proof.Machine.execVlds th d a b p fmt s
  | .vsts th d a b p fmt => Sys2Proof.Machine.execVsts th d a b p fmt s
  | .vgth th d a b p fmt => Sys2Proof.Machine.execVgth th d a b p fmt s
  | .vsct th d a b p fmt => Sys2Proof.Machine.execVsct th d a b p fmt s
  | .ldf th d slot a iv => Sys2Proof.Machine.execLdf th d slot a iv s
  | .amo th op d a b acq rel width => Sys2Proof.Machine.execAmo th op d a b acq rel width s
  | .vamo th op form a b p acq rel width => Sys2Proof.Machine.execVamo th op form a b p acq rel width s
  | .memoryAccessDone th n uncorrectable => Sys2Proof.Machine.execMemoryAccessDone th n uncorrectable s
  | .vadd th d a b p fmt => Sys2Proof.Machine.execVadd th d a b p fmt s
  | .vsub th d a b p fmt => Sys2Proof.Machine.execVsub th d a b p fmt s
  | .vmul th d a b p fmt => Sys2Proof.Machine.execVmul th d a b p fmt s
  | .vmullo th d a b p fmt => Sys2Proof.Machine.execVmullo th d a b p fmt s
  | .vfma th d a b p fmt => Sys2Proof.Machine.execVfma th d a b p fmt s
  | .vmax th d a b p fmt => Sys2Proof.Machine.execVmax th d a b p fmt s
  | .vmin th d a b p fmt => Sys2Proof.Machine.execVmin th d a b p fmt s
  | .vabsmax th d a b p fmt => Sys2Proof.Machine.execVabsmax th d a b p fmt s
  | .vand th d a b p fmt => Sys2Proof.Machine.execVand th d a b p fmt s
  | .vor th d a b p fmt => Sys2Proof.Machine.execVor th d a b p fmt s
  | .vxor th d a b p fmt => Sys2Proof.Machine.execVxor th d a b p fmt s
  | .vshl th d a b p fmt => Sys2Proof.Machine.execVshl th d a b p fmt s
  | .vshr th d a b p fmt => Sys2Proof.Machine.execVshr th d a b p fmt s
  | .vcmp th rel d a b p fmt => Sys2Proof.Machine.execVcmp th rel d a b p fmt s
  | .vsel th d a b p fmt => Sys2Proof.Machine.execVsel th d a b p fmt s
  | .vbcast th d a p fmt => Sys2Proof.Machine.execVbcast th d a p fmt s
  | .vperm th d a b p fmt => Sys2Proof.Machine.execVperm th d a b p fmt s
  | .vcomb th d a b p fmt ctl => Sys2Proof.Machine.execVcomb th d a b p fmt ctl s
  | .vcvt th d a b p fmt ctl => Sys2Proof.Machine.execVcvt th d a b p fmt ctl s
  | .vred th d a b p fmt ctl => Sys2Proof.Machine.execVred th d a b p fmt ctl s
  | .vscale th d a b p fmt ctl => Sys2Proof.Machine.execVscale th d a b p fmt ctl s
  | .vtopk th d a b p fmt ctl => Sys2Proof.Machine.execVtopk th d a b p fmt ctl s
  | .vargmax th d a b p fmt ctl => Sys2Proof.Machine.execVargmax th d a b p fmt ctl s
  | .waitq th d q => Sys2Proof.Machine.execWaitq th d q s
  | .rel th slot => Sys2Proof.Machine.execRel th slot s
  | .post th a b => Sys2Proof.Machine.execPost th a b s
  | .postF th a b => Sys2Proof.Machine.execPostF th a b s
  | .send th d a b w => Sys2Proof.Machine.execSend th d a b w s
  | .sendF th a b w => Sys2Proof.Machine.execSendF th a b w s
  | .sendM th d a b w => Sys2Proof.Machine.execSendM th d a b w s
  | .sendAdmitted th => Sys2Proof.Machine.execSendAdmitted th s
  | .waita th a b => Sys2Proof.Machine.execWaita th a b s
  | .waitaTimeout th => Sys2Proof.Machine.execWaitaTimeout th s
  | .yield th => Sys2Proof.Machine.execYield th s
  | .csrr th d csr => Sys2Proof.Machine.execCsrr th d csr s
  | .csrw th csr a => Sys2Proof.Machine.execCsrw th csr a s
  | .fenceC th => Sys2Proof.Machine.execFenceC th s
  | .fenceD th => Sys2Proof.Machine.execFenceD th s
  | .fenceH th => Sys2Proof.Machine.execFenceH th s
  | .fenceM th => Sys2Proof.Machine.execFenceM th s
  | .time th d => Sys2Proof.Machine.execTime th d s
  | .halt th => Sys2Proof.Machine.execHalt th s
  | .trap th => Sys2Proof.Machine.execTrap th s
  | .holdLimit th slot => Sys2Proof.Machine.execHoldLimit th slot s
  | .threadRestart src th => Sys2Proof.Machine.execThreadRestart src th s
  | .threadStop src th => Sys2Proof.Machine.execThreadStop src th s
  | .istoreWrite src c a v => Sys2Proof.Machine.execIstoreWrite src c a v s
  | .bundleLoad b image => Sys2Proof.Machine.execBundleLoad b image s
  | .bundlePlace b => Sys2Proof.Machine.execBundlePlace b s
  | .coreQuarantine c subst => Sys2Proof.Machine.execCoreQuarantine c subst s
  | .contributionAdmission c q err => Sys2Proof.Machine.execContributionAdmission c q err s
  | .batonForward n j chunk h => Sys2Proof.Machine.execBatonForward n j chunk h s
  | .batonReadback n j chunk uncorrectable => Sys2Proof.Machine.execBatonReadback n j chunk uncorrectable s
  | .sequenceTimeout n j => Sys2Proof.Machine.execSequenceTimeout n j s
  | .mirrorCompare err => Sys2Proof.Machine.execMirrorCompare err s
  | .mirrorTiebreak err => Sys2Proof.Machine.execMirrorTiebreak err s
  | .colQuarantine src c => Sys2Proof.Machine.execColQuarantine src c s
  | .colRelease src c => Sys2Proof.Machine.execColRelease src c s
  | .heatStart src c => Sys2Proof.Machine.execHeatStart src c s
  | .heatTempMiss c => Sys2Proof.Machine.execHeatTempMiss c s
  | .heatDone c passes fails => Sys2Proof.Machine.execHeatDone c passes fails s
  | .sprintContrib f sl frame => Sys2Proof.Machine.execSprintContrib f sl frame s
  | .sprintBridgeContrib h => Sys2Proof.Machine.execSprintBridgeContrib h s
  | .sprintTimeout n j => Sys2Proof.Machine.execSprintTimeout n j s
  | .keepalive f sl frame => Sys2Proof.Machine.execKeepalive f sl frame s
  | .keepaliveTx f sl => Sys2Proof.Machine.execKeepaliveTx f sl s
  | .keepaliveLoss f sl => Sys2Proof.Machine.execKeepaliveLoss f sl s
  | .gatherReq c q badRows => Sys2Proof.Machine.execGatherReq c q badRows s
  | .gatherPartial seq rfeid => Sys2Proof.Machine.execGatherPartial seq rfeid s
  | .gatherTimeout seq rfeid => Sys2Proof.Machine.execGatherTimeout seq rfeid s
  | .scatterUpd c q => Sys2Proof.Machine.execScatterUpd c q s
  | .scatterCompletion c q => Sys2Proof.Machine.execScatterCompletion c q s
  | .tableClose src t => Sys2Proof.Machine.execTableClose src t s
  | .closeDone t badRows => Sys2Proof.Machine.execCloseDone t badRows s
  | .tableDiscard src t => Sys2Proof.Machine.execTableDiscard src t s
  | .discardDone t => Sys2Proof.Machine.execDiscardDone t s
  | .foldStart t b => Sys2Proof.Machine.execFoldStart t b s
  | .foldDone t b => Sys2Proof.Machine.execFoldDone t b s
  | .bankFree t b => Sys2Proof.Machine.execBankFree t b s
  | .fillDone e h => Sys2Proof.Machine.execFillDone e h s
  | .memTrainingDone h best repaired => Sys2Proof.Machine.execMemTrainingDone h best repaired s
  | .memTransaction off len write tag cls errs => Sys2Proof.Machine.execMemTransaction off len write tag cls errs s
  | .patrolScrub h errs => Sys2Proof.Machine.execPatrolScrub h errs s
  | .bwInterval h demand => Sys2Proof.Machine.execBwInterval h demand s
  | .flitReceive h b flit prbs => Sys2Proof.Machine.execFlitReceive h b flit prbs s
  | .flitNak h b seq => Sys2Proof.Machine.execFlitNak h b seq s
  | .flitReplayTimeout h b => Sys2Proof.Machine.execFlitReplayTimeout h b s
  | .positionFaulty h b pos lockLost => Sys2Proof.Machine.execPositionFaulty h b pos lockLost s
  | .remap b => Sys2Proof.Machine.execRemap b s
  | .bundleRetire b => Sys2Proof.Machine.execBundleRetire b s
  | .bundleLost h b trainingLost => Sys2Proof.Machine.execBundleLost h b trainingLost s
  | .renegotiate src => Sys2Proof.Machine.execRenegotiate src s
  | .bundleEnWrite src v => Sys2Proof.Machine.execBundleEnWrite src v s
  | .agreement h trained => Sys2Proof.Machine.execAgreement h trained s
  | .maskAdvertise h mask => Sys2Proof.Machine.execMaskAdvertise h mask s
  | .agreementEcho crc => Sys2Proof.Machine.execAgreementEcho crc s
  | .confirmTimeout => Sys2Proof.Machine.execConfirmTimeout s
  | .activate => Sys2Proof.Machine.execActivate s
  | .holdTimeout h => Sys2Proof.Machine.execHoldTimeout h s
  | .bridgeMessage h g body crc => Sys2Proof.Machine.execBridgeMessage h g body crc s
  | .bridgeResend h => Sys2Proof.Machine.execBridgeResend h s
  | .guestBringUp h id linkUp => Sys2Proof.Machine.execGuestBringUp h id linkUp s
  | .guestRead h hdr => Sys2Proof.Machine.execGuestRead h hdr s
  | .guestWrite h hdr data => Sys2Proof.Machine.execGuestWrite h hdr data s
  | .guestPost h hdr body => Sys2Proof.Machine.execGuestPost h hdr body s
  | .guestPowerOver h w => Sys2Proof.Machine.execGuestPowerOver h w s
  | .guestRailRemove h w => Sys2Proof.Machine.execGuestRailRemove h w s
  | .guestRun src h => Sys2Proof.Machine.execGuestRun src h s
  | .guestStop src h => Sys2Proof.Machine.execGuestStop src h s
  | .guestUnfence src h => Sys2Proof.Machine.execGuestUnfence src h s
  | .boardAnnounceTx f => Sys2Proof.Machine.execBoardAnnounceTx f s
  | .boardAnnounce f plid slot mac => Sys2Proof.Machine.execBoardAnnounce f plid slot mac s
  | .boardRelay f sl frame => Sys2Proof.Machine.execBoardRelay f sl frame s
  | .hello peer body => Sys2Proof.Machine.execHello peer body s
  | .prove session msg => Sys2Proof.Machine.execProve session msg s
  | .handshakeTimeout session => Sys2Proof.Machine.execHandshakeTimeout session s
  | .request session msg => Sys2Proof.Machine.execRequest session msg s
  | .ompRead src addr => Sys2Proof.Machine.execOmpRead src addr s
  | .ompWrite src addr value => Sys2Proof.Machine.execOmpWrite src addr value s
  | .ompClose session msg => Sys2Proof.Machine.execOmpClose session msg s
  | .sessionIdle session => Sys2Proof.Machine.execSessionIdle session s
  | .mbxDataWrite src m v => Sys2Proof.Machine.execMbxDataWrite src m v s
  | .mbxDataRead src m => Sys2Proof.Machine.execMbxDataRead src m s
  | .mbxRdataWrite src m v => Sys2Proof.Machine.execMbxRdataWrite src m v s
  | .mbxRdataRead src m => Sys2Proof.Machine.execMbxRdataRead src m s
  | .mbxDoorbell src m => Sys2Proof.Machine.execMbxDoorbell src m s
  | .domainReady m => Sys2Proof.Machine.execDomainReady m s
  | .domainPowerDown c => Sys2Proof.Machine.execDomainPowerDown c s
  | .mbxLockRead src m => Sys2Proof.Machine.execMbxLockRead src m s
  | .mbxLockRelease src m v => Sys2Proof.Machine.execMbxLockRelease src m v s
  | .leaseRenew src v => Sys2Proof.Machine.execLeaseRenew src v s
  | .leaseExpire => Sys2Proof.Machine.execLeaseExpire s
  | .coreRestart src n => Sys2Proof.Machine.execCoreRestart src n s
  | .coreReady n => Sys2Proof.Machine.execCoreReady n s
  | .watchdogKick src n => Sys2Proof.Machine.execWatchdogKick src n s
  | .coreWatchdog n => Sys2Proof.Machine.execCoreWatchdog n s
  | .bootTimeout n => Sys2Proof.Machine.execBootTimeout n s
  | .benchTakeover r => Sys2Proof.Machine.execBenchTakeover r s
  | .benchCheckpoint r => Sys2Proof.Machine.execBenchCheckpoint r s
  | .handBack src r => Sys2Proof.Machine.execHandBack src r s
  | .logWrite n cmd => Sys2Proof.Machine.execLogWrite n cmd s
  | .logWaitExpire h => Sys2Proof.Machine.execLogWaitExpire h s
  | .tracePoint n v => Sys2Proof.Machine.execTracePoint n v s
  | .imageStage sl image => Sys2Proof.Machine.execImageStage sl image s
  | .imageArm src sl => Sys2Proof.Machine.execImageArm src sl s
  | .imageDisarm src sl => Sys2Proof.Machine.execImageDisarm src sl s
  | .imageRevert src sl => Sys2Proof.Machine.execImageRevert src sl s
  | .imageConfirm src sl => Sys2Proof.Machine.execImageConfirm src sl s
  | .deferredCancel sl => Sys2Proof.Machine.execDeferredCancel sl s
  | .guardPowerOver w => Sys2Proof.Machine.execGuardPowerOver w s
  | .guardPowerPark w => Sys2Proof.Machine.execGuardPowerPark w s
  | .guardPowerP2 w => Sys2Proof.Machine.execGuardPowerP2 w s
  | .junctionTrip h r tj => Sys2Proof.Machine.execJunctionTrip h r tj s
  | .tripCooled => Sys2Proof.Machine.execTripCooled s
  | .guardEventClear src bits w => Sys2Proof.Machine.execGuardEventClear src bits w s
  | .attestationReport h m nonce => Sys2Proof.Machine.execAttestationReport h m nonce s
  | .operatorKeyStatement num add purpose pk root sig => Sys2Proof.Machine.execOperatorKeyStatement num add purpose pk root sig s
  | .boardRecordWrite src record => Sys2Proof.Machine.execBoardRecordWrite src record s
  | .manufactureRecordWrite src record => Sys2Proof.Machine.execManufactureRecordWrite src record s
  | .bundleFloorRaise src id floor => Sys2Proof.Machine.execBundleFloorRaise src id floor s
  | .flashProgram core addr data vMv => Sys2Proof.Machine.execFlashProgram core addr data vMv s
  | .flashErase core addr vMv => Sys2Proof.Machine.execFlashErase core addr vMv s
  | .flashOpDone => Sys2Proof.Machine.execFlashOpDone s
  | .rngHealthFail h => Sys2Proof.Machine.execRngHealthFail h s
  | .bootChain h halfSel puf => Sys2Proof.Machine.execBootChain h halfSel puf s
  | .railGroupGood h k => Sys2Proof.Machine.execRailGroupGood h k s
  | .railFault h k => Sys2Proof.Machine.execRailFault h k s
  | .inputLoss => Sys2Proof.Machine.execInputLoss s
  | .powerLossFlush vMv => Sys2Proof.Machine.execPowerLossFlush vMv s
  | .vaonOff => Sys2Proof.Machine.execVaonOff s
  | .inputReturn => Sys2Proof.Machine.execInputReturn s
  | .psRequest src v => Sys2Proof.Machine.execPsRequest src v s
  | .regionSensorSample h r tj => Sys2Proof.Machine.execRegionSensorSample h r tj s
  | .thermalLoop => Sys2Proof.Machine.execThermalLoop s
  | .throttleStepUp d => Sys2Proof.Machine.execThrottleStepUp d s
  | .ffEnWrite src v => Sys2Proof.Machine.execFfEnWrite src v s
  | .ffsafeWrite src h v => Sys2Proof.Machine.execFfsafeWrite src h v s
  | .railDroop d => Sys2Proof.Machine.execRailDroop d s
  | .droopRecover d => Sys2Proof.Machine.execDroopRecover d s
  | .emergencyCauseSet h cause => Sys2Proof.Machine.execEmergencyCauseSet h cause s
  | .emergencyCauseClear h cause => Sys2Proof.Machine.execEmergencyCauseClear h cause s
  | .thermalP1Force => Sys2Proof.Machine.execThermalP1Force s
  | .errAck src m => Sys2Proof.Machine.execErrAck src m s
  | .coldReset => Sys2Proof.Machine.execColdReset s
  | .warmReset src => Sys2Proof.Machine.execWarmReset src s
  | .perHalfReset src h => Sys2Proof.Machine.execPerHalfReset src h s
  | .forwardingCoreReset src => Sys2Proof.Machine.execForwardingCoreReset src s
  | .relayReset src => Sys2Proof.Machine.execRelayReset src s
  | .perLaneReset src f sl => Sys2Proof.Machine.execPerLaneReset src f sl s
  | .resetPin => Sys2Proof.Machine.execResetPin s
  | .resetExit => Sys2Proof.Machine.execResetExit s
  | .scoreWindow => Sys2Proof.Machine.execScoreWindow s
  | .linkSuspect f sl payload => Sys2Proof.Machine.execLinkSuspect f sl payload s
  | .linkAgree f sl payload => Sys2Proof.Machine.execLinkAgree f sl payload s
  | .agreeTimeout f w => Sys2Proof.Machine.execAgreeTimeout f w s
  | .linkExpel f w => Sys2Proof.Machine.execLinkExpel f w s
  | .report payload => Sys2Proof.Machine.execReport payload s
  | .verdict payload => Sys2Proof.Machine.execVerdict payload s
  | .verdictApply => Sys2Proof.Machine.execVerdictApply s
  | .caseClose c => Sys2Proof.Machine.execCaseClose c s
  | .caseSummary c => Sys2Proof.Machine.execCaseSummary c s
  | .statusTx => Sys2Proof.Machine.execStatusTx s
  | .status payload => Sys2Proof.Machine.execStatus payload s
  | .join payload => Sys2Proof.Machine.execJoin payload s
  | .probationEnd => Sys2Proof.Machine.execProbationEnd s
  | .counterClear src h b => Sys2Proof.Machine.execCounterClear src h b s
  | .dumpPeriod j => Sys2Proof.Machine.execDumpPeriod j s
  | .dumpReadoutDone bank => Sys2Proof.Machine.execDumpReadoutDone bank s
  | .samplerEnable src addr data => Sys2Proof.Machine.execSamplerEnable src addr data s
  | .monitorSample h m => Sys2Proof.Machine.execMonitorSample h m s
  | .monitorClear src h m => Sys2Proof.Machine.execMonitorClear src h m s
  | .permWrite src addr data => Sys2Proof.Machine.execPermWrite src addr data s
  | .startupStep step ok capUf => Sys2Proof.Machine.execStartupStep step ok capUf s
  | .fabricTimeAcquire => Sys2Proof.Machine.execFabricTimeAcquire s
  | .wake => Sys2Proof.Machine.execWake s
  | .bundleUnload b => Sys2Proof.Machine.execBundleUnload b s
  | .guestLinkFail h => Sys2Proof.Machine.execGuestLinkFail h s
  | .guestSidebandRequest h => Sys2Proof.Machine.execGuestSidebandRequest h s
  | .tunableWarmed g => Sys2Proof.Machine.execTunableWarmed g s
  | .registerRead src addr => Sys2Proof.Machine.execRegisterRead src addr s
  | .operatorRootTransfer plid digest root sig => Sys2Proof.Machine.execOperatorRootTransfer plid digest root sig s
  | .floorResetStatement plid floors root sig => Sys2Proof.Machine.execFloorResetStatement plid floors root sig s
  | .interruptCauseClear bits => Sys2Proof.Machine.execInterruptCauseClear bits s

end Sys2Proof.Machine
end

