-- ==== Sys2Proof/Machine/Idle.lean ====
section
/-!
DEFINITION. The step on an empty queue.
-/
namespace Sys2Proof.Machine

/-- One tick of the 1.25 GHz time base (DESIGN CHOICE, log 1). -/
def idle (s : State) : Host.Outcome State Fault Refusal := act (fun b => b.tick s.mem) s

end Sys2Proof.Machine
end

