-- ==== Sys2Proof/Safety.lean ====
section
/-!
DEFINITION. The words that the statements share: states between commands, a next state with a property, what a command
leaves alone, and who may write registers.
-/
namespace Sys2Proof

open Machine

/-- A state between commands: the memory has its canonical form and no write of a command is unfinished. -/
abbrev Machine.State.ok (s : State) : Prop := Memory.wf s.mem ∧ s.box.ws = []

/-- The state with other parts of the device. -/
def Machine.State.withBox (s : State) (b : Box) : State := { s with box := b }

/-- The outcome is a next state with a property. -/
def nextWith (o : Host.Outcome State Fault Refusal) (p : State → Prop) : Prop := ∃ u, o = .next u ∧ p u

/-- The addressed memory and the queue are as before. -/
def sameMem (s u : State) : Prop := u.mem = s.mem ∧ u.pending = s.pending

/-- Every register instance holds what it held, but those of the fields named. -/
def sameRegs (s u : State) (l : List Reg) : Prop := ∀ r i j k, r ∉ l → u.box.get r i j k = s.box.get r i j k

/-- Every instance of a field but one is as before. -/
def sameElse (s u : State) (r : Reg) (i j k : Nat) : Prop :=
  ∀ i' j' k', ¬(i' = i ∧ j' = j ∧ k' = k) → u.box.get r i' j' k' = s.box.get r i' j' k'

/-- What the device has sent is as before, after some answers or messages more. -/
def sent (s u : State) (l : List Emit) : Prop := u.box.out = l ++ s.box.out

/-- A requester whose register writes are applied: a management core or the holder of the lease (R497). -/
abbrev writer (b : Box) (src : Src) : Prop := isCore src.toNat = true ∨ b.isAgent src.toNat = true

/-- A relay thread that can issue any instruction: its core runs, it is READY, and nothing of it is outstanding. -/
abbrev issues (b : Box) (t : Nat) : Prop :=
  b.get .rlyState (coreOf t) = coreRun ∧ b.tst t = thReady ∧ (b.thr t).out = []

/-- After an instruction of `len` bytes of thread `t`: its program counter moved on. -/
def pcBy (s u : State) (t len : Nat) : Prop := u.box.pc t = (s.box.pc t + len) % 2 ^ 16

/-- The frame of an instruction that writes registers of its own thread alone: memory, queue, other threads, and every
control register but its own program counter, its state and the issue counts are as before. -/
def ownThread (s u : State) (t : Nat) : Prop :=
  sameMem s u ∧ (∀ t', t' ≠ t → u.box.thr t' = s.box.thr t')
    ∧ sameRegs s u [.rlyTPc, .rlyTState, .rlyIssueO, .rlyIssueV]
    ∧ (∀ t', t' ≠ t → u.box.pc t' = s.box.pc t' ∧ u.box.tst t' = s.box.tst t')

/-- What an instruction leaves in its thread beside scalar registers: vector and predicate registers, held frames,
outstanding accesses, STATUS and the random seeds. -/
def sameThread (s u : State) (t : Nat) : Prop :=
  (u.box.thr t).v = (s.box.thr t).v ∧ (u.box.thr t).p = (s.box.thr t).p ∧ (u.box.thr t).slots = (s.box.thr t).slots
    ∧ (u.box.thr t).out = (s.box.thr t).out ∧ (u.box.thr t).status = (s.box.thr t).status
    ∧ (u.box.thr t).seed = (s.box.thr t).seed

/-- A scalar instruction of thread `t`: the destination takes the low 64 bits of a value, x0 keeps 0, every other scalar
register and the rest of the device keep what they held. -/
def scalarDone (s : State) (o : Host.Outcome State Fault Refusal) (t d len v : Nat) : Prop :=
  nextWith o (fun u => pcBy s u t len ∧ ownThread s u t ∧ sameThread s u t
    ∧ (u.box.thr t).xr d = (if d = 0 then 0 else v % 2 ^ 64) ∧ ∀ r, r ≠ d → (u.box.thr t).xr r = (s.box.thr t).xr r)

/-- A register write was applied: the device answers status 0, and its parts are `b`. -/
def applied (s : State) (src : Src) (o : Host.Outcome State Fault Refusal) (b : Box) : Prop :=
  o = .next (s.withBox (b.reply src 0))

/-- An access was answered with a status and data, and the device's parts are `b`. -/
def answered (s : State) (src : Src) (o : Host.Outcome State Fault Refusal) (status data : Nat) (b : Box) : Prop :=
  o = .next (s.withBox (b.reply src status data))

/-- A register write was not applied: nothing but the answer, of a status, is new. -/
def turnedAway (s : State) (src : Src) (o : Host.Outcome State Fault Refusal) (status : Nat) : Prop :=
  o = .next (s.withBox (s.box.reply src status))

/-- Whether an index lies in its range; an index that a name does not have is 0. -/
def indexOk (d : Option (Ix × Nat × Nat)) (i : Nat) : Prop :=
  match d with | some (_, lo, n) => lo ≤ i ∧ i < lo + n | none => i = 0

/-- A management address outside the windows of memory and tables whose word is a whole register of one field. -/
abbrev hits (a : Nat) (x : Hit) (r : Reg) : Prop :=
  inMem a = false ∧ inTables a = false ∧ locate a = some x ∧ x.regs = [r] ∧ r.words = 1

/-- What a write of 64 bits gives a field. -/
def fieldOf (r : Reg) (d : Nat) : Nat := d / 2 ^ r.info.lo % 2 ^ r.info.width

/-- The error queue has room for one record more, and storm mode is off. -/
abbrev calm (b : Box) : Prop := b.mar.stormOn = false ∧ b.errSlot.isSome = true

/-- A new record stands in the error queue, in a place that was free: detecting half, the row and instance it names,
severity, containment, payload (R580). -/
def recorded (s u : State) (h : Nat) (r : Reg) (inst sev contain payload : Nat) : Prop :=
  ∃ m e, s.box.mar.errq.find m = none ∧ u.box.mar.errq.find m = some e ∧ e.half = h ∧ e.block = r.info.block
    ∧ e.cause = r.info.row ∧ e.inst = inst % 65536 ∧ e.sev = sev ∧ e.contain = contain ∧ e.payload = payload

/-- What raising a record writes of the registers: its count in the error queue, storm mode, and counts of what storm
mode or the management egress turned away. -/
def raiseRegs : List Reg := [.marErrqCnt, .marStorm, .marStormLost, .marEgrDrop]

end Sys2Proof
end

