-- ==== Sys2Proof/Certificates/Slice0/Obligations.lean ====
section
/-!
DEFINITION. The statements for the provers, one definition each. The rules and chapters that each rests on are listed in
OBLIGATIONS.json. A statement about a free value holds for every value of it: `Config.free` has no body.
-/
open Sys2Proof Sys2Proof.Machine

/-! ### The relay instruction set -/

/-- R280: the register instructions of class S: the destination takes the result, modulo 2^64. R279, R280: the immediate
instructions of class SI, with a short immediate of one word or a long one of two; LI is always long. -/
def Obligations.KriScalars : Prop :=
  (∀ (s : State) (t : Thr) (d a c : XReg), s.ok → issues s.box t →
    let x := (s.box.thr t).xr a
    let y := (s.box.thr t).xr c
    let sx := toSigned 64 x
    let sy := toSigned 64 y
    scalarDone s (exec (.add t d a c) s) t d 4 (x + y)
    ∧ scalarDone s (exec (.sub t d a c) s) t d 4 (x + 2 ^ 64 - y)
    ∧ scalarDone s (exec (.and t d a c) s) t d 4 (x &&& y)
    ∧ scalarDone s (exec (.or t d a c) s) t d 4 (x ||| y)
    ∧ scalarDone s (exec (.xor t d a c) s) t d 4 (x ^^^ y)
    ∧ scalarDone s (exec (.sll t d a c) s) t d 4 (x * 2 ^ (y % 64))
    ∧ scalarDone s (exec (.srl t d a c) s) t d 4 (x / 2 ^ (y % 64))
    ∧ scalarDone s (exec (.sra t d a c) s) t d 4 (ofSigned 64 (sx / (2 ^ (y % 64) : Nat)))
    ∧ scalarDone s (exec (.mul t d a c) s) t d 4 (x * y)
    ∧ scalarDone s (exec (.mulh t d a c) s) t d 4 (ofSigned 64 (sx * sy / (2 ^ 64 : Nat)))
    ∧ scalarDone s (exec (.slt t d a c) s) t d 4 (if sx < sy then 1 else 0)
    ∧ scalarDone s (exec (.sltu t d a c) s) t d 4 (if x < y then 1 else 0)
    ∧ scalarDone s (exec (.min t d a c) s) t d 4 (if sy < sx then y else x)
    ∧ scalarDone s (exec (.max t d a c) s) t d 4 (if sx < sy then y else x))
  ∧
  (∀ (s : State) (t : Thr) (d a : XReg) (i : Imm) (w : BitVec 32), s.ok → issues s.box t →
    let x := (s.box.thr t).xr a
    let y := match i with | .short v => ofSigned 64 v.toInt | .long v => ofSigned 64 v.toInt
    let n := match i with | .short _ => 4 | .long _ => 8
    scalarDone s (exec (.addi t d a i) s) t d n (x + y)
    ∧ scalarDone s (exec (.andi t d a i) s) t d n (x &&& y)
    ∧ scalarDone s (exec (.ori t d a i) s) t d n (x ||| y)
    ∧ scalarDone s (exec (.xori t d a i) s) t d n (x ^^^ y)
    ∧ scalarDone s (exec (.slli t d a i) s) t d n (x * 2 ^ (y % 64))
    ∧ scalarDone s (exec (.srli t d a i) s) t d n (x / 2 ^ (y % 64))
    ∧ scalarDone s (exec (.li t d w) s) t d 8 (ofSigned 64 w.toInt))

/-- R279, R280: branches and jumps. A branch that is taken goes to the instruction's own address plus four times its
offset, within the 64 KiB instruction store; a jump leaves the next instruction's address in its register. R274 to
R276, R286, R293, R294: control registers, TIME, fences with nothing outstanding, YIELD, HALT and TRAP. -/
def Obligations.KriBranchesAndControl : Prop :=
  (∀ (s : State) (t : Thr) (d a c : XReg) (off : Imm), s.ok → issues s.box t →
    let x := (s.box.thr t).xr a
    let y := (s.box.thr t).xr c
    let n := match off with | .short _ => 4 | .long _ => 8
    let o : Int := match off with | .short v => v.toInt | .long v => v.toInt
    let pc := s.box.pc t
    let goes (i : Instr) (taken : Prop) [Decidable taken] : Prop :=
      nextWith (exec i s) (fun u => ownThread s u t ∧ sameThread s u t ∧ (u.box.thr t).x = (s.box.thr t).x
        ∧ u.box.pc t = if taken then ofSigned 16 ((pc : Int) + 4 * o) / 4 * 4 else (pc + n) % 2 ^ 16)
    let jumps (i : Instr) (base : Nat) : Prop :=
      nextWith (exec i s) (fun u => ownThread s u t ∧ sameThread s u t
        ∧ u.box.pc t = ofSigned 16 ((base : Int) + 4 * o) / 4 * 4
        ∧ (u.box.thr t).xr d = (if d.val = 0 then 0 else (pc + n) % 2 ^ 16)
        ∧ ∀ r, r ≠ d.val → (u.box.thr t).xr r = (s.box.thr t).xr r)
    goes (.beq t a c off) (x = y) ∧ goes (.bne t a c off) (x ≠ y)
    ∧ goes (.blt t a c off) (toSigned 64 x < toSigned 64 y) ∧ goes (.bge t a c off) (toSigned 64 y ≤ toSigned 64 x)
    ∧ goes (.bltu t a c off) (x < y) ∧ goes (.bgeu t a c off) (y ≤ x)
    ∧ jumps (.jal t d off) pc ∧ jumps (.jalr t d a off) x)
  ∧
  (∀ (s : State) (t : Thr) (d a : XReg) (n : Fin 3), s.ok → issues s.box t → (s.box.thr t).slots = [] →
    (s.box.bundleOf t).all (fun x => !x.stopping) = true →
    let x := (s.box.thr t).xr a
    scalarDone s (exec (.csrr t d .thread) s) t d 4 t
    ∧ scalarDone s (exec (.csrr t d .workrung) s) t d 4 (s.box.thr t).workRung
    ∧ scalarDone s (exec (.csrr t d .status) s) t d 4 (s.box.thr t).status
    ∧ scalarDone s (exec (.csrr t d (.srseed n)) s) t d 4 ((s.box.thr t).seed.at n 0)
    ∧ scalarDone s (exec (.time t d) s) t d 4 s.box.ns
    ∧ nextWith (exec (.csrw t .status a) s) (fun u => ownThread s u t ∧ pcBy s u t 4 ∧ (u.box.thr t).status = x % 8
        ∧ (u.box.thr t).x = (s.box.thr t).x)
    ∧ nextWith (exec (.csrw t (.srseed n) a) s) (fun u => ownThread s u t ∧ pcBy s u t 4
        ∧ (u.box.thr t).seed.at n 0 = x ∧ (u.box.thr t).x = (s.box.thr t).x)
    ∧ (∀ i ∈ [Instr.fenceC t, .fenceD t, .fenceH t, .fenceM t], nextWith (exec i s) (fun u =>
        ownThread s u t ∧ sameThread s u t ∧ pcBy s u t 4 ∧ (u.box.thr t).x = (s.box.thr t).x ∧ u.box.tst t = thReady))
    ∧ nextWith (exec (.yield t) s) (fun u => ownThread s u t ∧ sameThread s u t ∧ pcBy s u t 4 ∧ u.box.tst t = thWait
        ∧ u.box.mayIssue t = true)
    ∧ nextWith (exec (.halt t) s) (fun u => sameMem s u ∧ u.box.tst t = thStopped
        ∧ u.box.get .rlyTFault (coreOf t) (thrOf t) = 0)
    ∧ nextWith (exec (.trap t) s) (fun u => sameMem s u ∧ u.box.tst t = thStopped
        ∧ u.box.get .rlyTFault (coreOf t) (thrOf t) = 12 + s.box.pc t % 2 ^ 48 * 256))

/-- R258, R269, R274, R280: a load whose address its bundle may read leaves an outstanding access that names the
destination register and the address; the registers keep their values until it returns. Strided and indexed loads name
one address per lane that the predicate governs. R258: an outstanding scalar load of the scratch returns: its register
takes the bytes, least significant first, with zeros above; x0 keeps 0. A thread that waited for it is READY. -/
def Obligations.KriLoads : Prop :=
  (∀ (s : State) (t : Thr) (d a c : XReg) (m : MAddr) (i : Imm) (size : Fin 4) (p : PReg) (f : Fmt) (st : Site)
    (l : List Site), s.ok → issues s.box t → s.box.coreOut (coreOf t) < 64 →
    let x := s.box.thr t
    let tagOf : Site → Nat := fun q => match q with | .lpddr _ g => g | _ => 0
    let at1 := maddr x a m
    let at2 := ofSigned 64 ((x.xr a : Int) + immVal i)
    let lanes := maskLanes (x.pr p) (fmtLanes f)
    let strided := lanes.map (fun j => (x.xr a + x.xr c * j) % 2 ^ 64)
    let indexed := lanes.map (fun j => (x.xr a + lane_ (laneBits f) (x.vr c) j) % 2 ^ 64)
    let after (n : Nat) (acc : Access) (u : State) : Prop :=
      ownThread s u t ∧ pcBy s u t n ∧ (u.box.thr t).x = x.x ∧ (u.box.thr t).v = x.v ∧ (u.box.thr t).out = [acc]
    (s.box.site t at1 (2 ^ size.val) (2 ^ size.val) .read = .ok st →
      nextWith (exec (.ld t d a m size) s)
        (after (maddrLen m) ⟨.load (2 ^ size.val), d, [at1], 0, tagOf st, false, false⟩))
    ∧ (s.box.site t at2 64 64 .read = .ok st →
      nextWith (exec (.vld t d a i) s) (after (immLen i) ⟨.vload, d, [at2], 0, tagOf st, false, false⟩))
    ∧ (fmtOk f = true → lanes ≠ [] → s.box.sites t (elemBytes f) (elemBytes f) .read strided = .ok (st :: l) →
      nextWith (exec (.vlds t d a c p f) s) (after 4 ⟨.gather f, d, strided, x.pr p, tagOf st, false, false⟩))
    ∧ (fmtOk f = true → lanes ≠ [] → s.box.sites t (elemBytes f) (elemBytes f) .read indexed = .ok (st :: l) →
      nextWith (exec (.vgth t d a c p f) s) (after 4 ⟨.gather f, d, indexed, x.pr p, tagOf st, false, false⟩)))
  ∧
  (∀ (s : State) (t : Thr) (n addr key tag : Nat) (d : XReg), s.ok → n ∈ [1, 2, 4, 8] →
    (s.box.thr t).out = [⟨.load n, d, [addr], 0, tag, false, false⟩] →
    s.box.tst t = thWait → (s.box.thr t).waits = .access → s.box.site t addr n 1 .read = .ok (.scratch key) →
    nextWith (exec (.memoryAccessDone t 0 false) s) (fun u => sameMem s u ∧ (u.box.thr t).out = []
      ∧ (u.box.thr t).xr d = (if d.val = 0 then 0 else leNat (Memory.readBytes s.mem key n))
      ∧ u.box.tst t = thReady ∧ (∀ t', t' ≠ t → u.box.thr t' = s.box.thr t') ∧ sameRegs s u [.rlyTState]))

/-- R269, R280: a store of 1, 2, 4, 8 or 64 bytes to the scratch writes the bytes at its address, least significant first,
and no other; a strided or indexed store writes the lanes that the predicate governs, here one lane or none. R263,
R284: LDF and the atomics issue an outstanding access; AMO holds the operand and, for a compare-and-swap, the old
value of its destination; VAMO on a line holds one operand per governed lane. -/
def Obligations.KriStoresAndAtomics : Prop :=
  (∀ (s : State) (t : Thr) (d a c : XReg) (m : MAddr) (i : Imm) (size : Fin 4) (p : PReg) (f : Fmt) (key j : Nat),
    s.ok → issues s.box t →
    let x := s.box.thr t
    let at1 := maddr x a m
    let at2 := ofSigned 64 ((x.xr a : Int) + immVal i)
    let n := elemBytes f
    let stored (k len v : Nat) (o : Host.Outcome State Fault Refusal) : Prop :=
      nextWith o (fun u => Memory.wf u.mem ∧ u.pending = s.pending ∧ u.box.thr t = { x with waits := .none }
        ∧ sameRegs s u [.rlyTPc, .rlyTState, .rlyIssueO]
        ∧ ∀ q, Memory.readByte u.mem q
          = if k ≤ q ∧ q < k + len then BitVec.ofNat 8 (v / 256 ^ (q - k)) else Memory.readByte s.mem q)
    (s.box.site t at1 (2 ^ size.val) (2 ^ size.val) .write = .ok (.scratch key) →
      stored key (2 ^ size.val) (x.xr d) (exec (.st t d a m size) s))
    ∧ (s.box.site t at2 64 64 .write = .ok (.scratch key) → stored key 64 (x.vr d) (exec (.vst t d a i) s))
    ∧ (f.val ∈ [0, 1, 2, 3, 4, 8, 9] → maskLanes (x.pr p) (fmtLanes f) = [j] →
      s.box.site t ((x.xr a + x.xr c * j) % 2 ^ 64) n n .write = .ok (.scratch key) →
      stored key n (lane_ (laneBits f) (x.vr d) j) (exec (.vsts t d a c p f) s))
    ∧ (f.val ∈ [0, 1, 2, 3, 4, 8, 9] → maskLanes (x.pr p) (fmtLanes f) = [j] →
      s.box.site t ((x.xr a + lane_ (laneBits f) (x.vr c) j) % 2 ^ 64) n n .write = .ok (.scratch key) →
      stored key n (lane_ (laneBits f) (x.vr d) j) (exec (.vsct t d a c p f) s))
    ∧ (fmtOk f = true → maskLanes (x.pr p) (fmtLanes f) = [] →
      stored key 0 0 (exec (.vsts t d a c p f) s) ∧ stored key 0 0 (exec (.vsct t d a c p f) s)))
  ∧
  (∀ (s : State) (t : Thr) (op : AmoOp) (d a c : XReg) (p : PReg) (i : Imm) (acq rel : Bool) (w : Fin 4) (slot : Fin 4)
    (h : HeldSlot) (fr : Held) (st : Site) (l : List Nat), s.ok → issues s.box t → s.box.coreOut (coreOf t) < 64 →
    let x := s.box.thr t
    let off := ofSigned 64 ((x.xr a : Int) + immVal i)
    let n := 4 * (w.val + 1)
    let after (len : Nat) (acc : Access) (u : State) : Prop :=
      ownThread s u t ∧ pcBy s u t len ∧ (u.box.thr t).x = x.x ∧ (u.box.thr t).v = x.v ∧ (u.box.thr t).out = [acc]
    (x.slots.find slot = some h → s.box.frameOf h.desc = some fr → off < fr.bytes.length →
      nextWith (exec (.ldf t d slot a i) s) (after (immLen i) ⟨.frame h.desc off, d, [], 0, 0, false, false⟩))
    ∧ (w.val < 2 → s.box.site t (x.xr a) n n .atomic = .ok st →
      nextWith (exec (.amo t op d a c acq rel w) s)
        (after 4 ⟨.amo (amoCode op) n (x.xr c % 2 ^ (8 * n)) (x.xr d % 2 ^ (8 * n)), d, [x.xr a], 0, 0, rel, acq⟩))
    ∧ (w.val = 3 → op ∈ [AmoOp.add, .and, .or, .xor, .min, .max] → x.xr a % 64 = 0 → maskLanes (x.pr p) 16 ≠ [] →
      s.box.sites t 4 4 .atomic ((maskLanes (x.pr p) 16).map (fun j => (x.xr a + 4 * j) % 2 ^ 64)) = .ok (l.map .baton) →
      nextWith (exec (.vamo t op .line a c p acq rel w) s)
        (after 4 ⟨.vamo (amoCode op) 4 ((maskLanes (x.pr p) 16).map (lane_ 32 (x.vr c))), 0,
          (maskLanes (x.pr p) 16).map (fun j => (x.xr a + 4 * j) % 2 ^ 64), 0, 0, rel, acq⟩)))

/-- R262, R264, R265, R290: WAITQ takes the head of its queue, or waits; REL gives a frame up; POST to a queue with room
appends its image with POSTED and RUNG set, and to a full queue sets STATUS[0] and takes nothing. R285: WAITA waits
for a line of the baton store, unless it was written since the thread last loaded it; its timeout makes the thread
READY. -/
def Obligations.KriQueuesAndWaits : Prop :=
  (∀ (s : State) (t : Thr) (d a c : XReg) (q : Fin 8) (w : Work) (rest : List Work) (slot : Fin 4) (h : HeldSlot),
    s.ok → issues s.box t →
    let x := s.box.thr t
    let core := coreOf t
    let dest := x.xr c % 128
    let dq := x.xr c / 128 % 8
    let img := setBits (setBits (x.vr a) 240 240 1) 507 506 x.workRung
    ((s.box.bundleOf t).all (fun y => !y.stopping) = true → x.slots.length < 4 → s.box.boundTo core q = x.bundle →
      s.box.wq core q = w :: rest → w.desc = none →
      nextWith (exec (.waitq t d q) s) (fun u => sameMem s u ∧ pcBy s u t 4 ∧ u.box.tst t = thReady
        ∧ (u.box.thr t).vr d = w.img % 2 ^ 512 ∧ (u.box.thr t).workRung = bits w.img 507 506 ∧ u.box.wq core q = rest
        ∧ (u.box.thr t).slots = x.slots ∧ (u.box.thr t).x = x.x))
    ∧ ((s.box.bundleOf t).all (fun y => !y.stopping) = true → x.slots.length < 4 → s.box.wq core q = [] →
      nextWith (exec (.waitq t d q) s) (fun u => ownThread s u t ∧ pcBy s u t 4 ∧ u.box.tst t = thIdle
        ∧ u.box.thr t = { x with waits := .queue q d }))
    ∧ (x.slots.find slot = some h →
      nextWith (exec (.rel t slot) s) (fun u => sameMem s u ∧ pcBy s u t 4 ∧ u.box.tst t = thReady
        ∧ u.box.thr t = { x with waits := .none, slots := x.slots.del slot }))
    ∧ ((s.box.wq dest dq).length < 64 → (s.box.boundTo dest dq).isSome = true → s.box.waiters dest dq = [] →
      nextWith (exec (.post t a c) s) (fun u => sameMem s u ∧ pcBy s u t 4
        ∧ u.box.wq dest dq = s.box.wq dest dq ++ [⟨img, none⟩] ∧ (u.box.thr t).status = x.status / 2 * 2))
    ∧ ((s.box.wq dest dq).length < 64 → (s.box.boundTo dest dq).isSome = true → s.box.waiters dest dq = [] →
      halfOfCore dest = halfOfCore core → x.slots.find (bits img 503 502) = some h →
      nextWith (exec (.postF t a c) s) (fun u => sameMem s u ∧ pcBy s u t 4
        ∧ u.box.wq dest dq = s.box.wq dest dq ++ [⟨img, some h.desc⟩] ∧ (u.box.thr t).status = x.status / 2 * 2
        ∧ (u.box.thr t).slots = x.slots.del (bits img 503 502)))
    ∧ (64 ≤ (s.box.wq dest dq).length →
      nextWith (exec (.post t a c) s) (fun u => ownThread s u t ∧ pcBy s u t 4
        ∧ u.box.thr t = { x with waits := .none, status := x.status / 2 * 2 + 1 } ∧ u.box.rly.wq = s.box.rly.wq)))
  ∧
  (∀ (s : State) (t : Thr) (a c : XReg) (line : Nat), s.ok →
    let x := s.box.thr t
    (issues s.box t → s.box.site t (x.xr a) 64 64 .read = .ok (.baton line) →
      nextWith (exec (.waita t a c) s) (fun u => ownThread s u t ∧ sameThread s u t ∧ pcBy s u t 4
        ∧ (u.box.thr t).waits = (if x.lines.find line = some true then .none else .line line)
        ∧ u.box.tst t = if x.lines.find line = some true then thReady else thIdle))
    ∧ (x.waits = .line line → nextWith (exec (.waitaTimeout t) s) (fun u => sameMem s u ∧ u.box.tst t = thReady
        ∧ u.box.thr t = { x with waits := .none } ∧ sameRegs s u [.rlyTState] ∧ u.box.out = s.box.out)))

/-- R266, R267, R349: a SEND with cells free and an egress account that admits it puts one frame, the thread's bytes and
their FCS, in the queue of the lane it names; a SEND.F whose frame the pipeline gives to CTL reaches CTL; a SEND.M to
a set without ports sends nothing; each leaves its thread READY past the instruction. A SEND that waits is sent when
it is admitted. R267: a SEND that waits for cells is sent when it is admitted, and its thread is READY; where there is
none it goes on waiting. -/
def Obligations.KriSending : Prop :=
  (∀ (s : State) (t : Thr) (d a c : XReg) (w : BitVec 32) (key cell : Nat) (tail : List Nat) (y : HalfBuf),
    s.ok → issues s.box t → (s.box.thr t).slots = [] →
    let x := s.box.thr t
    let h := halfOfCore (coreOf t)
    let len := x.xr c
    let r := w.toNat % 4
    let l := x.xr d % 1024
    let bytes := Memory.readBytes s.mem key len
    let sends (u : State) (b : Box) : Prop := sameMem s u ∧ u.box.tst t = thReady
      ∧ ∃ ds, u.box.eq l r = b.eq l r ++ [ds] ∧ (u.box.frameOf ds).map (·.bytes) = some (bytes ++ fcs bytes)
    (w.toNat < 4 → 2 ≤ r → x.workRung < r → 60 ≤ len → len ≤ 9212 →
      s.box.site t (x.xr a) len 1 .read = .ok (.scratch key) →
      s.box.bpmHeld h = false → HalfBuf.takeN (cellsOf (len + 4)) (s.box.hb h) = some (cell :: tail, y) →
      cell < cellCount → (cell :: tail).Nodup → halfOf l = h → s.box.eligible l r none = true →
      s.box.egrAdmits l r (cellsOf (len + 4)) = true →
      nextWith (exec (.send t d a c w) s) (fun u => pcBy s u t 8 ∧ sends u s.box))
    ∧ (w.toNat < 4 → 2 ≤ r → x.workRung < r → 60 ≤ len → len ≤ 9216 →
      s.box.site t (x.xr a) len 1 .read = .ok (.scratch key) → s.box.mcastPorts (x.xr d % 16384) = [] →
      nextWith (exec (.sendM t d a c w) s) (fun u => pcBy s u t 8 ∧ ownThread s u t ∧ sameThread s u t
        ∧ u.box.tst t = thReady ∧ u.box.buf = s.box.buf))
    ∧ (w.toNat < 4 → 2 ≤ r → x.workRung < r → 60 ≤ len → len ≤ 9212 →
      s.box.site t (x.xr a) len 1 .read = .ok (.scratch key) →
      s.box.bpmHeld h = false → HalfBuf.takeN (cellsOf (len + 4)) (s.box.hb h) = some (cell :: tail, y) →
      cell < cellCount → (cell :: tail).Nodup → (s.box.parse (bytes ++ fcs bytes)).bad = none →
      (s.box.parse (bytes ++ fcs bytes)).ctl = true → 9216 ≤ s.box.get .fwdMtu →
      nextWith (exec (.sendF t a c w) s) (fun u => pcBy s u t 8 ∧ sameMem s u ∧ u.box.tst t = thReady
        ∧ sent s u [.toCtl (bytes ++ fcs bytes)] ∧ u.box.buf.eq = s.box.buf.eq)))
  ∧
  (∀ (s : State) (t : Thr) (l : Fin 1024) (r cell : Nat) (bytes : List Byte) (tail : List Nat) (y : HalfBuf),
    s.ok → r ∈ [2, 3] → (s.box.thr t).waits = .send (some l) none r bytes → bytes ≠ [] →
    let h := halfOfCore (coreOf t)
    let n := cellsOf (bytes.length + 4)
    (s.box.bpmHeld h = true → nextWith (exec (.sendAdmitted t) s) (fun u => u = s))
    ∧ (s.box.bpmHeld h = false → HalfBuf.takeN n (s.box.hb h) = some (cell :: tail, y) → cell < cellCount →
      (cell :: tail).Nodup → halfOf l = h → s.box.eligible l r none = true → s.box.egrAdmits l r n = true →
      nextWith (exec (.sendAdmitted t) s) (fun u => sameMem s u ∧ u.box.tst t = thReady ∧ (u.box.thr t).waits = .none
        ∧ ∃ ds, u.box.eq l r = s.box.eq l r ++ [ds] ∧ (u.box.frameOf ds).map (·.bytes) = some (bytes ++ fcs bytes))))

/-- A class V or VX instruction of `len` bytes of thread `t` that writes lanes of one vector register: the lanes that the
mask governs take new values, cut to the lane, the others and every other register keep theirs. -/
def lanesDone (s : State) (o : Host.Outcome State Fault Refusal) (t d len f mask : Nat) (new : Nat → Nat) : Prop :=
  nextWith o (fun u => pcBy s u t len ∧ ownThread s u t ∧ (u.box.thr t).x = (s.box.thr t).x
    ∧ (u.box.thr t).p = (s.box.thr t).p ∧ (u.box.thr t).slots = (s.box.thr t).slots
    ∧ (∀ r, r ≠ d → (u.box.thr t).vr r = (s.box.thr t).vr r)
    ∧ ∀ i, i < fmtLanes f → lane_ (laneBits f) ((u.box.thr t).vr d) i
      = if bitAt mask i then new i % 2 ^ laneBits f else lane_ (laneBits f) ((s.box.thr t).vr d) i)

/-- R280, R282, R323, R324, R326: the arithmetic of class V on every format but KBP: each governed lane takes the exact
result rounded once to nearest even; integers wrap. R280, R282: the bitwise operations, integer products, shifts by
less than the lane width, selection, broadcast and permutation of lanes. -/
def Obligations.KriVectorElements : Prop :=
  (∀ (s : State) (t : Thr) (d a c : XReg) (p : PReg) (f : Fmt), s.ok → issues s.box t → f.val < 10 →
    let x := s.box.thr t
    let w := laneBits f
    let raw (r i : Nat) : Nat := lane_ w (x.vr r) i
    let num (r i : Nat) : Machine.Num := decodeNum f (raw r i)
    let int (r i : Nat) : Int := toSigned w (raw r i)
    let code (v : Machine.Num) : Nat := (encodeNum f .near v).raw
    let isInt : Prop := f.val = 8 ∨ f.val = 9
    let does (i : Instr) (opN : Machine.Num → Machine.Num → Machine.Num → Machine.Num) (opI : Int → Int → Int → Int) : Prop :=
      lanesDone s (exec i s) t d 4 f (x.pr p) (fun j =>
        if isInt then ofSigned w (opI (int a j) (int c j) (int d j)) else code (opN (num a j) (num c j) (num d j)))
    does (.vadd t d a c p f) (fun u v _ => u.add v) (fun u v _ => u + v)
    ∧ does (.vsub t d a c p f) (fun u v _ => u.add v.neg) (fun u v _ => u - v)
    ∧ does (.vfma t d a c p f) (fun u v z => (u.mul v).add z) (fun u v z => u * v + z)
    ∧ does (.vmax t d a c p f) (fun u v _ => u.max v) (fun u v _ => max u v)
    ∧ does (.vmin t d a c p f) (fun u v _ => u.min v) (fun u v _ => min u v)
    ∧ (¬ isInt → does (.vmul t d a c p f) (fun u v _ => u.mul v) (fun u _ _ => u))
    ∧ (¬ isInt → does (.vabsmax t d a c p f) (fun u v _ => u.absmax v) (fun u _ _ => u)))
  ∧
  (∀ (s : State) (t : Thr) (d a c : XReg) (p : PReg) (f : Fmt), s.ok → issues s.box t → f.val < 10 →
    let x := s.box.thr t
    let w := laneBits f
    let raw (r i : Nat) : Nat := lane_ w (x.vr r) i
    let m := x.pr p
    lanesDone s (exec (.vand t d a c p f) s) t d 4 f m (fun i => raw a i &&& raw c i)
    ∧ lanesDone s (exec (.vor t d a c p f) s) t d 4 f m (fun i => raw a i ||| raw c i)
    ∧ lanesDone s (exec (.vxor t d a c p f) s) t d 4 f m (fun i => raw a i ^^^ raw c i)
    ∧ (f.val = 8 ∨ f.val = 9 →
      lanesDone s (exec (.vmullo t d a c p f) s) t d 4 f m (fun i => raw a i * raw c i))
    ∧ ((∀ i < fmtLanes f, raw c i < w) →
      lanesDone s (exec (.vshl t d a c p f) s) t d 4 f m (fun i => raw a i * 2 ^ raw c i)
      ∧ lanesDone s (exec (.vshr t d a c p f) s) t d 4 f m (fun i => raw a i / 2 ^ raw c i))
    ∧ lanesDone s (exec (.vsel t d a c p f) s) t d 4 f (2 ^ 128 - 1) (fun i => raw (if bitAt m i then a else c) i)
    ∧ lanesDone s (exec (.vbcast t d a p f) s) t d 4 f m (fun _ => x.xr a)
    ∧ ((∀ i < fmtLanes f, raw c i < fmtLanes f) →
      lanesDone s (exec (.vperm t d a c p f) s) t d 4 f m (fun i => raw a (raw c i))))

/-- R280, R282: VCMP writes a predicate bit per governed lane; integers compare as signed numbers. p0 keeps all ones.
R283, R313, R316, R318, R323, R325, R328: class VX with a clean control word that names one format and nearest
rounding: VCOMB sums lanes, VRED sums the governed lanes into lane 0 by a balanced tree and leaves the others, VCVT
converts and VSCALE multiplies between formats of equal lane counts. R302, R326, R352: VTOPK merges two lists of eight
pairs and keeps the eight that rank highest; VARGMAX keeps at each position the pair that ranks higher; a NaN among
the values is written canonical. -/
def Obligations.KriVectorReductions : Prop :=
  (∀ (s : State) (t : Thr) (r : CmpRel) (d : PReg) (a c : XReg) (p : PReg), s.ok → issues s.box t →
    let x := s.box.thr t
    let int (q i : Nat) : Int := toSigned 32 (lane_ 32 (x.vr q) i)
    let holds (u v : Int) : Bool := match r with
      | .eq => decide (u = v) | .ne => decide (u ≠ v) | .lt => decide (u < v) | .ge => decide (v ≤ u)
    nextWith (exec (.vcmp t r d a c p 9) s) (fun u => pcBy s u t 4 ∧ ownThread s u t ∧ (u.box.thr t).x = x.x
      ∧ (u.box.thr t).v = x.v ∧ (∀ q, q ≠ d.val → (u.box.thr t).pr q = x.pr q)
      ∧ ∀ i, i < 16 → bitAt ((u.box.thr t).pr d) i
        = if d.val = 0 then true else if bitAt (x.pr p) i then holds (int a i) (int c i) else bitAt (x.pr d) i))
  ∧
  (∀ (s : State) (t : Thr) (d a c : XReg) (p : PReg) (f g : Fmt) (k : BitVec 32), s.ok → issues s.box t →
    f.val < 10 → g.val < 10 → fmtLanes f = fmtLanes g →
    let x := s.box.thr t
    let raw (r i : Nat) : Nat := lane_ (laneBits f) (x.vr r) i
    let m := x.pr p
    let root := treeRoot (fun u v => (sumCode f u v).raw) 7
      ((upTo (fmtLanes f)).map (fun i => if bitAt m i then some (raw a i) else none))
    (vxCtl k.toNat = ⟨f, 0, 0, false, false, true⟩ → f.val ≠ 8 →
      lanesDone s (exec (.vcomb t d a c p f k) s) t d 8 f m (fun i => (sumCode f (raw a i) (raw c i)).raw)
      ∧ (∀ v, root = some v → lanesDone s (exec (.vred t d a c p f k) s) t d 8 f 1
          (fun _ => (encodeNum f .near (decodeNum f v)).raw)))
    ∧ (vxCtl k.toNat = ⟨g, 0, 0, false, false, true⟩ →
      lanesDone s (exec (.vcvt t d a c p f k) s) t d 8 g m
        (fun i => (encodeNum g .near (decodeNum f (raw a i))).raw)
      ∧ lanesDone s (exec (.vscale t d a c p f k) s) t d 8 g m
        (fun i => (encodeNum g .near ((decodeNum f (raw a i)).mul (decodeNum 0 (x.xr c % 2 ^ 32)))).raw)))
  ∧
  (∀ (s : State) (t : Thr) (d a c : XReg) (p : PReg) (f : Fmt) (k : BitVec 32), s.ok → issues s.box t → f.val < 10 →
    (vxCtl k.toNat).clean = true → bits k.toNat 25 22 = 0 →
    let x := s.box.thr t
    let l (r : Nat) : List Nat := (upTo 8).map (lane_ 64 (x.vr r))
    let writes (i : Instr) (new : List Nat) : Prop := nextWith (exec i s) (fun u => pcBy s u t 8 ∧ ownThread s u t
      ∧ (u.box.thr t).x = x.x ∧ (∀ r, r ≠ d.val → (u.box.thr t).vr r = x.vr r)
      ∧ ∀ j, j < 8 → lane_ 64 ((u.box.thr t).vr d) j
        = if bitAt (x.pr p) j then new.getD j 0 % 2 ^ 64 else lane_ 64 (x.vr d) j)
    writes (.vtopk t d a c p f k) (((mergePairs f 16 (l a) (l c)).take 8).map (canonPair f))
    ∧ writes (.vargmax t d a c p f k) ((l a).zipWith (fun u v => canonPair f (if pairAbove f v u then v else u)) (l c)))

/-! ### Fabric time -/

/-- R43, R45, R47, R59, R60, R675: writes of the time registers and of the calendar by a requester that may write them,
and the board time pulse. R45, R47, R59: what these writes are refused for: status 1, and nothing changes. R675: a
pulse of 100 ns to 10 µs that rises at least 1 ms after the last rising edge records its time and is counted; any
other is counted as bad, and the record stays. -/
def Obligations.FabricTimeWrites : Prop :=
  (∀ (s : State) (src : Src) (n : Fin 64) (act : BitVec 4) (v40 : BitVec 40) (v48 : BitVec 48) (v64 : BitVec 64),
    s.ok → writer s.box src →
    let b := s.box
    (b.get .timCalState n = 0 → act ≠ 0 → b.lap < b.get .timCalLap n →
      b.mayArm src.toNat act.toNat (b.get .timCalArg n) = true →
      applied s src (exec (.calArm src n act) s) ((b.put .timCalAction act.toNat n).put .timCalState 1 n))
    ∧ (b.get .timCalState n = 1 → b.mayArm src.toNat (b.get .timCalAction n) (b.get .timCalArg n) = true →
      applied s src (exec (.calDisarm src n) s) ((b.put .timCalAction 0 n).put .timCalState 0 n))
    ∧ (7996 * 2 ^ 40 ≤ v40.toNat * 10000 → v40.toNat * 10000 ≤ 8004 * 2 ^ 40 →
      applied s src (exec (.timIncrWrite src v40) s) (b.put .timIncr v40.toNat))
    ∧ ((∀ g < 16, b.cgState g ∉ [cgSealed, cgVoted, cgInDoubt]) →
      nextWith (exec (.timStepWrite src v48) s) (fun u => sameMem s u ∧ u.box.tim.step = some v48.toInt
        ∧ u.box.now = b.now ∧ sameRegs s u [.timStep] ∧ sent s u [.answer src.toNat 0 0]))
    ∧ (b.acquired = false →
      nextWith (exec (.timSetNsWrite src v64) s) (fun u => sameMem s u ∧ u.box.tim.load = some v64.toNat
        ∧ u.box.now = b.now ∧ sameRegs s u [.timSetNs] ∧ sent s u [.answer src.toNat 0 0]))
    ∧ applied s src (exec (.acquiredWrite src 1) s) (b.put .timCtrlAcquired 1)
    ∧ ((∀ g < 16, b.cgState g = cgFree) → applied s src (exec (.acquiredWrite src 0) s) (b.put .timCtrlAcquired 0)))
  ∧
  (∀ (s : State) (src : Src) (n : Fin 64) (act : BitVec 4) (v40 : BitVec 40) (v48 : BitVec 48) (v64 : BitVec 64) (g : Fin 16),
    s.ok → writer s.box src →
    let b := s.box
    (act ≠ 0 → b.get .timCalState n = 1 → turnedAway s src (exec (.calArm src n act) s) 1)
    ∧ (act ≠ 0 → b.get .timCalLap n ≤ b.lap → turnedAway s src (exec (.calArm src n act) s) 1)
    ∧ (v40.toNat * 10000 < 7996 * 2 ^ 40 ∨ 8004 * 2 ^ 40 < v40.toNat * 10000 →
      turnedAway s src (exec (.timIncrWrite src v40) s) 1)
    ∧ (b.cgState g ∈ [cgSealed, cgVoted, cgInDoubt] → turnedAway s src (exec (.timStepWrite src v48) s) 1)
    ∧ (b.acquired = true → turnedAway s src (exec (.timSetNsWrite src v64) s) 1)
    ∧ (b.acquired = true → b.cgState g ≠ cgFree → turnedAway s src (exec (.acquiredWrite src 0) s) 1))
  ∧
  (∀ (s : State) (w : BitVec 32), s.ok →
    let b := s.box
    let far : Prop := ∀ t, b.tim.pulseAt = some t → t + 1000000 * 65536 ≤ b.stamp
    let good : Prop := 100 ≤ w.toNat ∧ w.toNat ≤ 10000 ∧ far
    (good → b.get .timPulseCnt < 2 ^ 32 - 1 → nextWith (exec (.tpulse w) s) (fun u => sameMem s u
      ∧ u.box.get .timPulseNs = b.ns % 2 ^ 64 ∧ u.box.get .timPulseFrac = b.stamp % 65536
      ∧ u.box.get .timPulseCnt = b.get .timPulseCnt + 1 ∧ sameRegs s u [.timPulseNs, .timPulseFrac, .timPulseCnt]
      ∧ u.box.out = b.out ∧ u.box.tim.pulseAt = some b.stamp))
    ∧ (¬good → b.get .timPulseBad < 2 ^ 32 - 1 → nextWith (exec (.tpulse w) s) (fun u => sameMem s u
      ∧ u.box.get .timPulseBad = b.get .timPulseBad + 1 ∧ sameRegs s u [.timPulseBad] ∧ u.box.out = b.out
      ∧ u.box.tim.pulseAt = some b.stamp)))

/-! ### Forwarding tables -/

/-- R172, R173, R186, R685: direct table records by a requester that may write registers, while DIRECT_EN is 1. The four
words are put in TCMD, the record takes effect and TCMD_STAT names the outcome: a prefix is added, deleted or
modified, a next-hop set's member or mode is written; a key that is present cannot be added, one that is absent cannot
be deleted or modified. R184, R185, R188: a sweeper pass marks, keeps or removes every entry of the types it counts
for, once for each pass number; a compare pass shows its digest, and sets CMP_STAT when it differs from the write
digest. -/
def Obligations.ForwardingTables : Prop :=
  (∀ (s : State) (src : Src) (w0 w1 w2 w3 : BitVec 64) (e : LpmEntry), s.ok → writer s.box src →
    s.box.get .fwdCtrlDirectEn = 1 →
    let r := Record.ofWords w0.toNat w1.toNat w2.toNat w3.toNat
    let b := s.box
    let ends (i : Instr) (st : Nat) (p : State → Prop) : Prop := nextWith (exec i s) (fun u => sameMem s u
      ∧ sent s u [.answer src.toNat 0 0] ∧ u.box.get .fwdTcmdStat = st ∧ p u)
    r.bad = false →
    (r.table = 1 → r.op = 1 → b.lpmEntry r.typ r.len r.key = none → lpmUsed b.fwd.lpm + 2 ≤ 131072 →
      ends (.tableAdd src w0 w1 w2 w3) 0
        (fun u => u.box.lpmEntry r.typ r.len r.key = some ⟨r.typ, r.len, r.key, r.nhs, false, false⟩))
    ∧ (r.table = 1 → r.op = 2 → b.lpmEntry r.typ r.len r.key = some e →
      ends (.tableDelete src w0 w1 w2 w3) 0 (fun u => u.box.lpmEntry r.typ r.len r.key = none))
    ∧ (r.table = 1 → r.op = 3 → b.lpmEntry r.typ r.len r.key = some e →
      ends (.tableModify src w0 w1 w2 w3) 0
        (fun u => u.box.lpmEntry r.typ r.len r.key = some { e with nhs := r.nhs }))
    ∧ (r.table = 3 → r.op = 4 → ends (.tableSetMember src w0 w1 w2 w3) 0
        (fun u => u.box.get .fwdNhsMember r.set_ r.member = r.low ∧ u.box.fwd = b.fwd))
    ∧ (r.table = 3 → r.op = 5 → ends (.tableSetMode src w0 w1 w2 w3) 0
        (fun u => u.box.get .fwdNhsMode r.set_ = r.low % 4 ∧ u.box.fwd = b.fwd))
    ∧ (r.table = 1 → r.op = 1 → b.lpmEntry r.typ r.len r.key = some e →
      ends (.tableAdd src w0 w1 w2 w3) 5 (fun u => u.box.fwd = b.fwd))
    ∧ (r.table = 1 → r.op = 2 → b.lpmEntry r.typ r.len r.key = none →
      ends (.tableDelete src w0 w1 w2 w3) 2 (fun u => u.box.fwd = b.fwd))
    ∧ (r.table = 1 → r.op = 3 → b.lpmEntry r.typ r.len r.key = none →
      ends (.tableModify src w0 w1 w2 w3) 2 (fun u => u.box.fwd = b.fwd)))
  ∧
  (∀ (s : State) (p : Pipeline) (t : Fin 3) (m : BitVec 32), s.ok →
    let b := s.box
    let n := b.ns / (b.get .fwdSweepUs * 1000)
    let types := [1, 2, 3, 4, 5, 6].filter (fun q => b.get .fwdAgePass q != 0 && n % b.get .fwdAgePass q == 0)
    (b.fwd.pass = some n → exec .sweepPass s = .next s)
    ∧ (b.fwd.pass ≠ some n → (b.fwd.pipes.map (·.1)).Nodup →
      nextWith (exec .sweepPass s) (fun u => sameMem s u ∧ u.box.fwd.pass = some n ∧ u.box.fwd.lpm = b.fwd.lpm
        ∧ u.box.out = b.out ∧ ∀ q ∈ b.fwd.pipes.map (·.1), (u.box.pipe q).em = (b.pipe q).em.map (fun e =>
          (e.1, { e.2 with ways := e.2.ways.map (fun w => w.bind (fun x =>
            if types.contains x.typ then x.sweep else some x)) }))))
    ∧ (m.toNat = b.get .fwdWdig p t → (∀ q < 16, b.get .fwdWdig q t = b.get .fwdWdig p t) →
      exec (.comparePassEnd p t m) s = .next (s.withBox (b.put .fwdMdig m.toNat p t)))
    ∧ (m.toNat ≠ b.get .fwdWdig p t → b.get .fwdCmpStat p < 8 →
      nextWith (exec (.comparePassEnd p t m) s) (fun u => sameMem s u ∧ u.box.get .fwdMdig p t = m.toNat
        ∧ u.box.bit .fwdCmpStat t p = true ∧ u.box.fwd = b.fwd)))

/-! ### Lanes -/

/-- R88, R89, R91, R94, R105, R122, R659: the quiesced fields of a fibre are written while what uses them is idle, and
refused with status 1 while it is not. -/
def Obligations.LaneConfiguration : Prop :=
  ∀ (s : State) (src : Src) (f : Fibre) (h : Half) (sl : Slot) (v : BitVec 2) (v1 : BitVec 1), s.ok → writer s.box src →
    let b := s.box
    let n := b.get .prtCrouterN f
    (v.toNat < 2 → b.get .prtWidth f 0 ≠ 2 → b.halfRunning f h = false → widthFits n v.toNat = true →
      (b.put .prtWidth v.toNat f h).stripedHalves ≤ 4 →
      applied s src (exec (.portWidthWrite src f h v) s) (b.put .prtWidth v.toNat f h))
    ∧ (b.get .prtWidth f 0 ≠ 2 → b.halfRunning f h = false → (b.put .prtBond v1.toNat f h).stripedHalves ≤ 4 →
      applied s src (exec (.portBondWrite src f h v1) s) (b.put .prtBond v1.toNat f h))
    ∧ (v.toNat ≤ 2 → b.fibreRunning f = false → widthFits v.toNat (b.get .prtWidth f 0) = true →
      widthFits v.toNat (b.get .prtWidth f 1) = true →
      applied s src (exec (.crouterNWrite src f v) s) (b.put .prtCrouterN v.toNat f))
    ∧ (v.toNat ≤ 2 → b.lnState f sl = lnDark ∨ b.lnState f sl = lnFault →
      applied s src (exec (.fecReqWrite src f sl v) s) (b.put .prtLaneFecReq v.toNat f sl))
    ∧ (b.halfRunning f h = true → turnedAway s src (exec (.portWidthWrite src f h v) s) 1
      ∧ turnedAway s src (exec (.portBondWrite src f h v1) s) 1)
    ∧ (b.fibreRunning f = true → turnedAway s src (exec (.crouterNWrite src f v) s) 1)
    ∧ (b.lnState f sl ≠ lnDark → b.lnState f sl ≠ lnFault → turnedAway s src (exec (.fecReqWrite src f sl v) s) 1)

/-- R98, R683: the three lane commands. TRAIN starts a DARK lane whose light may run; DRAIN and DARK send the DRAIN set on
an UP lane and put it in DRAINING; then its light goes off. R98 to R101, R106, R387: the training states of a lane,
from DETECT to UP, and what fails. A capability message is kept, and the lane goes on to QUAL in KL-FEC when both ends
allow it. -/
def Obligations.LaneCommandsAndTraining : Prop :=
  (∀ (s : State) (src : Src) (f : Fibre) (sl : Slot), s.ok →
    let b := s.box
    let ends (i : Instr) (cmd st : Nat) (l : List Emit) (x : LaneSt → Prop) : Prop := nextWith (exec i s) (fun u =>
      sameMem s u ∧ u.box.lnState f sl = st ∧ u.box.get .prtLaneCmd f sl = cmd ∧ sent s u (.answer src.toNat 0 0 :: l)
      ∧ sameRegs s u [.prtLaneCmd, .prtLaneState] ∧ sameElse s u .prtLaneState f sl 0 ∧ x (u.box.lane f sl))
    (writer b src → b.lnState f sl = lnDark → b.laneMay f sl = true →
      ends (.laneTrain src f sl) 1 lnDetect [.train f sl, .light f sl true] (fun x => x.fails = 0 ∧ x.retryWait = false))
    ∧ (writer b src → b.lnState f sl = lnUp →
      ends (.laneDrain src f sl) 2 lnDraining [.os f sl (8 * 16 + sl) [2]] (fun x => x.relight = true ∧ x.holdDark = false)
      ∧ ends (.laneDark src f sl) 3 lnDraining [.os f sl (8 * 16 + sl) [2]]
          (fun x => x.relight = false ∧ x.holdDark = true))
    ∧ (b.lnState f sl = lnDraining → sl.val < 8 → nextWith (exec (.laneLightOff f sl) s) (fun u => sameMem s u
      ∧ u.box.lnState f sl = lnDark ∧ sent s u [.light f sl false] ∧ sameRegs s u [.prtLaneState, .pwrPsState]
      ∧ sameElse s u .prtLaneState f sl 0)))
  ∧
  (∀ (s : State) (f : Fibre) (sl : Slot) (msg : BitVec 64), s.ok →
    let b := s.box
    let m := msg.toNat
    let kl := b.klOwn f sl && bitAt m 33
    let st (i : Instr) (l : List Reg) (dst : Nat) (p : State → Prop) : Prop := nextWith (exec i s) (fun u =>
      sameMem s u ∧ sameRegs s u (.prtLaneState :: l) ∧ sameElse s u .prtLaneState f sl 0 ∧ u.box.lnState f sl = dst ∧ p u)
    (b.lnState f sl = lnDetect → (b.lane f sl).retryWait = false →
      st (.laneDetectDone f sl) [] lnEq (fun u => sent s u [] ∧ u.box.lanes = b.lanes))
    ∧ (b.lnState f sl = lnEq →
      st (.laneEqDone f sl) [] lnCap (fun u => sent s u [.cap f sl (b.ownCap f sl)] ∧ u.box.lanes = b.lanes))
    ∧ (b.lnState f sl = lnCap → capCrc m = m / 2 ^ 56 → b.routerOk f sl m = true → b.sec.board ≠ [] →
      (kl = true ∨ b.get .prtLaneFecReq f sl ≠ 2) →
      st (.capabilityMessage f sl msg) [.prtLanePeerCap, .prtLaneFecMode] lnQual (fun u => sent s u []
        ∧ u.box.get .prtLanePeerCap f sl = m
        ∧ u.box.get .prtLaneFecMode f sl = flag kl + 2 * flag (b.get .prtLaneFecReq f sl != 0 && !kl)))
    ∧ (b.lnState f sl = lnQual → (∀ l ∈ (b.portSpan (portOf (laneOf f (b.slotColour f sl)))).flatMap portLanes,
        b.peerPlid f (b.rxSlot f (colourOf l)) ∈ [0, b.peerPlid f sl]) →
      st (.laneQualDone f sl true) [] lnUp (fun u => sent s u [] ∧ (u.box.lane f sl).fails = 0))
    ∧ (b.lnState f sl = lnQual → b.get .prtLaneFecMode f sl % 2 = 1 → b.get .prtLaneFecReq f sl ≠ 2 →
      st (.laneQualDone f sl false) [.prtLaneTrainFail, .prtLaneFecMode] lnDetect (fun u => sent s u []
        ∧ u.box.bit .prtLaneTrainFail lnQual f sl = true ∧ u.box.get .prtLaneFecMode f sl = 2))
    ∧ (b.lnState f sl = lnUp → b.get .prtLaneFecMode f sl % 2 = 1 →
      st (.macMergeVerify f sl) [] lnUp (fun u => sent s u [] ∧ u.box.regs = b.regs ∧ (u.box.lane f sl).merge = true))
    ∧ (b.lnState f sl ∈ [lnDetect, lnEq, lnCap] → (b.lane f sl).fails < 2 →
      st (.laneStateTimeout f sl) [.prtLaneTrainFail] lnDetect (fun u => sent s u []
        ∧ u.box.bit .prtLaneTrainFail (b.lnState f sl) f sl = true
        ∧ (u.box.lane f sl).fails = (b.lane f sl).fails + 1 ∧ (u.box.lane f sl).retryWait = true))
    ∧ (b.lnState f sl ∈ [lnDetect, lnEq, lnCap] → (b.lane f sl).fails = 2 →
      nextWith (exec (.laneStateTimeout f sl) s) (fun u => sameMem s u ∧ u.box.lnState f sl = lnFault
        ∧ u.box.bit .prtLaneTrainFail (b.lnState f sl) f sl = true))
    ∧ ((b.lane f sl).retryWait = true → nextWith (exec (.laneRetryTimer f sl) s) (fun u => sameMem s u
      ∧ sent s u [.train f sl] ∧ u.box.regs = b.regs ∧ u.box.lane f sl = { b.lane f sl with retryWait := false })))

/-- R96, R111, R114, R117, R119, R247, R590, R683: light lost and found, RIP and DRAIN sets acted on, and the end of an
exclusion; none of them touches memory. -/
def Obligations.LaneLightAndSets : Prop :=
  ∀ (s : State) (f : Fibre) (sl dark : Slot) (index : BitVec 4) (arg : BitVec 16), s.ok →
    let b := s.box
    (b.lnState f sl = lnUp → sl.val < 8 → (b.lane f sl).drained = false → b.ripRecent f sl = false →
      (b.lane f sl).holdDark = false →
      nextWith (exec (.lossOfLight f sl) s) (fun u => sameMem s u ∧ u.box.get .prtLaneLol f sl = 1
        ∧ u.box.lnState f sl = lnDark ∧ (u.box.lane f sl).relight = true ∧ sameElse s u .prtLaneState f sl 0))
    ∧ (b.lnState f sl = lnDark → (b.lane f sl).relight = true → (b.lane f sl).holdDark = false → b.laneMay f sl = true →
      nextWith (exec (.lightReturn f sl) s) (fun u => sameMem s u ∧ u.box.lnState f sl = lnDetect
        ∧ sent s u [.train f sl, .light f sl true] ∧ sameRegs s u [.prtLaneState, .lckRingState]))
    ∧ (b.opt.spareTx.find (2 * f) = none → b.opt.spareTx.find (2 * f + 1) = none → b.opt.spareRx.find (2 * f) = none →
      b.opt.spareRx.find (2 * f + 1) = none →
      nextWith (exec (.rip f sl index arg) s) (fun u => sameMem s u ∧ u.box.get .prtLaneRipSeen f sl = 1
        ∧ u.box.get .prtLaneOsRx f sl = (32 + index.toNat) * 65536 + arg.toNat
        ∧ (u.box.lane f sl).rip = index.toNat ∧ (u.box.lane f sl).ripNs = some b.ns ∧ u.box.out = b.out
        ∧ laneOf f (b.slotColour f sl) ∈ u.box.pac.forced ∧ sameRegs s u [.prtLaneRipSeen, .prtLaneOsRx]))
    ∧ (1 ≤ (b.lane f sl).rip → (b.lane f sl).rip ≤ 4 → b.laneUp f sl = true → b.get .prtLaneRplEn f sl = 1 →
      nextWith (exec (.ripExclusionEnd f sl) s) (fun u => sameMem s u ∧ (u.box.lane f sl).rip = 0
        ∧ sent s u [.nak f sl (b.retry.at (phys f sl) {}).rxExp] ∧ sameRegs s u [.prtLaneRplNakTx]))
    ∧ (b.laneIdle f dark = false → nextWith (exec (.drain f sl dark arg) s) (fun u => sameMem s u
        ∧ u.box.lnState f dark = lnDraining ∧ (u.box.lane f dark).drained = true ∧ u.box.out = b.out
        ∧ u.box.get .prtLaneOsRx f sl = (128 + dark.val) * 65536 + arg.toNat
        ∧ sameRegs s u [.prtLaneState, .prtLaneOsRx] ∧ sameElse s u .prtLaneState f dark 0))

/-! ### Light -/

/-- R126, R127, R131 to R134, R149: the lock loop of one ring, losing and finding lock, a refitted coefficient, and the
end of a calibration sweep, whose values are placed to take effect at a lap. -/
def Obligations.RingLock : Prop :=
  ∀ (s : State) (f : Fibre) (j : Ring) (sl : Slot) (h : Half) (r : Fin 64) (bin : Fin 16) (err oma : BitVec 8)
    (want coeff : BitVec 16) (detune : BitVec 10) (tm tg : BitVec 12) (sp : Spare), s.ok →
    let b := s.box
    let st := b.get .lckRingState f j
    let lap := b.dueLap
    let ring (i : Instr) (dst : Nat) : Prop := exec i s = .next (s.withBox (b.put .lckRingState dst f j))
    (st = rgLocked → want.toNat ≤ b.get .grdEnvRingMw * 100 → want.toNat ≤ b.get .lckRingHeat f j →
      nextWith (exec (.lockLoopSample f j err want) s) (fun u => sameMem s u ∧ u.box.out = b.out
        ∧ u.box.get .lckRingErrPm f j = err.toNat ∧ u.box.get .lckRingHeat f j = want.toNat
        ∧ u.box.get .lckHrMin ≤ b.get .lckHrMin ∧ sameRegs s u [.lckRingErrPm, .lckRingHeat, .lckHrMin]
        ∧ sameElse s u .lckRingErrPm f j 0 ∧ sameElse s u .lckRingHeat f j 0))
    ∧ (st = rgLocked → ring (.ringUnlocked f j) rgUnlocked)
    ∧ (st ∈ [rgSweep, rgHold, rgUnlocked] → ring (.ringRelocked f j) rgLocked)
    ∧ (st = rgUnlocked → j.val < 10 → calm b → nextWith (exec (.ringRelockTimeout f j) s) (fun u => sameMem s u
      ∧ u.box.get .lckRingState f j = rgFault ∧ u.box.lnState f j = lnFault
      ∧ recorded s u (ringHalf j) .lckRingState (30 * f + j) sevError 0 0
      ∧ sameRegs s u ([.lckRingState, .lckUnlockCnt, .prtLaneState] ++ raiseRegs)))
    ∧ (b.optRuns h = true → nextWith (exec (.ffRefit h r bin coeff) s) (fun u => sameMem s u ∧ u.box.regs = b.regs
      ∧ u.box.tim.shadow = b.tim.shadow ++ [(⟨.lckFf, h, r, bin⟩, coeff.toNat, lap)]))
    ∧ (b.opt.cal.find (f / 16) = some (f.val, sl.val, .sweeping) → b.getS .optSpareOmaDbm ≤ toSigned 8 oma.toNat →
      b.opt.spareTx.find (spareKey f sl) = some { sp with w := sl, phase := .active } →
      nextWith (exec (.calStepDone f sl detune tm tg oma) s) (fun u => sameMem s u
        ∧ u.box.tim.shadow = b.tim.shadow ++ [(⟨.lckRingTlock, f, 10 + sl, 0⟩, tm.toNat, lap),
            (⟨.lckRingTlock, f, 20 + sl, 0⟩, tg.toNat, lap), (⟨.lckRingDetune, f, 10 + sl, 0⟩, detune.toNat, lap)]
        ∧ u.box.get .lckRingState f (10 + sl) = rgLocked ∧ u.box.get .lckRingState f (20 + sl) = rgLocked
        ∧ u.box.opt.cal.find (f / 16) = some (f.val, sl.val, .returning) ∧ u.box.opt.calAt.find (phys f sl) = some b.ns
        ∧ u.box.opt.spareTx.find (spareKey f sl) = some { sp with w := sl, phase := .retPrep }
        ∧ sent s u [.os f (aliasSlot sl) (48 + sl) [aliasSlot sl], .train f sl]))

/-- R144, R147, R148, R514: what starts a spare: a low transmit OMA, a driver fault, or a calibration that is due, while
OPT of the half runs. A free laser is tuned, the alias slot trains, and SPARE_PREP is sent. R97, R108 to R110: the
exchange that moves a colour to an alias slot. PREP is answered by READY, or by NAK with cause 2 where the ring cannot
be tuned; READY arms the switch nine laps ahead and sends GO; GO and RETURN arm the receive switch for the lap they
name, or are answered by NAK with cause 3 when it is less than two laps ahead; NAK leaves a colour that has switched
where it is. -/
def Obligations.SpareColours : Prop :=
  (∀ (s : State) (f : Fibre) (sl : Slot) (j x : Nat), s.ok →
    let b := s.box
    let key := spareKey f sl
    let starts (i : Instr) (why : SpareWhy) : Prop := nextWith (exec i s) (fun u => sameMem s u
      ∧ u.box.opt.spareTx.find key = some ⟨sl, .prep, why, j⟩ ∧ u.box.get .optTuneLaserCh (f / 16) j = sl + 8
      ∧ u.box.lnState f (aliasSlot sl) = lnDetect
      ∧ sent s u [.os f x (48 + sl) [aliasSlot sl], .train f (aliasSlot sl), .light f (aliasSlot sl) true]
      ∧ (why = .calibration → u.box.opt.cal.find (f / 16) = some (f.val, sl.val, .sparing)))
    sl.val < 8 → b.optRuns (halfOf sl) = true → b.bypassOut f sl = false → b.opt.spareTx.find key = none →
    b.freeLaser (f / 16) (sl % 2) = some j → b.anyUp f = some x →
    starts (.omaLow f sl) .fault ∧ starts (.laneDriverFault f sl) .fault
    ∧ (b.get .optCtrlAutoCal = 1 → b.opt.cal.find (f / 16) = none → starts (.calibrationDue f sl) .calibration))
  ∧
  (∀ (s : State) (f : Fibre) (sl : Slot) (w : Colour) (a : BitVec 16) (sp : Spare) (b' : Box), s.ok →
    let b := s.box
    let key := spareKey f w
    let al := aliasSlot w
    let lap := b.namedLap a.toNat
    (a.toNat = al → b.bypassIn f w = false → b.opt.spareRx.find key = none →
      nextWith (exec (.sparePrep f sl w a true) s) (fun u => sameMem s u ∧ sent s u [.os f sl (64 + w) [al]]
        ∧ u.box.opt.spareRx.find key = some ⟨w, .ready, .fault, 0⟩ ∧ sameRegs s u [.prtLaneOsRx])
      ∧ nextWith (exec (.sparePrep f sl w a false) s) (fun u => sameMem s u ∧ sent s u [.os f sl (80 + w) [2]]
        ∧ u.box.opt = b.opt ∧ sameRegs s u [.prtLaneOsRx]))
    ∧ (b.opt.spareTx.find key = some ⟨w, .prep, sp.why, sp.laser⟩ →
      (b.osRx f sl 4 w a.toNat).calArm (b.lap + 9) 3 (phys f al) = some b' →
      exec (.spareReady f sl w a) s = .next (s.withBox ((b'.setTx key ⟨w, .go (b.lap + 9), sp.why, sp.laser⟩).os f sl 6 w
        ((b.lap + 9) % 65536))))
    ∧ (b.opt.spareTx.find key = some ⟨w, .retReady, sp.why, sp.laser⟩ →
      nextWith (exec (.spareNak f sl w a) s) (fun u => sameMem s u ∧ u.box.out = b.out
        ∧ u.box.opt.spareTx.find key = some ⟨w, .active, sp.why, sp.laser⟩
        ∧ u.box.get .prtLaneOsRx f sl = (80 + w.val) * 65536 + a.toNat))
    ∧ (b.lap + 2 ≤ lap → b.opt.spareRx.find key = some ⟨w, .ready, sp.why, sp.laser⟩ →
      nextWith (exec (.spareGo f sl w a) s) (fun u => sameMem s u ∧ u.box.out = b.out ∧ sameRegs s u [.prtLaneOsRx]
        ∧ u.box.opt.spareRx.find key = some ⟨w, .go lap, sp.why, sp.laser⟩))
    ∧ (b.lap + 2 ≤ lap → b.opt.spareRx.find key = some ⟨w, .retReady, sp.why, sp.laser⟩ →
      nextWith (exec (.spareReturn f sl w a) s) (fun u => sameMem s u ∧ u.box.out = b.out ∧ sameRegs s u [.prtLaneOsRx]
        ∧ u.box.opt.spareRx.find key = some ⟨w, .ret lap, sp.why, sp.laser⟩))
    ∧ (lap < b.lap + 2 → nextWith (exec (.spareGo f sl w a) s) (fun u => sameMem s u ∧ u.box.opt = b.opt
        ∧ sent s u [.os f sl (80 + w) [3]])
      ∧ nextWith (exec (.spareReturn f sl w a) s) (fun u => sameMem s u ∧ u.box.opt = b.opt
        ∧ sent s u [.os f sl (80 + w) [3]])))

/-- R135 to R138, R140, R671: the switch of a group to a bench comb and its end, and what fading comb lines start: a
NOTICE, a switch planned 64 laps ahead or at the next lap, or the switch at once. R136, R139, R669 to R671: cartridges
come, warm and go, and a tunable laser that fails gives its colour to the other laser of its parity. -/
def Obligations.CombsAndCartridges : Prop :=
  (∀ (s : State) (src : Src) (g : Group) (bay : BitVec 4) (c : Fin 10) (w : Colour) (pwr : BitVec 16) (worst : List (Fin 16))
    (old n : Nat), s.ok →
    let b := s.box
    let v := bay.toNat
    let sel := b.get .optSelSrc g
    (writer b src → v = g ∨ v = 8 ∨ v = 9 → b.bay v = bayHot → b.fedBy v = none →
      nextWith (exec (.benchSwitch src g bay) s) (fun u => sameMem s u ∧ sent s u [.answer src.toNat 0 0]
        ∧ u.box.get .optSelSrc g = v ∧ u.box.opt.bench.find g = some (sel, false) ∧ sameRegs s u [.optSelSrc]
        ∧ sameElse s u .optSelSrc g 0 0))
    ∧ (writer b src → b.bay v ≠ bayHot → turnedAway s src (exec (.benchSwitch src g bay) s) 1)
    ∧ (b.opt.bench.find g = some (old, false) → sel < 10 →
      nextWith (exec (.selectorMove g) s) (fun u => sameMem s u ∧ u.box.out = b.out
        ∧ u.box.opt.bench.find g = some (old, true) ∧ u.box.bay sel = bayActive
        ∧ (∀ k < 8, 8 * sel + k ∉ b.opt.refs → u.box.get .optCombLineRef sel k = b.get .optCombLinePwr sel k % 2 ^ 16)
        ∧ (∀ k < 8, 8 * sel + k ∈ b.opt.refs → u.box.get .optCombLineRef sel k = b.get .optCombLineRef sel k)
        ∧ sameRegs s u [.optCombState, .optCombLineRef]))
    ∧ (b.opt.bench.find g = some (old, true) → old < 10 → b.bay old = bayActive → b.fedBy old = none →
      nextWith (exec (.benchHoldExpire g) s) (fun u => sameMem s u ∧ u.box.out = b.out
        ∧ u.box.opt.bench.find g = none ∧ u.box.bay old
          = (if (upTo 8).any (fun k => b.faded old k (b.get .optFadePlanDb)) then bayFaded else bayHot)
        ∧ sameRegs s u [.optCombState]))
    ∧ (b.optRuns 0 = true → calm b → nextWith (exec (.fadeWarn c w pwr) s) (fun u => sameMem s u
      ∧ u.box.get .optCombLinePwr c w = pwr.toNat ∧ recorded s u 0 .optCombLinePwr (8 * c + w) sevNotice 0 0
      ∧ sameRegs s u (.optCombLinePwr :: raiseRegs)))
    ∧ (b.optRuns 0 = true → b.get .optCtrlAutoBench = 1 → b.fedBy c = some g → (b.hotFor g).isSome = true →
      b.opt.plan.find g = none → nextWith (exec (.fadePlan c w pwr) s) (fun u => sameMem s u
        ∧ u.box.get .optCombLinePwr c w = pwr.toNat ∧ u.box.opt.plan.find g = some (b.lap + 64)))
    ∧ (b.optRuns 0 = true → b.fedBy c = some g → (b.hotFor g).isSome = true →
      nextWith (exec (.fadeCrit c w pwr worst) s) (fun u => sameMem s u ∧ u.box.get .optCombLinePwr c w = pwr.toNat
        ∧ u.box.opt.plan.find g = some (b.lap + 1) ∧ u.box.out = b.out))
    ∧ (b.optRuns 0 = true → b.fedBy c = some g → b.hotFor g = some n → b.opt.bench.find g = none →
      nextWith (exec (.fadeLoss c w pwr) s) (fun u => sameMem s u ∧ u.box.get .optCombLinePwr c w = pwr.toNat
        ∧ u.box.get .optSelSrc g = n ∧ u.box.opt.bench.find g = some (sel, false) ∧ u.box.out = b.out
        ∧ sameRegs s u [.optCombLinePwr, .optSelSrc])))
  ∧
  (∀ (s : State) (n : Fin 18) (c : Fin 10) (g : Group) (j : Fin 4) (f o : Nat) (sp : Spare) (id : BitVec 64)
    (pwr : BitVec 16) (pwrs : List (BitVec 16)), s.ok →
    let b := s.box
    let kind := decide (n.val < 10)
    (Config.kindIsComb (id.toNat / 2 ^ 56) = kind → nextWith (exec (.cartridgeInsert n id true) s) (fun u => sameMem s u
      ∧ u.box.out = b.out ∧ u.box.bay n = bayCold ∧ u.box.bit .optBayPres n = true ∧ u.box.get .optBayId n = id.toNat
      ∧ sameRegs s u [.optBayPres, .optBayId, .optCombState]))
    ∧ (calm b → nextWith (exec (.cartridgeInsert n id false) s) (fun u => sameMem s u ∧ u.box.bay n = bayFault
      ∧ u.box.bit .optBayPres n = true ∧ u.box.bit .optBayWrong n = true ∧ recorded s u 0 .optBayWrong n sevError 0 0))
    ∧ (b.bit .optBayPres n = true → b.bay n = bayCold → b.warming = [] →
      nextWith (exec (.cartridgeWarmStart n) s) (fun u => sameMem s u ∧ u.box.bay n = bayWarming ∧ u.box.out = b.out
        ∧ sameRegs s u [.optCombState]))
    ∧ (b.bay c = bayWarming → nextWith (exec (.combWarmed c true pwrs) s) (fun u => sameMem s u ∧ u.box.out = b.out
      ∧ u.box.bay c = (if b.fedBy c = none then bayHot else bayActive)
      ∧ ∀ w < 8, u.box.get .optCombLinePwr c w = (pwrs.getD w 0).toNat))
    ∧ (b.bay (10 + g) = bayWarming → nextWith (exec (.tunableWarmed g) s) (fun u => sameMem s u ∧ u.box.out = b.out
      ∧ u.box.bay (10 + g) = bayActive))
    ∧ (n.val < 10 → b.bay n = bayHot → nextWith (exec (.cartridgeRemove n) s) (fun u => sameMem s u ∧ u.box.out = b.out
      ∧ u.box.bay n = bayAbsent ∧ u.box.bit .optBayPres n = false ∧ u.box.get .optBayId n = 0
      ∧ sameRegs s u [.optBayPres, .optBayId, .optCombState]))
    ∧ (b.optRuns (j / 2) = true → b.laserFibre g j = some f → b.opt.spareTx.find (2 * f + j / 2) = some sp → sp.w < 8 →
      o = (if j.val % 2 = 0 then j.val + 1 else j.val - 1) → b.get .optTuneLaserCh g o = 15 →
      nextWith (exec (.tunableFade g j pwr) s) (fun u => sameMem s u ∧ u.box.out = b.out
        ∧ u.box.get .optTuneLaserPwr g j = pwr.toNat ∧ u.box.get .optTuneLaserCh g j = 15
        ∧ u.box.get .optTuneLaserCh g o = sp.w + 8
        ∧ u.box.opt.spareTx.find (2 * f + j / 2) = some { sp with laser := o })))

/-- R153, R157: a fibre above its transmit power cap goes dark, and loses bypassed light if it stays above; the lanes that
a bypass circuit will use are drained before it takes effect. -/
def Obligations.FibrePower : Prop :=
  ∀ (s : State) (f : Fibre) (w : Colour) (k : Fin 16) (a : Nat) (hit : Hit), s.ok →
    let b := s.box
    nextWith (exec (.fibrePowerOver f) s) (fun u => sameMem s u ∧ u.box.opt.dark.find f = some false
      ∧ (∀ j, 20 ≤ j → j < 30 → u.box.get .lckRingState f j = rgParked)
      ∧ (∀ x < 10, u.box.lnState f x = lnDark ∨ u.box.lnState f x = lnFault) ∧ u.box.bit .grdEvent 0 = true)
    ∧ (b.opt.dark.find f = some false → b.bypassOut f w = true →
      nextWith (exec (.bypassLightDrop f) s) (fun u => sameMem s u ∧ u.box.opt.dark.find f = some true
        ∧ u.box.get .lckRingState (f / 16 * 16 + (f % 16 + 16 - (w + 1) % 16) % 16) w = rgSweep
        ∧ u.box.bit .grdEvent 0 = true ∧ u.box.lanes = b.lanes))
    ∧ (b.cgState k = cgVoted → (b.tim.cg.at k {}).staged = [.reg a (2 ^ w.val)] → locate a = some hit →
      hit.regs.head? = some .optBypPass → hit.i < 8 → hit.j < 16 → b.bit .optBypPass w hit.i hit.j = false →
      let out := 16 * hit.i + (hit.j + w + 1) % 16
      b.laneIdle out w = false → nextWith (exec (.bypassDrain k) s) (fun u => sameMem s u
        ∧ u.box.lnState out w = lnDraining ∧ sent s u [.os out w (128 + w) [2]] ∧ sameRegs s u [.prtLaneState]
        ∧ sameElse s u .prtLaneState out w 0))

/-! ### Buffers, link retry, egress queues and pipelines -/

/-- R204, R659: a fenced cell is tested, and one that passes is free again with its generation moved on. R216, R218, R237,
R239, R250: at a frame boundary the scheduler sends the head of the only queue that holds frames; the end of a
transmission takes the frame off the lane, and its cell is free; a spilled frame returns to its queue; the congestion
map is exported. -/
def Obligations.CellsAndEgressQueues : Prop :=
  (∀ (s : State) (src : Src) (h : Half) (ptr : BitVec 28) (c : Nat), s.ok →
    let b := s.box
    let old := (b.hb h).cell c
    (writer b src → b.buf.test.find h = none → ptr.toNat = 256 * c → c < cellCount → old.fence = true →
      nextWith (exec (.fenceCmd src h ptr) s) (fun u => sameMem s u ∧ sent s u [.answer src.toNat 0 0]
        ∧ u.box.get .bufFenceCmd h = ptr.toNat ∧ u.box.buf.test.find h = some c ∧ u.box.buf.half = b.buf.half
        ∧ sameRegs s u [.bufFenceCmd]))
    ∧ (writer b src → (b.buf.test.find h).isSome = true → turnedAway s src (exec (.fenceCmd src h ptr) s) 1)
    ∧ (b.buf.test.find h = some c →
      nextWith (exec (.fenceTestDone h true) s) (fun u => sameMem s u ∧ u.box.regs = b.regs ∧ u.box.out = b.out
        ∧ u.box.buf.test.find h = none
        ∧ (u.box.hb h).cell c = ⟨none, old.tag / 8 * 8 + (old.tag + 1) % 8, 0, false, false⟩
        ∧ ∀ c', c' ≠ c → (u.box.hb h).cell c' = (b.hb h).cell c')
      ∧ nextWith (exec (.fenceTestDone h false) s) (fun u => sameMem s u ∧ u.box.regs = b.regs
        ∧ u.box.buf.test.find h = none ∧ (u.box.hb h).cell c = old)))
  ∧
  (∀ (s : State) (l : Lane) (r : Rung) (d : Desc) (t : List Desc) (fr : Held) (x : Sending) (y : Spilled) (b1 b2 : Box)
    (c : CellMeta) (lane : Nat), s.ok →
    let b := s.box
    let f := fibreOf l
    let key := b.ptKey l
    let now := b.pacNow l
    (b.pac.sending.find l = none → b.laneUp f (b.slotOf l) = true → b.retryOn f (b.slotOf l) = false →
      (b.rty f (b.slotOf l)).replay = [] → b.eq l r = d :: t → (∀ r' < 4, r' ≠ r.val → b.eq l r' = []) →
      b.frameOf d = some fr → b.tooOld fr = false → b.paused l r = false → now.permits (lr l r) = true →
      now.permits (lnKey l) = true → now.permits key = true →
      nextWith (exec (.schedulerPick l) s) (fun u => sameMem s u ∧ u.box.eq l r = t
        ∧ (u.box.pac.sending.find l).map (·.desc) = some d
        ∧ u.box.out.head? = some (.frame l r (b.outBytes fr l (b.marks fr (b.ns - d.enq))) none)))
    ∧ (b.pac.sending.find l = some x → x.tagged = false → b.frameOf x.desc = some fr →
      (b.hb x.desc.half).cells.find (x.desc.ptr / 256) = some c → c.next = none → c.refs = 1 → c.fence = false →
      nextWith (exec (.transmitDone l) s) (fun u => sameMem s u ∧ u.box.pac.sending.find l = none
        ∧ u.box.frameOf x.desc = none ∧ ((u.box.hb x.desc.half).cell (x.desc.ptr / 256)).used = false
        ∧ x.desc.ptr / 256 ∈ (u.box.hb x.desc.half).returned ∧ u.box.buf.eq = b.buf.eq))
    ∧ (b.pac.sending.find l = some x → x.tagged = true → nextWith (exec (.transmitDone l) s) (fun u => sameMem s u
      ∧ u.box.pac.sending.find l = none ∧ u.box.buf = b.buf ∧ u.box.regs = b.regs ∧ u.box.out = b.out))
    ∧ (b.paused l 0 = false → b.buf.spill.find l = some [y] → b.egrAdmits l 0 (cellsOf y.frame.bytes.length) = true →
      b.spillGrant (halfOf l) 1 y.frame.bytes.length = some b1 →
      b1.allocFrame (halfOf l) { y.frame with alloc := alSpill, egr := [l] } 1 = some (d, b2) →
      nextWith (exec (.spillReadback l) s) (fun u => sameMem s u ∧ u.box.buf.spill.find l = none
        ∧ u.box.get .bufEqState l = 0 ∧ u.box.eq l 0 = b.eq l 0 ++ [{ d with enq := y.enq }] ∧ u.box.out = b.out))
    ∧ (b.get .pacCmExportLaps ≠ 0 → b.get .pacCmDstIp6 ≠ 0 →
      let h := b.ctlHalf
      let k := beBytes 16 (kfhOf 3 opCtrl 0 (b.get .pacCmLap) 0 (b.get .pacCmDstFeid) 15 0)
      let frame (n : Nat) : List Byte := udp6 0 (b.get .fwdModMac) (b.get .fwdModIp6) (b.get .pacCmDstIp6)
        (b.get .fwdKfhUdp) n (k ++ b.cmPayload)
      let z := frame 0 ++ [0, 0, 0, 0]
      b.decide_ b (8 * h) ⟨z, b.stamp, 3, h, laneSelf, alMgmt, 0, 0, []⟩ { b.parse z with ttl := 255 } 0 = (.lane lane, b1) →
      let (n, b1) := b1.fresh
      let bytes := putAt (frame n) 0 (beBytes 6 (b1.get .fwdPortPeerMac (portOf lane)))
      b1.build h ⟨bytes ++ fcs bytes, b1.stamp, 3, h, laneSelf, alMgmt, 0, 0, []⟩ 1 none = (some d, b2) → b2.ws = [] →
      b2.get .pacCmExportCnt < 2 ^ 32 - 1 → nextWith (exec .cmExport s) (fun u => sameMem s u
        ∧ u.box.get .pacCmExportCnt = b2.get .pacCmExportCnt + 1)))

/-- R230 to R233, R590: link retry at the sender and the ACK timer at the receiver. An ACK with number n ends every
unacknowledged frame from the oldest up to n, and no other; a NAK and the timer replay the frames from a number on, in
order, while fewer than RPL_MAX replays made no progress. -/
def Obligations.LinkRetry : Prop :=
  ∀ (s : State) (f : Fibre) (sl : Slot) (seq : BitVec 12) (e : Nat × Nat × Option Desc) (t : List (Nat × Nat × Option Desc)),
    s.ok →
    let b := s.box
    let x := b.rty f sl
    let n := seq.toNat
    let upTo_ (k : Nat) : Bool := decide ((n + 4096 - k) % 4096 < 2048)
    let from_ (m : Nat) : List Nat := (x.unacked.map (·.1)).filter (fun k => decide ((k + 4096 - m) % 4096 < 2048))
    let replays (u : State) (m : Nat) : Prop := (u.box.rty f sl).replay = from_ m ∧ (u.box.rty f sl).unacked = x.unacked
      ∧ (u.box.rty f sl).txSeq = x.txSeq ∧ u.box.out = b.out ∧ sameRegs s u [.prtLaneRplReplays, .prtLaneRplNakRx]
    nextWith (exec (.replayAck f sl seq) s) (fun u => sameMem s u
      ∧ (u.box.rty f sl).unacked = x.unacked.filter (fun y => !upTo_ y.1) ∧ (u.box.rty f sl).txSeq = x.txSeq
      ∧ (∀ k ∈ (u.box.rty f sl).replay, k ∈ x.replay)
      ∧ (x.unacked.any (fun y => upTo_ y.1) = true → (u.box.rty f sl).replays = 0))
    ∧ (from_ n ≠ [] → x.replays < b.get .prtLaneRplMax f sl →
      nextWith (exec (.replayNak f sl seq) s) (fun u => sameMem s u ∧ replays u n))
    ∧ (x.unacked = e :: t → b.ripHolds f sl = false → x.replays < b.get .prtLaneRplMax f sl →
      nextWith (exec (.replayTimeout f sl) s) (fun u => sameMem s u ∧ replays u e.1
        ∧ (u.box.rty f sl).replays = x.replays + 1))
    ∧ (x.unacked = e :: t → b.ripHolds f sl = false → b.get .prtLaneRplMax f sl ≤ x.replays →
      nextWith (exec (.replayTimeout f sl) s) (fun u => sameMem s u ∧ (u.box.rty f sl).unacked = []
        ∧ (u.box.rty f sl).replay = [] ∧ u.box.lnState f sl = lnDetect ∧ (u.box.rty f sl).txSeq = e.1))
    ∧ (x.rxSince ≠ 0 → nextWith (exec (.replayAckTimer f sl) s) (fun u => sameMem s u ∧ u.box.regs = b.regs
      ∧ sent s u [.ack f sl ((x.rxExp + 4095) % 4096)] ∧ u.box.rty f sl = { x with rxSince := 0 }))

/-- R212, R226, R241, R244, R245, R583: pauses of a lane and their watchdog, the fence of a port written clear, and the
smoothed depth and sojourn of every queue that is sampled. R163, R164, R168, R211: a pipeline takes the head of the
admission queue that is next, and gives it to CTL, to a relay inbox, or to the lane that the next-hop set chose; a
frame that its account refused goes to its lane when it is admitted. -/
def Obligations.PausesAndPipelines : Prop :=
  (∀ (s : State) (src : Src) (l : Lane) (r : Fin 8) (g : Rung) (n : Port), s.ok →
    let b := s.box
    let w := b.get .pacEwmaW
    (r.val < 4 → b.striped (portOf l) = false → b.buf.paused.find (lr l r) = none →
      nextWith (exec (.pfcReceived l true r) s) (fun u => sameMem s u ∧ u.box.regs = b.regs ∧ u.box.out = b.out
        ∧ u.box.buf.paused.find (lr l r) = some b.stamp ∧ u.box.buf.eq = b.buf.eq))
    ∧ (r.val < 4 → b.striped (portOf l) = false → (b.buf.paused.find (lr l r)).isSome = true →
      nextWith (exec (.pfcReceived l false r) s) (fun u => sameMem s u ∧ u.box.regs = b.regs
        ∧ u.box.buf.paused.find (lr l r) = none ∧ u.box.buf.eq = b.buf.eq))
    ∧ (4 ≤ r.val → exec (.pfcReceived l true r) s = .next s ∧ exec (.pfcReceived l false r) s = .next s)
    ∧ (g.val ≠ 0 → b.paused l g = true → b.buf.wdAt.find (portOf l) = none → calm b →
      nextWith (exec (.pauseWatchdog l g) s) (fun u => sameMem s u ∧ u.box.paused l g = false
        ∧ u.box.buf.wdAt.find (portOf l) = some b.ns ∧ sameRegs s u (.prtLanePauseWd :: raiseRegs)
        ∧ recorded s u (halfOf l) .prtLanePauseWd (phys (fibreOf l) (b.slotOf l)) sevError 0 g))
    ∧ (writer b src → applied s src (exec (.portFenceClear src n) s) (b.put .marPsFence 0 n))
    ∧ nextWith (exec .queueSample s) (fun u => sameMem s u ∧ u.box.out = b.out ∧ sameRegs s u [.pacQDepthS, .pacQSojS]
      ∧ ∀ k ∈ b.sampled, u.box.pac.smooth.find (2 * k)
          = some (ewma (b.pac.smooth.at (2 * k) (0, 0)) (b.get .bufEqDepth (k / 4) (k % 4)) w)))
  ∧
  (∀ (s : State) (p : Pipeline) (l : Lane) (r : Rung) (d : Desc) (t : List Desc) (fr : Held) (lane : Nat) (b1 b2 : Box), s.ok →
    let b := s.box
    let pre := (b.setAdm l r t).setPipe p (fun x => { x with rr := x.rr.put r l })
    let v := pre.asOf fr.stamp
    let q := v.parse fr.bytes
    (b.nextFrame p = some (r.val, l.val) → b.adm l r = d :: t → b.frameOf d = some fr → q.bad = none →
      v.get .fwdPortLearnNhs (portOf fr.lane) = 0xFFF →
      (pre.precheck v fr q = some .ctl → nextWith (exec (.pipelineDescriptor p 0) s) (fun u => sameMem s u
        ∧ u.box.adm l r = t ∧ Emit.toCtl fr.bytes ∈ u.box.out))
      ∧ (pre.precheck v fr q = some .relay → b.expelledSelf = false →
        nextWith (exec (.pipelineDescriptor p 0) s) (fun u => sameMem s u ∧ u.box.adm l r = t ∧ u.box.out = b.out
          ∧ u.box.rly.inbox.find d.half = some (b.rly.inbox.at d.half [] ++ [d]) ∧ u.box.buf = b.buf))
      ∧ (pre.precheck v fr q = none → fr.lane = laneSelf → pre.decide_ v p fr q 0 = (.lane lane, b1) →
        b1.place d lane = (true, b2) → b2.ws = [] →
        nextWith (exec (.pipelineDescriptor p 0) s) (fun u => sameMem s u ∧ u.box = b2)))
    ∧ (b.fwd.wait.find (lr l r) = some lane → b.adm l r = d :: t → b.place d lane = (true, b1) → b1.buf.copies = [] →
      b1.ws = [] → nextWith (exec (.egressAdmitRetry l r) s) (fun u => sameMem s u ∧ u.box.adm l r = t
        ∧ u.box.fwd.wait.find (lr l r) = none ∧ u.box.buf = b1.buf ∧ u.box.regs = b1.regs)))

/-- R86, R163, R209, R227 to R231: a frame of rung 0 that a lane without link retry receives undamaged is admitted: its bytes
are held under a descriptor at the end of the lane's admission queue; with a wrong FCS it is counted and not admitted.
On a lane with link retry a damaged frame with the number expected is answered by a NAK that names it. -/
def Obligations.LaneReceive : Prop :=
  ∀ (s : State) (f : Fibre) (sl : Slot) (bytes : List Byte) (w cell : Nat) (tail : List Nat) (x : HalfBuf) (r : Fin 4), s.ok →
    let b := s.box
    let l := laneOf f w
    let p := b.parse bytes
    let n := cellsOf bytes.length
    b.laneUp f sl = true → b.rxColour f sl = some w → b.striped (portOf l) = false →
    (b.retryOn f sl = false → b.get .prtMode f = 0 → withFcs bytes = bytes → b.rungOf p = 0 → hopBody p bytes = none →
      p.op ∉ [opSprint, opKeepalive] → b.coreHeld = false → b.bpmHeld (halfOf l) = false → b.ingAdmits l 0 n = true →
      b.admRoom l 0 = true → HalfBuf.takeN n (b.hb (halfOf l)) = some (cell :: tail, x) → cell < cellCount →
      (cell :: tail).Nodup →
      nextWith (exec (.laneFrameReceive f sl bytes none false) s) (fun u => sameMem s u ∧ u.box.out = b.out
        ∧ ∃ ds, u.box.adm l 0 = b.adm l 0 ++ [ds] ∧ (u.box.frameOf ds).map (·.bytes) = some bytes))
    ∧ (b.retryOn f sl = false → withFcs bytes ≠ bytes → b.get .prtLaneRxBad f sl < 2 ^ 32 - 1 →
      exec (.laneFrameReceive f sl bytes none false) s
        = .next (s.withBox (b.put .prtLaneRxBad (b.get .prtLaneRxBad f sl + 1) f sl)))
    ∧ (b.retryOn f sl = true → b.coreHeld = false → (b.rty f sl).rxExp < 4096 → withFcs bytes ≠ bytes →
      nextWith (exec (.laneFrameReceive f sl bytes (some (BitVec.ofNat 24 (linkTag r (b.rty f sl).rxExp))) false) s) (fun u =>
        sameMem s u ∧ sent s u [.nak f sl (b.rty f sl).rxExp] ∧ u.box.rty f sl = { b.rty f sl with rxWait := true }
        ∧ u.box.buf = b.buf ∧ u.box.fwd = b.fwd ∧ sameRegs s u [.prtLaneRplNakTx]))

/-! ### LPDDR6, relay cores and collectives -/

/-- R432 to R434, R439 to R441: transactions of the memory's clients. Whole bursts are written under their tag; a read
whose bursts carry the tag answers the bytes; a burst with another tag is reported and answered by an error; a
transaction that does not fit, or whose half is not READY, is answered by an error and does nothing. R430, R444, R446
to R448: training of a half whose packages all pass makes it READY; the scrub goes on to the next burst; each interval
grants every class at least its minimum of what it asks, and no more than it asks. What capacity a half has is a free
value. -/
def Obligations.MemoryController : Prop :=
  (∀ (s : State) (off : BitVec 39) (len : Fin 4097) (v : List Byte) (tag : BitVec 8) (cls : Fin 6) (k : Nat), s.ok →
    let b := s.box
    let o := off.toNat
    let t := tag.toNat
    let a0 := memAddr o
    (b.memOk o v.length = true → o % 32 = 0 → v.length % 32 = 0 →
      nextWith (exec (.memTransaction off len (some v) tag cls []) s) (fun u => u.pending = s.pending ∧ Memory.wf u.mem
        ∧ (∀ a, Memory.readByte u.mem a
            = if a0 ≤ a ∧ a < a0 + v.length then v.getD (a - a0) 0 else Memory.readByte s.mem a)
        ∧ (∀ n, u.box.memTag n = if o ≤ 32 * n ∧ 32 * n < o + v.length then t else b.memTag n)
        ∧ u.box.regs = b.regs ∧ sent s u [.answer (clientOf cls) 0 0]))
    ∧ (b.memOk o len = true → (∀ n ∈ burstsOf o len, b.memc.bad.contains n = false ∧ b.memTag n = t) →
      exec (.memTransaction off len none tag cls []) s
        = .next (s.withBox (b.emit (.answer (clientOf cls) 0 (leNat (Memory.readBytes s.mem a0 len))))))
    ∧ (b.memOk o len = true → burstsOf o len = [k] → b.memc.bad.contains k = false → b.memTag k ≠ t → cls ≠ 2 → calm b →
      nextWith (exec (.memTransaction off len none tag cls []) s) (fun u => sameMem s u
        ∧ sent s u [.answer (clientOf cls) 2 0] ∧ u.box.memc.tags = b.memc.tags
        ∧ recorded s u (memHalf (32 * k)) .memScTagErr (memHalf (32 * k)) sevError 0
            (32 * k + t * 2 ^ 48 + b.memTag k * 2 ^ 56)))
    ∧ (b.memOk o len = false → exec (.memTransaction off len none tag cls []) s
        = .next (s.withBox (b.emit (.answer (clientOf cls) 1 0)))))
  ∧
  (∀ (s : State) (h : Half) (best : List (Fin 4)) (demand : List (BitVec 32)), s.ok →
    let b := s.box
    let A := b.memc.scrub.at h 0
    let d (k : Nat) : Nat := b.clientCap h k ((demand.getD k 0).toNat)
    (best.length = 4 → (∀ x ∈ best, x.val ≤ 2) → b.memReady (1 - h) = false →
      nextWith (exec (.memTrainingDone h best []) s) (fun u => sameMem s u ∧ u.box.memReady h = true ∧ u.box.out = b.out
        ∧ u.box.get .memRate h = (best.map (·.val)).foldl min (b.get .memRateMax)))
    ∧ (b.memReady h = true → b.memc.bad.contains ((h * halfBytes + A) / 32) = false →
      nextWith (exec (.patrolScrub h []) s) (fun u => sameMem s u ∧ u.box.out = b.out ∧ sameRegs s u [.memScrubPass]
        ∧ u.box.memc.scrub.find h = some ((A + 32) % halfBytes) ∧ u.box.memc.tags = b.memc.tags))
    ∧ nextWith (exec (.bwInterval h demand) s) (fun u => sameMem s u ∧ u.box.out = b.out
      ∧ sameRegs s u [.memBwUsedGbps] ∧ ∀ k < 6, ∃ g, u.box.memc.grants.find (8 * h + k) = some g
        ∧ min (d k) (b.get .memBwMinGbps h k * 1000) ≤ g ∧ g ≤ d k))

/-- R260, R261, R264, R290, R291, R294: the dispatcher gives the head of its inbox to the core that the steering table and
its substitute name; a queue with room takes what was held for it; a frame held too long stops its thread; threads are
restarted and stopped, and instruction words written, by register writes. -/
def Obligations.RelayControl : Prop :=
  ∀ (s : State) (src : Src) (h : Half) (c : RCore) (q : Fin 8) (t : Thr) (slot : Fin 4) (a : Fin 16384) (v : BitVec 32)
    (d : Desc) (ds : List Desc) (fr : Held) (w : Work) (ws : List Work) (n : Nat) (x : HeldSlot), s.ok →
    let b := s.box
    let p := b.parse fr.bytes
    let hdr := kHeader fr.bytes p
    let key := steerKey p (bits hdr 127 96)
    let c' := b.substOf (b.get .rlySteer h (key % 1024))
    let q' := if p.op = opContrib then b.get .colGrpWq p.group else b.get .embTblWq (bits hdr 191 186)
    (b.rly.inbox.find h = some (d :: ds) → b.frameOf d = some fr → b.boundTo c' q' = some n → b.dispatches n = true →
      b.heldFor c' q' = [] → (b.wq c' q').length < 64 → b.waiters c' q' = [] →
      nextWith (exec (.relayDispatch h) s) (fun u => sameMem s u ∧ u.box.out = b.out ∧ u.box.rly.inbox.at h [] = ds
        ∧ u.box.wq c' q' = b.wq c' q' ++ [⟨workImage p d fr q' key, some d⟩] ∧ u.box.buf = b.buf
        ∧ sameRegs s u [.rlyWqDepth]))
    ∧ (b.heldFor c q = w :: ws → b.boundTo c q = some n → b.dispatches n = true → (b.wq c q).length = 63 →
      b.waiters c q = [] → nextWith (exec (.wqRoom c q) s) (fun u => sameMem s u ∧ u.box.out = b.out
        ∧ u.box.wq c q = b.wq c q ++ [w] ∧ u.box.heldFor c q = ws ∧ sameRegs s u [.rlyWqDepth]))
    ∧ ((b.bundleOf t).all (fun y => !y.stopping) = true → (b.thr t).slots.find slot = some x →
      x.ns + b.get .rlyHoldMaxUs * 1000 < b.ns → nextWith (exec (.holdLimit t slot) s) (fun u => sameMem s u
        ∧ u.box.tst t = thStopped ∧ u.box.get .rlyTFault (coreOf t) (thrOf t) = 8 ∧ (u.box.thr t).slots = []))
    ∧ (writer b src → b.tst t = thStopped → nextWith (exec (.threadRestart src t) s) (fun u => sameMem s u
        ∧ u.box.tst t = thReady ∧ u.box.pc t = b.entryOf t % 2 ^ 16 ∧ (u.box.thr t).x = [] ∧ (u.box.thr t).v = []
        ∧ (u.box.thr t).slots = [] ∧ u.box.out.head? = some (.answer src.toNat 0 0)))
    ∧ (writer b src → b.tst t ∈ [thReady, thWait, thIdle] → (b.bundleOf t).all (fun y => !y.stopping) = true →
      nextWith (exec (.threadStop src t) s) (fun u => sameMem s u ∧ u.box.tst t = thStopped
        ∧ u.box.get .rlyTFault (coreOf t) (thrOf t) = 0 ∧ (u.box.thr t).slots = []
        ∧ u.box.out.head? = some (.answer src.toNat 0 0)))
    ∧ (writer b src → b.wordOwner c a = none →
      applied s src (exec (.istoreWrite src c a v) s) (b.put .rlyIstore v.toNat c a))
    ∧ (writer b src → b.wordOwner c a = some n → (b.bundleThreads n c).any (fun y => b.tst y != thFree) = true →
      turnedAway s src (exec (.istoreWrite src c a v) s) 1)

/-- R341 to R347, R353: a contribution that every check admits and whose tree node has no partner yet opens its sequence
and is held as a baton in its group's quota of the core's die. R30, R355, R357, R358, R361, R362, R365: a baton goes
to the home half, or comes back from spill; a sequence that times out is aborted and its space is free; a mirrored
step that agrees is no longer kept, and a third core's agreement with the first quarantines the mirror core. -/
def Obligations.CollectivePath : Prop :=
  (∀ (s : State) (c : RCore) (q : Fin 8) (w : Work) (d : Desc) (fr : Held) (b1 : Box), s.ok →
    let b := s.box
    let p := b1.parse fr.bytes
    let n := p.group
    let j := p.seq % 8
    let h := chdr (kHeader fr.bytes p)
    let off := (p.kfh.getD 0) + 40
    let len := payLen (b1.grp n).pairs h.fmt h.nelem h.mxs
    let pay := ((fr.bytes.take (endOf fr.bytes)).drop off).take len
    let v := b1.asOf fr.stamp
    let bytes := (b1.grp n).batonBytes h.nelem
    let node := h.base / 2 ^ h.log
    b.col.sends = [] → b.takeWork c q [opContrib] = some (w, b1) → w.desc = some d → b1.frameOf d = some fr →
    lenFits fr.bytes off len = true → off ≤ endOf fr.bytes → h.stat = 0 → v.bit .colGrpCtrl 0 n = true →
    v.get .colGrpKind n ≠ 15 → h.check = checkOf p.k (kHeader fr.bytes p) pay →
    (v.groupPorts n).contains (portOf fr.lane) = true → h.gen = v.get .colGrpGen n →
    v.get .colGrpGen n = b1.get .colGrpGen n → b1.windowDrop n p.seq = none →
    b1.contribCheck n j p fr.bytes h pay = none → b1.slotState n j = slFree → b1.get .colGrpKind n ≠ 2 →
    b1.slot n j = {} → node % 2 = 1 →
    b.col.quota.at (4 * n + dieOf c) 0 + bytes ≤ b1.get .colGrpQuotaKib n * 1024 →
    nextWith (exec (.contributionAdmission c q 0) s) (fun u => sameMem s u ∧ u.box.slotState n j = slOpen
      ∧ u.box.get .colGrpSlotSeq n j = p.seq % 2 ^ 32 ∧ (u.box.slot n j).seq = p.seq
      ∧ (u.box.chunk n j p.chunk).map (·.batons) = some [⟨node, h.log,
          contribElems (b1.grp n) h.fmt h.nelem h.mxs pay, h.addsum, c, halfOfCore c, 0, dieOf c, bytes⟩]
      ∧ u.box.col.quota.at (4 * n + dieOf c) 0 = b.col.quota.at (4 * n + dieOf c) 0 + bytes))
  ∧
  (∀ (s : State) (n : Fin 16384) (j : Fin 8) (chunk : BitVec 16) (h : Half) (x : Baton) (c : ChunkSt) (pl wh : Nat) (b1 : Box)
    (m : Mirror), s.ok →
    let b := s.box
    let ch := chunk.toNat
    let home := b.homeHalf ch
    let base := b.get .colGrpBase n
    (b.slotState n j = slOpen → h.val ≠ home → b.chunk n j ch = some c → c.batons = [x] → x.half = h → x.place ≠ 2 →
      x.b % 2 = 1 → (b.dropBaton n j ch x).batonRoom n (b.chunkCore n ch home) x.bytes = some (pl, wh, b1) →
      nextWith (exec (.batonForward n j chunk h) s) (fun u => sameMem s u ∧ u.box.slotState n j = slOpen
        ∧ (u.box.chunk n j ch).map (·.batons) = some [{ x with half := home, place := pl, where_ := wh }]))
    ∧ (b.slotState n j = slOpen → b.chunk n j ch = some c → c.batons = [x] → x.half ≠ home → x.place = 2 →
      x.l = logP (b.get .colGrpRanks n) → b.batonMove x.half 1 x.bytes = some b1 →
      nextWith (exec (.batonReadback n j chunk false) s) (fun u => sameMem s u ∧ u.box.slotState n j = slOpen
        ∧ (u.box.chunk n j ch).map (·.batons) = some [{ x with place := 3 }]))
    ∧ (b.slotState n j = slOpen → base % 8 ≠ j → b.slotState n (base % 8) = slOpen →
      nextWith (exec (.sequenceTimeout n j) s) (fun u => sameMem s u ∧ u.box.slotState n j = slAborted
        ∧ (∀ e ∈ (u.box.slot n j).chunks, e.2.batons = []) ∧ u.box.get .colGrpBase n = base
        ∧ ∀ y ∈ u.box.col.mirrors, ¬(y.n = n ∧ y.j = j)))
    ∧ (b.col.mirrors.find? (·.second.isNone) = some m → b.mirrorValue m = m.result →
      nextWith (exec (.mirrorCompare 0) s) (fun u => sameMem s u ∧ u.box.col.mirrors = b.col.mirrors.erase m))
    ∧ (b.col.mirrors.find? (·.second.isSome) = some m → b.mirrorValue m = m.result →
      nextWith (exec (.mirrorTiebreak 0) s) (fun u => sameMem s u ∧ u.box.get .rlyState (b.mirrorOf m.core) = coreQuar
        ∧ u.box.get .colQuarCause (b.mirrorOf m.core) = 1)))

/-- R295, R365 to R367: quarantine of a core by the agent and by CTL with a substitute of its half, release, and heats. -/
def Obligations.CoreQuarantine : Prop :=
  ∀ (s : State) (src : Src) (c d : RCore) (passes : BitVec 32) (fails : BitVec 31), s.ok →
    let b := s.box
    let st := b.get .rlyState c
    (writer b src → b.usable c = true → nextWith (exec (.colQuarantine src c) s) (fun u => sameMem s u
      ∧ u.box.get .rlyState c = coreQuar ∧ u.box.get .colQuarCause c = 3
      ∧ u.box.out.head? = some (.answer src.toNat 0 0)))
    ∧ (halfOfCore d = halfOfCore c → d ≠ c → b.usable d = true → nextWith (exec (.coreQuarantine c d) s) (fun u =>
      sameMem s u ∧ u.box.get .rlyState c = coreQuar ∧ u.box.get .rlySubst c = d))
    ∧ (writer b src → st = coreQuar → applied s src (exec (.colRelease src c) s)
      ((((b.put .colQuarCmd 2 c).put .rlySubst c c).put .colQuarCause 0 c).put .rlyState
        (if b.rly.parked.contains (halfOfCore c) then coreParked else coreRun) c))
    ∧ (writer b src → st = coreHeat → turnedAway s src (exec (.colRelease src c) s) 1)
    ∧ (writer b src → st = coreQuar → 1 ≤ b.get .colHeatProg c → b.get .colHeatProg c ≤ 4 →
      applied s src (exec (.heatStart src c) s) (((b.put .colHeatCmd 1 c).put .rlyState coreHeat c).put .colHeatResult 0 c))
    ∧ (st = coreHeat →
      exec (.heatDone c passes fails) s = .next (s.withBox (((b.put .colHeatResult (passes.toNat + fails.toNat * 2 ^ 32) c).put
        .rlyState coreQuar c).put .colHeatCmd 0 c))
      ∧ exec (.heatTempMiss c) s = .next (s.withBox (((b.put .colHeatResult (2 ^ 63) c).put .rlyState coreQuar c).put
        .colHeatCmd 0 c)))

/-! ### Sprint and embeddings -/

/-- R376, R378 to R381: a sprint contribution that every check admits opens its sequence and is stored in a line of the
home reducer; one that comes over the bridge is stored there too. R383, R386, R392: a sequence that times out is
aborted and recorded; keepalives of a partner are noted, sent, and missed. -/
def Obligations.SprintPath : Prop :=
  (∀ (s : State) (f : Fibre) (sl : Slot) (frame : List Byte) (hf : Half) (w k seq bb lg : Nat) (y : Baton)
    (t : List (Nat × Nat × Nat × Nat)), s.ok →
    let b := s.box
    let p := b.parse frame
    let n := p.group
    let j := p.seq % 4
    let h := shdr (hdrAt frame ((p.kfh.getD 0) + 16) 16)
    let pay := (frame.drop ((p.kfh.getD 0) + 32)).take h.nbytes
    let v := b.asOf (b.rxStamp f sl)
    let size := fmtBits h.fmt / 8
    let node := h.base / 2 ^ h.log
    ((b.sprInq (halfOf sl)).find? (fun e => e.1 == phys f sl && e.2.2 == frame) = none → b.klUp f sl = true →
      p.hasK = true → p.op = opSprint → b.sprRuns (halfOf sl) = true → b.sprRoom (halfOf sl) = true →
      b.rxColour f sl = some w → p.udp = none → n < 256 → v.ownFeid p.feid = true → p.ver = 1 → p.kRung = 1 →
      b.expelledSelf = false → b.sprFails v (laneOf f w) frame p = none → b.get .sprGrpSlotState n j = slFree →
      halfOf (laneOf f w) = b.homeHalf n → node % 2 = 1 → (∀ i < 4, (b.sprSlot n i).batons = []) →
      1 ≤ b.get .sprGrpLines n →
      nextWith (exec (.sprintContrib f sl frame) s) (fun u => sameMem s u ∧ u.box.out = b.out
        ∧ u.box.get .sprGrpSlotState n j = slOpen ∧ u.box.sprSlot n j = ⟨p.seq, h.nbytes / size,
            [⟨node, h.log, b.sprElems n h pay, 0, 0, b.homeHalf n, 0, 0, 0⟩]⟩
        ∧ sameRegs s u [.sprGrpSlotState]))
    ∧ (b.spr.bridge.find hf = some ((k, seq, bb, lg) :: t) → b.get .sprGrpSlotState (k / 4) (k % 4) = slOpen →
      (b.sprSlot (k / 4) (k % 4)).seq = seq → (b.sprSlot (k / 4) (k % 4)).batons = [y] → y.b = bb → y.l = lg → y.place = 1 →
      bb % 2 = 1 → b.sprHeldLines (k / 4) < b.get .sprGrpLines (k / 4) →
      nextWith (exec (.sprintBridgeContrib hf) s) (fun u => sameMem s u ∧ u.box.out = b.out ∧ u.box.regs = b.regs
        ∧ u.box.spr.bridge.at hf [] = t ∧ (u.box.sprSlot (k / 4) (k % 4)).batons
          = [⟨bb, lg, y.elems, 0, 0, b.homeHalf (k / 4), 0, 0, 0⟩])))
  ∧
  (∀ (s : State) (f : Fibre) (sl : Slot) (frame : List Byte) (n : Fin 256) (j : Fin 4) (w : Nat), s.ok →
    let b := s.box
    let p := b.parse frame
    let base := b.get .sprGrpBase n
    (b.sprVote n = false → b.get .sprGrpSlotState n j = slOpen → base % 4 ≠ j →
      b.get .sprGrpSlotState n (base % 4) = slOpen → calm b →
      nextWith (exec (.sprintTimeout n j) s) (fun u => sameMem s u ∧ u.box.get .sprGrpSlotState n j = slAborted
        ∧ (u.box.sprSlot n j).batons = [] ∧ u.box.get .sprGrpBase n = base
        ∧ recorded s u (b.homeHalf n) .sprGrpAborted n sevError 10 ((b.sprSlot n j).seq * 2 ^ 8 + 1)))
    ∧ (b.klUp f sl = true → p.hasK = true → p.op = opKeepalive → b.sprRuns (halfOf sl) = true → p.udp = none →
      p.group < 256 → p.ver = 1 → p.kRung = 3 → p.feid = 2 ^ 32 - 1 →
      let st := bits (hdrAt frame ((p.kfh.getD 0) + 16) 16) 95 88
      exec (.keepalive f sl frame) s
        = .next (s.withBox (b.setLane f sl (fun x => { x with kaNs := some b.ns, kaState := st }))))
    ∧ (b.klUp f sl = true → b.sprRuns (halfOf sl) = true → nextWith (exec (.keepaliveTx f sl) s) (fun u => sameMem s u
        ∧ u.box.regs = b.regs ∧ (u.box.lane f sl).kaSent = (b.lane f sl).kaSent + 1
        ∧ ∃ bytes, sent s u [.keepalive f sl bytes] ∧ withFcs bytes = bytes))
    ∧ (b.klUp f sl = true → (b.lane f sl).kaNs.isSome = true → b.rxColour f sl = some w →
      nextWith (exec (.keepaliveLoss f sl) s) (fun u => sameMem s u ∧ u.box.out = b.out
        ∧ (u.box.lane f sl).kaNs = none ∧ sameRegs s u [.sprLaneKaLost])))

/-- R401, R407 to R410: a gather with rows on both halves waits for the other half's partial; the partial, or the time
that is over, ends it with one response. R411 to R414: an update is applied whole or refused with the first cause that
applies, and its completion waits; the completions of a queue go out in order. -/
def Obligations.GathersAndUpdates : Prop :=
  (∀ (s : State) (c : RCore) (q : Fin 8) (bad : List (BitVec 48)) (w : Work) (d : Desc) (fr : Held) (b1 b2 : Box)
    (l : List (Nat × List Machine.Num)) (seq rfeid : BitVec 32) (g : Gather), s.ok →
    let b := s.box
    let p := b1.parse fr.bytes
    let hn := kHeader fr.bytes p
    let e := ehdr hn
    let off := (p.kfh.getD 0) + 40
    let want := e.nids * (if e.mode = 2 then 12 else 8)
    let pay := ((fr.bytes.take (endOf fr.bytes)).drop off).take want
    let ids := (upTo (min e.nids (pay.length / 8))).map (rowId pay 8)
    let v := b1.asOf fr.stamp
    let x := v.tbl e.table
    let ent (r : Nat) : Nat := (v.embEntry e.table r).getD 0
    let half := halfOfCore c
    let wt (i : Nat) : Option Machine.Num :=
      if e.mode = 2 then some (decodeNum fFp32 (leNat ((pay.drop (8 * e.nids + 4 * i)).take 4))) else none
    let part (h : Nat) : Option (List Nat) :=
      (treeFold vecAdd 9 ((l.filter (·.1 == h)).map (·.2))).map (·.map (fun z => (encodeNum fFp32 .near z).raw))
    (b.emb.sends = [] → b.takeWork c q [opGatherReq] = some (w, b1) → w.desc = some d → b1.frameOf d = some fr →
      lenFits fr.bytes off want = true → off ≤ endOf fr.bytes → e.check = checkOf p.k hn pay → x.valid = true →
      (∀ r ∈ ids, (v.embEntry e.table r).isSome = true ∧ b1.rowLost (ent r) (v.rowHalf e.table r) = false
        ∧ b1.rowUnfilled e.table (ent r) r = false) →
      e.nelem = x.dim → 1 ≤ e.nids → e.nids ≤ 256 → e.mode ≤ 2 → rowFmt e.fmt e.mxs = true →
      dimOk e.fmt e.mxs x.dim = true → b.stamp < fr.stamp + b.get .embGatherToUs * 1000 * 65536 →
      b1.readLeaves s.mem e.table fr.stamp (bad.map (·.toNat)) (ids.zipIdx.map (fun i => (i.2, ent i.1, i.1, wt i.2)))
        = (.ok l, b2) → (part (1 - half)).isSome = true →
      nextWith (exec (.gatherReq c q bad) s) (fun u => u.pending = s.pending ∧ u.box.emb.gathers = b2.emb.gathers
        ++ [⟨half, p.seq, e.rfeid, e.table, e.mode, e.fmt, e.mxs, fr.stamp, e.nids, b1.viewStep e.table fr.stamp,
          part half, part (1 - half)⟩]))
    ∧ (b.emb.sends = [] → b.emb.gathers.find? (fun z => z.seq == seq.toNat && z.rfeid == rfeid.toNat) = some g →
      b.get .embTblGathers g.table < 2 ^ 32 - 1 →
      nextWith (exec (.gatherPartial seq rfeid) s) (fun u => sameMem s u ∧ u.box.emb.gathers = b.emb.gathers.erase g
        ∧ u.box.get .embTblGathers g.table = b.get .embTblGathers g.table + 1)
      ∧ (b.get .embTblGatherErr g.table 6 < 2 ^ 32 - 1 → nextWith (exec (.gatherTimeout seq rfeid) s) (fun u => sameMem s u
        ∧ u.box.emb.gathers = b.emb.gathers.erase g
        ∧ u.box.get .embTblGatherErr g.table 6 = b.get .embTblGatherErr g.table 6 + 1))))
  ∧
  (∀ (s : State) (c : RCore) (q : Fin 8) (w : Work) (d : Desc) (fr : Held) (b1 : Box) (x : EmbDone) (t : List EmbDone), s.ok →
    let b := s.box
    let p := b1.parse fr.bytes
    let hn := kHeader fr.bytes p
    let e := ehdr hn
    let tb := b1.tbl e.table
    let off := (p.kfh.getD 0) + 40
    let body := if e.mode = 0 then tb.dim * fmtBits e.fmt / 8 else tb.rowBytes
    let len := 8 + body
    let want := e.nids * len
    let fits := lenFits fr.bytes off want
    let pay := ((fr.bytes.take (endOf fr.bytes)).drop off).take (if fits then want else endOf fr.bytes)
    let ids := (upTo (min e.nids (pay.length / len))).map (rowId pay len)
    let grad (i : Nat) : List (Option Nat) :=
      (unpackCodes e.fmt tb.dim (leNat ((pay.drop (len * i + 8)).take body))).map
        (fun z => gradInt (b1.get .embTblGfrac e.table) (decodeNum e.fmt z))
    let cause := b1.updCause e p.seq fits len ids (if e.mode = 0 then (upTo ids.length).map grad else [])
    let key := 8 * c.val + q.val
    (b.emb.sends = [] → b.takeWork c q [opScatter] = some (w, b1) → w.desc = some d → b1.frameOf d = some fr →
      off ≤ endOf fr.bytes → e.check = checkOf p.k hn pay →
      nextWith (exec (.scatterUpd c q) s) (fun u => u.pending = s.pending
        ∧ u.box.emb.comps.at key [] = b.emb.comps.at key []
          ++ [⟨halfOfCore c, e.rfeid, p.seq, cause, e.table, if cause = 0 then ids.length else 0, e.step⟩]
        ∧ (cause = 0 → u.box.emb.applied = b.emb.applied ++ [(e.table, e.rfeid, p.seq)])
        ∧ (cause ≠ 0 → u.mem = s.mem ∧ u.box.emb.staged = b.emb.staged ∧ u.box.emb.applied = b.emb.applied)
        ∧ (cause = 6 → u.box.tbState e.table = tbFailed)))
    ∧ (b.emb.sends = [] → b.emb.comps.find key = some (x :: t) →
      nextWith (exec (.scatterCompletion c q) s) (fun u => sameMem s u ∧ u.box.emb.comps.at key [] = t
        ∧ u.box.emb.staged = b.emb.staged)))

/-- R400, R417, R420, R424: the states of a table and of its two banks: closing a step, its optimizer pass, discarding,
folding, draining and freeing a bank; and the fill of a shard entry. -/
def Obligations.TableSteps : Prop :=
  ∀ (s : State) (src : Src) (t : Fin 64) (k : Fin 2) (e : Fin 65536) (h : Half) (bad : List (BitVec 48)), s.ok →
    let b := s.box
    let st := b.tbState t
    let bank := b.get .embTblStep t % 2
    (writer b src → st = tbOpen → nextWith (exec (.tableClose src t) s) (fun u => sameMem s u
      ∧ u.box.tbState t = tbClosing ∧ u.box.emb.closeAt.find t = some b.stamp ∧ sent s u [.answer src.toNat 0 0]
      ∧ (∀ j < 6, u.box.emb.hp.find (8 * t + j) = some (b.get .embTblHp t j)) ∧ sameRegs s u [.embTblCmd, .embTblState]))
    ∧ (writer b src → st ≠ tbOpen → turnedAway s src (exec (.tableClose src t) s) 1)
    ∧ (st = tbClosing → nextWith (exec (.closeDone t bad) s) (fun u => sameMem s u ∧ u.box.tbState t = tbClosed
      ∧ u.box.emb.staged.map (fun x => (x.table, x.bank, x.row)) = b.emb.staged.map (fun x => (x.table, x.bank, x.row))))
    ∧ (writer b src → st = tbFailed → 16 ≤ b.get .embTblCg t → applied s src (exec (.tableDiscard src t) s)
      (((b.put .embTblCmd 2 t).put .embTblState tbDiscarding t).put .embTblBankState bkDiscarding t bank))
    ∧ (writer b src → st ≠ tbFailed → turnedAway s src (exec (.tableDiscard src t) s) 1)
    ∧ (st = tbDiscarding → nextWith (exec (.discardDone t) s) (fun u => u.pending = s.pending ∧ u.box.tbState t = tbOpen
      ∧ u.box.get .embTblStep t = b.get .embTblStep t % 2 ^ 32 ∧ u.box.bkState t bank = bkStaging
      ∧ (∀ x ∈ u.box.emb.staged, ¬(x.table = t ∧ x.bank = bank)) ∧ u.box.out = b.out))
    ∧ (b.bkState t k = bkCommitted → exec (.foldStart t k) s = .next (s.withBox (b.put .embTblBankState bkFolding t k)))
    ∧ (b.bkState t k = bkFolding → nextWith (exec (.foldDone t k) s) (fun u => u.pending = s.pending
      ∧ u.box.bkState t k = bkDraining ∧ u.box.emb.folded.find t = some (b.get .embTblBankStep t k)
      ∧ u.box.emb.staged = b.emb.staged ∧ u.box.out = b.out))
    ∧ (b.bkState t k = bkDraining → st ≠ tbWait → nextWith (exec (.bankFree t k) s) (fun u => sameMem s u
      ∧ u.box.bkState t k = bkFree ∧ (∀ x ∈ u.box.emb.staged, ¬(x.table = t ∧ x.bank = k)) ∧ u.box.tbState t = st))
    ∧ (b.get .embMapCtrl e % 4 = 3 → b.get .embMapFilled e h < b.rowCount e →
      nextWith (exec (.fillDone e h) s) (fun u => u.pending = s.pending ∧ Memory.wf u.mem ∧ u.box.out = b.out
        ∧ u.box.get .embMapFilled e h = b.rowCount e % 2 ^ Reg.embMapFilled.info.width ∧ sameRegs s u [.embMapFilled]))

/-! ### Resets and power -/

/-- R587 to R589, R636, R644, R684: the five resets that a register write starts, where none is in force: each is in force
afterwards with its domain, and discards what its domain holds. A write that a wider reset covers is refused. -/
def Obligations.ResetCommands : Prop :=
  ∀ (s : State) (src : Src) (h : Half) (f : Fibre) (sl : Slot) (r : ResetSt), s.ok →
    let b := s.box
    let begins (i : Instr) (domain : Nat) (p : State → Prop) : Prop := nextWith (exec i s) (fun u =>
      u.pending = s.pending ∧ u.box.mar.resets.map (·.domain) = [domain] ∧ u.box.now = b.now
      ∧ u.box.out.head? = some (.answer src.toNat 0 0) ∧ p u)
    (src.toNat = 0 ∨ src.toNat = 5 ∨ b.isAgent src.toNat = true →
      (b.mar.resets = [] →
        begins (.perLaneReset src f sl) 1 (fun u => u.mem = s.mem ∧ (u.box.lane f sl).inReset = true
          ∧ (sl.val < 8 → u.box.lnState f sl = lnDark ∨ u.box.lnState f sl = lnFault))
        ∧ begins (.relayReset src) 3 (fun u => u.mem = s.mem ∧ u.box.rly.wq = [] ∧ u.box.rly.heldWork = []
          ∧ u.box.emb.gathers = [])
        ∧ begins (.forwardingCoreReset src) 4 (fun u => u.mem = s.mem ∧ (∀ k < 2, (u.box.hb k).frames = [])
          ∧ u.box.pac.pacers = [] ∧ u.box.pac.sending = [])
        ∧ begins (.perHalfReset src h) 5 (fun u => u.box.halfReset h = true ∧ u.box.get .marSelfState = 0
          ∧ (∀ n, 5 * h.val ≤ n → n < 5 * h.val + 5 → u.box.get .fwmCoreState n = 0) ∧ h.val ∈ u.box.start.resume)
        ∧ begins (.warmReset src) 6 (fun u => (∀ a < 2 ^ 25, Memory.readByte u.mem a = 0)
          ∧ u.box.start.done = [1, 2, 8] ∧ u.box.buf = {} ∧ u.box.fwd = {}))
      ∧ (b.mar.resets = [r] → r.domain = 6 ∨ r.domain = 7 →
        turnedAway s src (exec (.perLaneReset src f sl) s) 1 ∧ turnedAway s src (exec (.relayReset src) s) 1
        ∧ turnedAway s src (exec (.forwardingCoreReset src) s) 1 ∧ turnedAway s src (exec (.perHalfReset src h) s) 1
        ∧ turnedAway s src (exec (.warmReset src) s) 1))

/-- R48, R588, R648: a cold reset leaves every register that flash does not hold at its reset value, fabric time and memory
at 0, and flash as it was; the reset pin starts one with cause 6. -/
def Obligations.ColdReset : Prop :=
  ∀ (s : State), s.ok →
    let b := s.box
    let cold (i : Instr) (cause : Nat) : Prop := nextWith (exec i s) (fun u => u.pending = s.pending ∧ u.box.now = 0
      ∧ (∀ a < 2 ^ 48, Memory.readByte u.mem a = 0) ∧ u.box.out = b.out
      ∧ u.box.mar.resets.map (fun r => (r.domain, r.cause)) = [(7, cause)] ∧ u.box.sec.flash = b.sec.flash
      ∧ ∀ r i j k, fromFlash r = false → r ≠ .fwdModMac → r ≠ .fwmStartStep → u.box.get r i j k = r.resetAt i j k)
    b.sec.ops = [] → b.sec.boardNext = none → b.sec.mfrNext = none → cold .coldReset 1 ∧ cold .resetPin 6

/-- R558 to R563: rails that are good, faulty rails, the loss of the input and its flush, and its return. A faulty rail
takes the rails of its half off; input loss sheds and is latched, and its flush leaves flash outside its area as it
was. R566, R569 to R573: a power state request is armed for its lap; region sensors, the thermal loop and the clocks:
a ceiling takes a step of R571 and rises by one step at most; the feedforward-off limit is 1000 MHz; a droop halves
the clock, and recovery restores it. -/
def Obligations.PowerStatesAndRails : Prop :=
  (∀ (s : State) (h : Half) (k : Fin 11) (vs : List (BitVec 16)), s.ok →
    let b := s.box
    let key := railKey h k
    (key ∈ b.pwr.on → nextWith (exec (.railGroupGood h k) s) (fun u => sameMem s u ∧ key ∈ u.box.pwr.good))
    ∧ (key ∉ b.pwr.on → exec (.railGroupGood h k) s = .next s)
    ∧ (k ≠ 0 → k ≠ 9 → b.pwr.forces = [] → b.pwr.requested ≠ 4 →
      nextWith (exec (.railFault h k) s) (fun u => u.pending = s.pending ∧ u.box.bit .pwrRailFault k h = true
        ∧ (∀ x ∈ railsOf h [1, 2, 3, 4, 5, 6, 7, 8, 10], x ∉ u.box.pwr.on) ∧ h.val ∈ u.box.pwr.off
        ∧ u.box.pwr.forces = [⟨3, 3 - h.val⟩]))
    ∧ nextWith (exec .inputLoss s) (fun u => u.pending = s.pending ∧ u.box.get .pwrLoss = 1 ∧ u.box.pwr.shed = true
      ∧ (∀ a, lpddrAddr ≤ a → a < lpddrAddr + 2 ^ 40 → Memory.readByte u.mem a = 0)
      ∧ u.box.get .memState 0 = 0 ∧ u.box.get .memState 1 = 0 ∧ u.box.pwr.armed = none)
    ∧ (b.pwr.shed = true → b.pwr.flushed = false → b.sec.ops = [] →
      nextWith (exec (.powerLossFlush vs) s) (fun u => sameMem s u ∧ u.box.pwr.flushed = true ∧ u.box.regs = b.regs
        ∧ (∀ a, a < crashArea ∨ crashArea + flushBytes ≤ a → u.box.sec.flash.find a = b.sec.flash.find a)
        ∧ (b.flushWaits = true → u.box.sec.flash = b.sec.flash)))
    ∧ (b.sec.ops = [] → nextWith (exec .vaonOff s) (fun u => u.pending = s.pending ∧ u.box.pwr = { vaonOff := true }
      ∧ u.box.start.powered = false ∧ u.box.mar.resets = [] ∧ u.box.sec.flash = b.sec.flash))
    ∧ (b.pwr.vaonOff = true ∨ b.pwr.shed = true → nextWith (exec .inputReturn s) (fun u => u.pending = s.pending
      ∧ u.box.mar.resets.map (fun r => (r.domain, r.cause)) = [(7, 4)] ∧ u.box.pwr.shed = false))
    ∧ (b.pwr.vaonOff = false → b.pwr.shed = false → exec .inputReturn s = .next s))
  ∧
  (∀ (s : State) (src : Src) (v : BitVec 3) (v1 : BitVec 1) (h : Half) (r : Fin 64) (tj : BitVec 12) (d : Fin 4) (b1 : Box),
    s.ok →
    let b := s.box
    let lap := b.get .pwrPsLap
    (writer b src → v.toNat < 2 → b.lap + 3 ≤ lap → b.bit .pwrPsState 3 = false → b.pwr.armed = none →
      b.calArm lap 7 (b.acting 4) = some b1 → applied s src (exec (.psRequest src v) s)
        { b1.put .pwrPsReq v.toNat with pwr := { b1.pwr with armed := some (lap, v.toNat) } })
    ∧ (writer b src → lap < b.lap + 3 → turnedAway s src (exec (.psRequest src v) s) 1)
    ∧ nextWith (exec (.regionSensorSample h r tj) s) (fun u => sameMem s u ∧ u.box.out = b.out
      ∧ u.box.get .pwrRegionTj h r = tj.toNat
      ∧ sameRegs s u [.pwrRegionTj, .pwrRegionRate, .pwrDieThrEvents, .rlyDieClkMhz])
    ∧ nextWith (exec .thermalLoop s) (fun u => sameMem s u ∧ u.box.out = b.out ∧ sameRegs s u [.pwrDieCeilMhz, .rlyDieClkMhz]
      ∧ ∀ x < 4, if b.get .fwmCoreState (4 + 5 * (x / 2)) = 2 then u.box.get .pwrDieCeilMhz x ∈ clkSteps
          ∧ u.box.get .pwrDieCeilMhz x ≤ stepUp (b.get .pwrDieCeilMhz x)
        else u.box.get .pwrDieCeilMhz x = b.get .pwrDieCeilMhz x)
    ∧ nextWith (exec (.throttleStepUp d) s) (fun u => sameMem s u ∧ u.box.out = b.out ∧ sameRegs s u [.rlyDieClkMhz]
      ∧ u.box.pwr.ffLim.at d 2000 ∈ [b.pwr.ffLim.at d 2000, stepUp (b.pwr.ffLim.at d 2000)]
      ∧ u.box.pwr.ramp.at d 2000 ∈ [b.pwr.ramp.at d 2000, stepUp (b.pwr.ramp.at d 2000)])
    ∧ (writer b src → nextWith (exec (.ffEnWrite src v1) s) (fun u => sameMem s u ∧ u.box.get .lckFfEn = v1.toNat
        ∧ sent s u [.answer src.toNat 0 0] ∧ sameRegs s u [.lckFfEn, .rlyDieClkMhz]
        ∧ (v1 = 0 → ∀ x < 4, u.box.pwr.ffLim.at x 2000 = 1000))
      ∧ nextWith (exec (.ffsafeWrite src h v1) s) (fun u => sameMem s u ∧ u.box.get .pwrFfsafe h = v1.toNat
        ∧ sent s u [.answer src.toNat 0 0] ∧ sameRegs s u [.pwrFfsafe, .rlyDieClkMhz]
        ∧ (v1 = 1 → ∀ x, x / 2 = h.val → x < 4 → u.box.pwr.ffLim.at x 2000 = 1000)))
    ∧ nextWith (exec (.railDroop d) s) (fun u => sameMem s u ∧ u.box.out = b.out ∧ d.val ∈ u.box.pwr.halved
      ∧ u.box.get .rlyDieClkMhz d = b.clkLimit d / 2 % 2 ^ 12 ∧ sameRegs s u [.pwrDieDroopCnt, .rlyDieClkMhz]
      ∧ sameElse s u .rlyDieClkMhz d 0 0)
    ∧ (b.pwr.halved.count d.val = 1 → nextWith (exec (.droopRecover d) s) (fun u => sameMem s u ∧ u.box.out = b.out
      ∧ d.val ∉ u.box.pwr.halved ∧ u.box.get .rlyDieClkMhz d = b.clkLimit d % 2 ^ 12 ∧ sameRegs s u [.rlyDieClkMhz])))

/-- R533, R567, R574 to R577: emergency causes, the force of a thermal emergency, and what the guard does when the module
draws too much or a junction is too hot; CTL alone clears the guard's events. -/
def Obligations.EmergenciesAndGuard : Prop :=
  ∀ (s : State) (src : Src) (h : Half) (r : Fin 64) (cause : Fin 8) (w : BitVec 16) (tj : BitVec 12) (ev : BitVec 11), s.ok →
    let b := s.box
    let above : Prop := b.powerOver w.toNat = true
    let calmPs : Prop := b.pwr.forces = [] ∧ b.pwr.requested ≠ 4
    (b.emergHolds h cause ≠ some false → nextWith (exec (.emergencyCauseSet h cause) s) (fun u => sameMem s u
      ∧ u.box.bit .pwrEmergSrc cause h = true))
    ∧ (b.emergHolds h cause ≠ some true → nextWith (exec (.emergencyCauseClear h cause) s) (fun u => sameMem s u
      ∧ u.box.bit .pwrEmergSrc cause h = false))
    ∧ (b.bit .fwmEmerg 1 = true → 16 ≤ b.get .pwrEmergSrc 0 → b.get .pwrDieCeilMhz 0 = 500 → calmPs →
      nextWith (exec .thermalP1Force s) (fun u => u.pending = s.pending ∧ u.box.pwr.forces = [⟨4, 1⟩]
        ∧ (b.pwr.requested = 0 → u.box.get .pwrPsForced = 1 ∧ u.box.get .pwrForceCause = 4)))
    ∧ (above → nextWith (exec (.guardPowerOver w) s) (fun u => sameMem s u ∧ u.box.get .pwrPinW = w.toNat % 2 ^ 13
      ∧ u.box.pwr.guardLim = true ∧ u.box.bit .grdEvent 4 = true ∧ ∀ d < 4, u.box.get .rlyDieClkMhz d ≤ 500))
    ∧ (above → b.pwr.guardLim = true → calmPs →
      nextWith (exec (.guardPowerPark w) s) (fun u => u.pending = s.pending ∧ u.box.pwr.forces = [⟨1, 1⟩]
        ∧ u.box.bit .grdEvent 4 = true)
      ∧ nextWith (exec (.guardPowerP2 w) s) (fun u => u.pending = s.pending ∧ u.box.pwr.forces = [⟨1, 2⟩]
        ∧ u.box.bit .grdEvent 4 = true))
    ∧ (b.get .grdEnvTripC * 16 ≤ tj.toNat → b.pwr.tripped = [] → calmPs →
      nextWith (exec (.junctionTrip h r tj) s) (fun u => u.pending = s.pending ∧ u.box.pwr.tripped = [h.val]
        ∧ h.val ∈ u.box.pwr.off ∧ u.box.bit .grdEvent (5 + h) = true ∧ u.box.pwr.forces = [⟨5, 3 - h.val⟩]
        ∧ ∀ x ∈ railsOf h [2, 3, 4, 5, 6], x ∉ u.box.pwr.on))
    ∧ (b.pwr.tripped.length = 2 → nextWith (exec .tripCooled s) (fun u => u.pending = s.pending
      ∧ u.box.mar.resets.map (fun x => (x.domain, x.cause)) = [(6, 2)] ∧ u.box.pwr.tripped = []))
    ∧ (src.toNat = 0 ∨ src.toNat = 5 → ev.toNat % 2 = 0 → bitAt ev.toNat 4 = false →
      applied s src (exec (.guardEventClear src ev w) s) (b.put .grdEvent (b.get .grdEvent &&& (2047 - ev.toNat))))
    ∧ (writer b src → src.toNat ≠ 0 → src.toNat ≠ 5 → turnedAway s src (exec (.guardEventClear src ev w) s) 1)

/-! ### Die links and mailboxes -/

/-- R453 to R456, R461 to R464: flits, replays, sparing and retirement. The expected flit is acknowledged, a damaged one is
asked for again, a faulty position moves to a spare, a bundle above its error rate or lost starts an agreement. -/
def Obligations.DieLinkFlits : Prop :=
  ∀ (s : State) (h : Half) (x : Colour) (flit : BitVec 768) (seq : BitVec 10) (pos : Fin 51) (n p : Nat) (r : Remap), s.ok →
    let b := s.box
    let f := flit.toNat
    let c := b.bund h x
    let lit : Prop := b.darkHalf 0 = false ∧ b.darkHalf 1 = false
    let bad (k : Nat) : Prop := b.get .ddlRetirePpm * (b.bund k x).winFlits < (b.bund k x).winFails * 1000000
    let crcGood : Prop := crc32c (beBytes 92 (f / 2 ^ 32)) = f % 2 ^ 32
    (b.buLive h x = true → crcGood → bits f 767 764 ≠ 0 → bits f 767 764 ≠ 3 → bits f 761 752 = c.rxExp → c.failed = none →
      nextWith (exec (.flitReceive h x flit []) s) (fun u => sameMem s u ∧ (u.box.bund h x).rxExp = (c.rxExp + 1) % 1024
        ∧ (u.box.bund h x).rxWait = false ∧ (u.box.bund h x).ack = bits f 751 742
        ∧ sent s u [.flitAck h x c.rxExp] ∧ sameRegs s u [.ddlBFlits]))
    ∧ (b.buLive h x = true → ¬crcGood → c.rxWait = false → nextWith (exec (.flitReceive h x flit []) s) (fun u => sameMem s u
        ∧ (u.box.bund h x).rxExp = c.rxExp ∧ (u.box.bund h x).rxWait = true ∧ (u.box.bund h x).failed = some f
        ∧ sent s u [.flitNak h x c.rxExp] ∧ sameRegs s u [.ddlBFlits, .ddlBCrcFail]))
    ∧ (b.buLive h x = true → c.stuck < b.get .ddlRplMax →
      nextWith (exec (.flitNak h x seq) s) (fun u => sameMem s u ∧ (u.box.bund h x).stuck = c.stuck + 1
        ∧ sent s u [.flitReplay h x seq.toNat] ∧ sameRegs s u [.ddlBReplays])
      ∧ nextWith (exec (.flitReplayTimeout h x) s) (fun u => sameMem s u ∧ (u.box.bund h x).stuck = c.stuck + 1
        ∧ sent s u [.flitReplay h x ((c.ack + 1) % 1024)] ∧ sameRegs s u [.ddlBReplays]))
    ∧ (b.get .ddlBState h x = buActive → b.carries h x pos = some n → b.ddl.remaps = [] → b.spareFree h x = some p →
      nextWith (exec (.positionFaulty h x pos true) s) (fun u => sameMem s u ∧ u.box.regs = b.regs
        ∧ u.box.ddl.remaps = [⟨h, x, n, p, b.nextUs⟩]
        ∧ sent s u [.bridge h 3 [4, BitVec.ofNat 8 x, BitVec.ofNat 8 n, BitVec.ofNat 8 p]]))
    ∧ (b.ddl.remaps.find? (fun y => y.b == x.val) = some r → r.half < 2 → r.spare < 51 →
      nextWith (exec (.remap x) s) (fun u => sameMem s u ∧ u.box.ddl.remaps = b.ddl.remaps.erase r
        ∧ ∀ k < 2, u.box.get .ddlBMap k x r.n = r.spare
          ∧ u.box.get .ddlBSpareUsed k x = min 3 (b.get .ddlBSpareUsed r.half x + 1)
          ∧ (2 ≤ b.get .ddlBSpareUsed r.half x → u.box.get .ddlBState k x = buDegraded)))
    ∧ (¬bad 0 → ¬bad 1 → 0 < b.get .ddlRetireWin → nextWith (exec (.bundleRetire x) s) (fun u => sameMem s u
      ∧ u.box.regs = b.regs ∧ u.box.out = b.out ∧ (u.box.bund 0 x).badWin = 0 ∧ ∀ k < 2, (u.box.bund k x).winFlits = 0
        ∧ (u.box.bund k x).winFails = 0))
    ∧ (bad 0 ∨ bad 1 → b.get .ddlRetireWin ≤ (b.bund 0 x).badWin + 1 → b.buLive 0 x = true → lit →
      b.get .ddlWidthState = wsActive → nextWith (exec (.bundleRetire x) s) (fun u => sameMem s u
        ∧ u.box.get .ddlWidthState = wsTraining ∧ (u.box.bund 0 x).leaving = true))
    ∧ (b.buLive 0 x = true → (b.bund 0 x).leaving = false → b.get .ddlWidthState ≠ wsSafe → lit →
      nextWith (exec (.bundleLost h x true) s) (fun u => sameMem s u ∧ u.box.get .ddlWidthState = wsTraining
        ∧ (u.box.bund 0 x).leaving = true
        ∧ sent s u [.bridge (1 - h) 3 ([5, BitVec.ofNat 8 x] ++ beBytes 2 (b.bund (1 - h) x).rxMsg)]
        ∧ (b.liveBundles ≠ [x.val] → ∀ k < 2, ∀ e < 64, u.box.get .ddlKeymap k e ∈ b.liveBundles ∧ u.box.get .ddlKeymap k e ≠ x)))

/-- R463, R465 to R472: an agreement on the width: it starts, each side advertises what trained, south echoes the agreed
mask, north names the instant, and the width takes effect; held messages and bridge messages. -/
def Obligations.WidthAgreement : Prop :=
  ∀ (s : State) (src : Src) (h : Half) (en : BitVec 8) (tr mask : BitVec 408) (crc : BitVec 32) (c16 : BitVec 16) (g : Fin 6)
    (body : List Byte) (m a t : Nat) (hm : HeldMsg) (bm : BridgeMsg) (q : List BridgeMsg), s.ok →
    let b := s.box
    let ws := b.get .ddlWidthState
    let lit : Prop := b.darkHalf 0 = false ∧ b.darkHalf 1 = false
    let anew (u : State) : Prop := sameMem s u ∧ u.box.get .ddlWidthState = wsTraining ∧ u.box.get .ddlConfirmFail = 0
      ∧ u.box.ddl.adv = [] ∧ u.box.ddl.got = [] ∧ u.box.ddl.plan = none ∧ sent s u [.answer src.toNat 0 0]
    let left (x : Nat) : Prop := b.get .ddlBState h x = buRetired ∨ b.bit .ddlBundleEn x = false
      ∨ (h = 0 ∧ (b.bund 0 x).leaving = true)
    let failed (u : State) : Prop := sameMem s u ∧ u.box.get .ddlConfirmFail = b.get .ddlConfirmFail + 1
      ∧ u.box.get .ddlWidthState = wsAdvertise ∧ u.box.ddl.adv = [] ∧ u.box.ddl.got = [] ∧ u.box.out = b.out
    let usable (x : Nat) : Prop := 48 ≤ (usableIn m x).length
    (writer b src → lit →
      nextWith (exec (.renegotiate src) s) (fun u => anew u ∧ ∀ k < 2, ∀ x < 8, u.box.get .ddlBState k x ≠ buRetired)
      ∧ nextWith (exec (.bundleEnWrite src en) s) (fun u => anew u ∧ u.box.get .ddlBundleEn = en.toNat
        ∧ ∀ k < 2, ∀ x < 8, b.get .ddlBState k x = buRetired → u.box.get .ddlBState k x = buRetired))
    ∧ (ws ≤ wsConfirm → lit → b.ddl.got.find h = none → nextWith (exec (.agreement h tr) s) (fun u => sameMem s u
      ∧ u.box.get .ddlWidthState = wsAdvertise ∧ sameRegs s u [.ddlWidthState, .ddlMaskAdv]
      ∧ ∃ v, u.box.ddl.adv.find h = some v ∧ sent s u [.bridge h 3 (1 :: beBytes 51 v)]
        ∧ (∀ k < 7, u.box.get .ddlMaskAdv h k = maskWord v k)
        ∧ ∀ n < 408, bitAt v n = true ↔ bitAt tr.toNat n = true ∧ ¬left (n / 51)))
    ∧ (ws ≤ wsConfirm → b.ddl.adv.find h = none → nextWith (exec (.maskAdvertise h mask) s) (fun u => sameMem s u
      ∧ u.box.regs = b.regs ∧ u.box.out = b.out ∧ u.box.ddl.got.find h = some mask.toNat))
    ∧ (ws ≤ wsConfirm → b.ddl.adv.find h = some a → nextWith (exec (.maskAdvertise h mask) s) (fun u => sameMem s u
      ∧ u.box.get .ddlWidthState = wsConfirm ∧ sameRegs s u [.ddlWidthState]
      ∧ sent s u (if h = 1 then [.bridge 1 3 (2 :: beBytes 4 (maskCrc (a &&& mask.toNat)))] else [])))
    ∧ (ws = wsConfirm → b.ddl.plan = none → b.agreedOf 0 = some m →
      (maskCrc m = crc.toNat → nextWith (exec (.agreementEcho crc) s) (fun u => sameMem s u ∧ u.box.regs = b.regs
        ∧ ∃ i, u.box.ddl.plan = some (i, some m) ∧ b.ns + 2000 ≤ i ∧ sent s u [.bridge 0 3 (3 :: beBytes 8 i)]
          ∧ (b.ddl.fromReset = true → i % 1000 = 0) ∧ (b.ddl.fromReset = false → i % b.lapLen = 0 ∧ b.ns + 4000 ≤ i)))
      ∧ (maskCrc m ≠ crc.toNat → b.get .ddlConfirmFail < 2 → nextWith (exec (.agreementEcho crc) s) failed))
    ∧ (ws = wsConfirm → b.ddl.plan = none →
      (b.get .ddlConfirmFail < 2 → nextWith (exec .confirmTimeout s) failed)
      ∧ (b.get .ddlConfirmFail = 2 → nextWith (exec .confirmTimeout s) (fun u => sameMem s u
        ∧ u.box.get .ddlConfirmFail = 3 ∧ u.box.ddl.plan = some (b.nextUs, none))))
    ∧ (b.ddl.plan = some (t, some m) → b.ddl.held = [] → nextWith (exec .activate s) (fun u => sameMem s u
      ∧ u.box.ddl.plan = none ∧ (∀ k < 7, u.box.get .ddlMaskAgreed k = maskWord m k)
      ∧ (∀ x < 8, usable x ↔ u.box.buLive 0 x = true) ∧ (∀ x < 8, u.box.get .ddlBState 1 x = u.box.get .ddlBState 0 x)
      ∧ u.box.get .ddlHealth = u.box.liveBundles.length
      ∧ u.box.get .ddlWidthState = (if (upTo 8).any (fun x => decide (48 ≤ (usableIn m x).length)) then wsActive else wsNone)))
    ∧ (b.ddl.plan = some (t, none) → b.ddl.held = [] → nextWith (exec .activate s) (fun u => sameMem s u
      ∧ u.box.ddl.plan = none ∧ u.box.get .ddlWidthState = wsSafe ∧ u.box.liveBundles = [0]))
    ∧ (b.ddl.held.find? (fun y => y.half == h.val) = some hm → nextWith (exec (.holdTimeout h) s) (fun u => sameMem s u
      ∧ u.box.ddl.held = b.ddl.held.erase hm
      ∧ (b.get .ddlHoldDrop h < 2 ^ 32 - 1 → u.box.get .ddlHoldDrop h = b.get .ddlHoldDrop h + 1)))
    ∧ (crc16 body = c16.toNat → nextWith (exec (.bridgeMessage h g body c16) s) (fun u => sameMem s u ∧ u.box.regs = b.regs
      ∧ sent s u [.bridgeAck h g] ∧ ∀ y ∈ u.box.ddl.bridge.at (1 - h) [], y ∈ b.ddl.bridge.at (1 - h) []))
    ∧ (crc16 body ≠ c16.toNat → exec (.bridgeMessage h g body c16) s = .next s)
    ∧ (b.ddl.bridge.at h [] = bm :: q →
      (bm.fails < 3 → nextWith (exec (.bridgeResend h) s) (fun u => sameMem s u ∧ sameRegs s u [.ddlBridgeCrc]
        ∧ u.box.ddl.bridge.at h [] = { bm with fails := bm.fails + 1 } :: q ∧ sent s u [.bridge h bm.cls bm.body]))
      ∧ (3 ≤ bm.fails → bm.cls = grpTime → nextWith (exec (.bridgeResend h) s) (fun u => sameMem s u ∧ u.box.out = b.out
        ∧ sameRegs s u (.ddlBridgeCrc :: raiseRegs) ∧ u.box.ddl.bridge.at h [] = q))
      ∧ (3 ≤ bm.fails → bm.cls ≠ grpTime → b.pwr.forces = [] → b.pwr.requested ≠ 4 →
        nextWith (exec (.bridgeResend h) s) (fun u => u.pending = s.pending ∧ u.box.pwr.forces = [⟨0, 2⟩])))

/-- R498 to R504: messages, answers, doorbells and power domains of a mailbox channel. A requester that is no core,
session or agent gets status 4, and a receiver whose domain is down status 3. R503, R505 to R507: one owner at a time
of a channel's lock; the lease of channel 0, its renewal and its ends; a handshake and a session that end. -/
def Obligations.MailboxesAndLease : Prop :=
  (∀ (s : State) (src : Src) (m : Fin 32) (c : MCore) (v : BitVec 64), s.ok →
    let b := s.box
    let n := src.toNat
    let rcv := b.receiver m
    let mayUse : Prop := b.known n = true ∧ b.domainUp m = true
    let mine : Prop := b.locked m = false ∨ b.owns n m = true
    (mayUse → mine → b.get .mbxFull m = 0 → answered s src (exec (.mbxDataWrite src m v) s) 0 0
      (((b.put .mbxData v.toNat m).put .mbxFull 1 m).put .mbxSrcid n m))
    ∧ (mayUse → mine → b.get .mbxFull m = 1 → b.get .mbxKs7 m = 0 →
      answered s src (exec (.mbxDataWrite src m v) s) 1 0 (b.bump .mbxWfull m))
    ∧ (mayUse → ¬mine → answered s src (exec (.mbxDataWrite src m v) s) 1 0 b)
    ∧ (mayUse → answered s src (exec (.mbxDataRead src m) s) 0 (b.get .mbxData m)
      (if n = rcv then b.put .mbxFull 0 m else b))
    ∧ (mayUse → n = rcv → answered s src (exec (.mbxRdataWrite src m v) s) 0 0
      ((b.put .mbxRdata v.toNat m).put .mbxRfull 1 m))
    ∧ (mayUse → answered s src (exec (.mbxRdataRead src m) s) 0 (b.get .mbxRdata m)
      (if n = rcv then b else b.put .mbxRfull 0 m))
    ∧ (b.known n = true → b.domainUp m = false → answered s src (exec (.mbxDataWrite src m v) s) 3 0 b
      ∧ answered s src (exec (.mbxDataRead src m) s) 3 0 b)
    ∧ (b.known n = false → answered s src (exec (.mbxDataWrite src m v) s) 4 0 b
      ∧ answered s src (exec (.mbxDataRead src m) s) 4 0 b ∧ answered s src (exec (.mbxDoorbell src m) s) 4 0 b
      ∧ answered s src (exec (.mbxLockRead src m) s) 4 0 b)
    ∧ (b.known n = true → mine → b.get .mbxReady m = 1 →
      answered s src (exec (.mbxDoorbell src m) s) 0 0 (b.emit (.wakeCore rcv)))
    ∧ (b.known n = true → mine → b.get .mbxReady m = 0 → answered s src (exec (.mbxDoorbell src m) s) 0 0
      (((b.emit (.wakeCore rcv)).put .mbxDoorbell 1 m).emit (.powerUp rcv)))
    ∧ nextWith (exec (.domainReady m) s) (fun u => sameMem s u ∧ u.box.get .mbxReady m = 1 ∧ u.box.get .mbxDoorbell m = 0
      ∧ u.box.domainUp m = true ∧ sameRegs s u [.mbxReady, .mbxDoorbell] ∧ u.box.out = b.out)
    ∧ ((∀ k < 32, b.receiver k = c.val → b.get .mbxFull k ≠ 1 ∧ b.get .mbxDoorbell k ≠ 1) → b.mbx.domains.count c.val ≤ 1 →
      nextWith (exec (.domainPowerDown c) s) (fun u => sameMem s u ∧ c.val ∉ u.box.mbx.domains
        ∧ sameRegs s u [.mbxReady] ∧ ∀ k < 32, b.receiver k = c.val → u.box.get .mbxReady k = 0)))
  ∧
  (∀ (s : State) (src : Src) (m : Fin 32) (v : BitVec 64) (n : BitVec 12) (k : Nat), s.ok →
    let b := s.box
    let i := src.toNat
    let freed (u : State) : Prop := sameMem s u ∧ u.box.get .mbxSessState k = 0 ∧ u.box.get .mbxSessSrcid k = 0
      ∧ u.box.mbx.sess.find k = none
    (b.known i = true → b.locked m = true → answered s src (exec (.mbxLockRead src m) s) 0 (b.get .mbxLock m) b)
    ∧ (b.known i = true → b.locked m = false → m ≠ 0 → nextWith (exec (.mbxLockRead src m) s) (fun u => sameMem s u
      ∧ u.box.owns i m = true ∧ sameRegs s u [.mbxLock] ∧ sent s u [.answer i 0 0]))
    ∧ (b.known i = true → b.locked 0 = false → b.mayLease i = true → nextWith (exec (.mbxLockRead src 0) s) (fun u =>
      sameMem s u ∧ u.box.get .mbxLock 0 = i ∧ u.box.get .mbxLeaseState = 1 ∧ u.box.get .mbxLeaseSrcid = i
        ∧ u.box.isAgent i = true ∧ u.box.leaseAge = 0 ∧ sent s u [.answer i 0 0]))
    ∧ (b.known i = true → b.locked 0 = false → b.mayLease i = false →
      answered s src (exec (.mbxLockRead src 0) s) 0 0xFFFF b)
    ∧ (b.known i = true → b.owns i m = true → m ≠ 0 → b.mbx.lock0.count m.val ≤ 1 →
      nextWith (exec (.mbxLockRelease src m 0) s) (fun u => sameMem s u ∧ u.box.locked m = false
        ∧ sameRegs s u [.mbxLock] ∧ sent s u [.answer i 0 0]))
    ∧ (b.known i = true → b.owns i 0 = true → b.get .mbxLeaseState = 1 →
      nextWith (exec (.mbxLockRelease src 0 0) s) (fun u => sameMem s u ∧ u.box.get .mbxLeaseState = 3
        ∧ u.box.get .mbxLock 0 = 0 ∧ u.box.isAgent i = false ∧ sent s u [.answer i 0 0]))
    ∧ (b.known i = true → b.owns i m = false → answered s src (exec (.mbxLockRelease src m 0) s) 1 0 b)
    ∧ (b.isAgent i = true → nextWith (exec (.leaseRenew src v) s) (fun u => sameMem s u ∧ u.box.get .mbxLease = v.toNat
        ∧ u.box.leaseAge = 0 ∧ sameRegs s u [.mbxLease] ∧ sent s u [.answer i 0 0]))
    ∧ (b.isAgent i = false → answered s src (exec (.leaseRenew src v) s) 4 0 b)
    ∧ (b.get .mbxLeaseState = 1 → b.mar.resets = [] → nextWith (exec .leaseExpire s) (fun u => sameMem s u
      ∧ u.box.get .mbxLeaseState = 2 ∧ u.box.get .mbxLock 0 = 0 ∧ u.box.out = b.out
      ∧ ∀ j, 1 ≤ j → j < 32 → b.get .mbxLock j = b.get .mbxLeaseSrcid → u.box.get .mbxLock j = 0))
    ∧ (b.sessSlot (srcOf n.toNat) = some k → b.get .mbxSessState k = 2 → nextWith (exec (.sessionIdle n) s) (fun u => freed u
        ∧ u.box.isAgent (srcOf n.toNat) = false ∧ ∀ j, 1 ≤ j → j < 32 → u.box.get .mbxLock j ≠ srcOf n.toNat))
    ∧ (b.sessSlot (srcOf n.toNat) = some k → b.get .mbxSessState k = 1 →
      nextWith (exec (.handshakeTimeout n) s) (fun u => freed u ∧ u.box.out = b.out)))

/-- R485 to R487, R489: board announces are sent and learned from; the relay hands frames for the module to CTL, and frames
for a board or a host to their fibre. -/
def Obligations.BoardGroup : Prop :=
  ∀ (s : State) (f : Fibre) (sl : Slot) (plid : BitVec 32) (slot : BitVec 2) (mac : BitVec 48) (fr : List Byte) (l : Nat),
    s.ok →
    let b := s.box
    let linked : Prop := (∀ j < slot.toNat, b.get .mbxBrdLink j ≠ f.val) ∧ b.get .mbxBrdLink slot.toNat = f.val
    let carried : Prop := (b.get .prtMode f = 1 ∨ b.get .prtMode f = 2) ∧ b.halfReset (halfOf sl) = false
      ∧ b.get .pwrPsState % 8 ≠ 4
    (b.get .prtMode f = 2 → (b.relayLane f 0).isSome = true → nextWith (exec (.boardAnnounceTx f) s) (fun u => sameMem s u
      ∧ u.box.regs = b.regs ∧ sent s u [.announce f (b.sec.plid * 2 ^ 96 + 3 * 2 ^ 88 + b.get .mbxBrdSlot * 2 ^ 80
        + b.get .fwdModMac)]))
    ∧ (linked → nextWith (exec (.boardAnnounce f plid slot mac) s) (fun u => sameMem s u
      ∧ u.box.get .mbxBrdMac slot.toNat = mac.toNat ∧ u.box.get .mbxBrdPlid slot.toNat = plid.toNat
      ∧ sameRegs s u [.mbxBrdMac, .mbxBrdPlid] ∧ u.box.out = b.out))
    ∧ (carried → at_ fr 0 6 = b.get .fwdModMac →
      exec (.boardRelay f sl fr) s = .next (s.withBox (b.emit (.toCtl fr))))
    ∧ (carried → b.get .prtMode f = 1 → at_ fr 0 6 = b.get .mbxBrdMac 0 → b.get .mbxBrdMac 0 ≠ 0 →
      b.get .mbxBrdMac 0 ≠ b.get .fwdModMac → b.get .mbxBrdMac 0 / 2 ^ 32 ≠ 0x3333 → b.get .mbxBrdLink 0 ≠ 0xFF →
      b.mbx.relayAt + 10000 ≤ b.ns → fr.length * 8 ≤ b.get .mbxBrdRateMbps * 10 →
      b.relayLane (b.get .mbxBrdLink 0) (halfOf sl) = some l →
      nextWith (exec (.boardRelay f sl fr) s) (fun u => sameMem s u ∧ u.box.regs = b.regs ∧ sent s u [.board l fr]))

/-- R490 to R497: the handshake, requests, single reads and writes, and CLOSE, at a lit north half. -/
def Obligations.OperatorSessions : Prop :=
  ∀ (s : State) (src : Src) (peer : BitVec 128) (body msg : List Byte) (n : BitVec 12) (addr : BitVec 48) (v : BitVec 64)
    (k : Nat) (x : Session) (m : OmpMsg) (pk : List Byte) (ops : List (Nat × Nat × Nat)), s.ok → s.box.ompOn = true →
    let b := s.box
    let key := b.certKey ((body.drop 1216).take 1312) ((body.drop 2528).headD 0) (body.drop 2529)
    let heard (ty st : Nat) : Prop := b.sessSlot (srcOf n.toNat) = some k ∧ b.mbx.sess.find k = some x
      ∧ b.get .mbxSessState k = st ∧ Machine.ompRead ty n.toNat msg = some m ∧ ompTag x.keyIn m.signed = m.tag
    (body.length = helloLen → (upTo 16).find? (fun j => b.get .mbxSessState j == 0) = some k → key = some pk →
      b.mbx.shakes = [] → b.secSigns = true → nextWith (exec (.hello peer body) s) (fun u => sameMem s u
        ∧ u.box.get .mbxSessState k = 1 ∧ u.box.get .mbxSessPeerIp6 k = peer.toNat
        ∧ u.box.get .mbxSessSrcid k = srcOf (b.nextNum 32 b.mbx.lastNum)
        ∧ sameRegs s u [.mbxSessState, .mbxSessSrcid, .mbxSessPeerIp6, .mbxSessRole]
        ∧ ∃ a, sent s u [.omp peer.toNat a] ∧ a.take 2 = [1, 2]))
    ∧ (heard 0x03 1 → m.body.length = 2420 → Config.mldsaVerify x.pk (digest32 x.h) m.body = true →
      nextWith (exec (.prove n msg) s) (fun u => sameMem s u ∧ u.box.get .mbxSessState k = 2
        ∧ sent s u [.omp (b.get .mbxSessPeerIp6 k) (ompTagged x.keyOut 0x04 n.toNat 0 0 [])]
        ∧ sameRegs s u [.mbxSessState, .telPermBlocks, .telPermGrpLo, .telPermGrpHi]))
    ∧ (heard 0x10 2 → m.body = [] → x.kept = [] → x.high < m.seq + 64 → x.accepted.contains m.seq = false →
      x.requests + 1 < 2 ^ 32 → nextWith (exec (.request n msg) s) (fun u => sameMem s u ∧ u.box.regs = b.regs
        ∧ sent s u [.omp (b.get .mbxSessPeerIp6 k) (ompTagged x.keyOut 0x11 n.toNat m.seq 0xFF [])]
        ∧ ∃ y, u.box.mbx.sess.find k = some y ∧ y.high = max x.high m.seq ∧ m.seq ∈ y.accepted))
    ∧ (heard 0x10 2 → ompOps 64 m.body = some ops → x.kept = [] → x.high < m.seq + 64 → x.accepted.contains m.seq = false →
      x.requests + 1 < 2 ^ 32 →
      let b1 : Box := { b with mbx := { b.mbx with sess := b.mbx.sess.put k (x.accept m.seq) } }
      let r := b1.ompRun s.mem (srcOf n.toNat) ops
      r.2.mbx.sess.find k ≠ none → nextWith (exec (.request n msg) s) (fun u => u.pending = s.pending
        ∧ u.box.out.head? = some (.omp (r.2.get .mbxSessPeerIp6 k)
          (ompTagged x.keyOut 0x11 n.toNat m.seq (ompStatus r.1) (ompResults r.1)))))
    ∧ (heard 0x10 2 → m.body = [] → x.kept = [] → m.seq + 64 ≤ x.high ∨ x.accepted.contains m.seq = true →
      nextWith (exec (.request n msg) s) (fun u => sameMem s u ∧ u.box.out = b.out
        ∧ sameElse s u .mbxOmpDrop 2 0 0 ∧ sameRegs s u [.mbxOmpDrop] ∧ u.box.mbx.sess = b.mbx.sess))
    ∧ (b.mayRead src.toNat addr.toNat = false → answered s src (exec (.ompRead src addr) s) 4 0 b)
    ∧ (b.mayRead src.toNat addr.toNat = true → inMem addr.toNat = false → inTables addr.toNat = false →
      Machine.locate addr.toNat = none → answered s src (exec (.ompRead src addr) s) 5 0 b)
    ∧ (exec (.ompRead src addr) s = exec (.registerRead src addr) s)
    ∧ (exec (.ompWrite src addr v) s = exec (.registerWrite src addr v) s)
    ∧ (heard 0x20 2 → nextWith (exec (.ompClose n msg) s) (fun u => sameMem s u ∧ u.box.get .mbxSessState k = 0
      ∧ u.box.mbx.sess.find k = none ∧ u.box.isAgent (srcOf n.toNat) = false))

/-! ### Security, guests and bundles -/

/-- R544 to R546, R548, R549, R551, R552: statements and records that SEC takes: reports, operator keys, the root, floors,
board and manufacture records; one that does not verify changes nothing. -/
def Obligations.SecurityStatements : Prop :=
  ∀ (s : State) (src : Src) (h : Half) (m : Fin 32) (nonce : List Byte) (num id : BitVec 64) (purpose : BitVec 8)
    (plid floor : BitVec 32) (digest : BitVec 256) (pk root sig p : List Byte) (fl : List (BitVec 32)), s.ok →
    let b := s.box
    let runs : Prop := b.secRuns = true
    let rest := b.sec.opKeys.filter (fun (k : OpKey) => k.pk != pk)
    let body (add : Bool) := beBytes 8 num.toNat ++ [BitVec.ofNat 8 (flag add), BitVec.ofNat 8 purpose.toNat] ++ pk
    let opSigned (add : Bool) : Prop := runs ∧ b.sec.stmt < num.toNat ∧ Machine.hash root = b.sec.root
      ∧ sigOk (some root) (body add) sig = true
    let rootSigned (l : List Byte) : Prop := runs ∧ plid.toNat = b.sec.plid ∧ Machine.hash root = Config.rootDigest % 2 ^ 256
      ∧ sigOk (some root) l sig = true
    let mfrGood : Prop := p.length = 16 + 0x60 + 2420 ∧ p.take 4 = [0x4B, 0x41, 0x52, 0x32] ∧ leNat ((p.drop 4).take 2) = 7
      ∧ leNat ((p.drop 6).take 2) = 0x60 ∧ beNat (((p.drop 16).take 0x60).take 4) = b.sec.plid
      ∧ sigOk (b.sec.keys.find 3) (p.take (16 + 0x60)) (p.drop (16 + 0x60)) = true
    (b.secSigns = true → h.val = b.secHalf → 16 ≤ m.val → m.val ≤ 19 → nonce.length = 32 →
      nextWith (exec (.attestationReport h m nonce) s) (fun u => sameMem s u ∧ sameRegs s u [.mbxBuf]
        ∧ ∃ g, g.length = 2420 ∧ sent s u [.report m (b.reportBody h nonce ++ g)]
          ∧ ∀ w < 356, u.box.get .mbxBuf m w = leNat (((b.reportBody h nonce ++ g).drop (8 * w)).take 8)))
    ∧ (b.secSigns = false → exec (.attestationReport h m nonce) s = .next s)
    ∧ (opSigned true → rest.length < 32 → nextWith (exec (.operatorKeyStatement num true purpose pk root sig) s) (fun u =>
      sameMem s u ∧ u.box.sec.opKeys = rest ++ [⟨pk, purpose.toNat⟩] ∧ u.box.sec.stmt = num.toNat
        ∧ u.box.get .secOpkeyCnt = rest.length + 1 ∧ u.box.out = b.out))
    ∧ (opSigned false → nextWith (exec (.operatorKeyStatement num false purpose pk root sig) s) (fun u => sameMem s u
      ∧ u.box.sec.opKeys = rest ∧ u.box.sec.stmt = num.toNat ∧ ∀ k x, u.box.mbx.sess.find k = some x → x.opPk ≠ pk))
    ∧ (num.toNat ≤ b.sec.stmt ∨ Machine.hash root ≠ b.sec.root →
      exec (.operatorKeyStatement num true purpose pk root sig) s = .next s)
    ∧ (rootSigned (beBytes 4 plid.toNat ++ digest32 digest.toNat) →
      nextWith (exec (.operatorRootTransfer plid digest root sig) s) (fun u => sameMem s u
        ∧ u.box.sec.root = digest.toNat ∧ u.box.sec.gen.at 2 0 = b.sec.gen.at 2 0 + 1 ∧ sameRegs s u [.secRecGen]
        ∧ u.box.out = b.out))
    ∧ (rootSigned (beBytes 4 plid.toNat ++ fl.flatMap (fun v => leBytes 4 v.toNat)) → fl.length = 7 →
      nextWith (exec (.floorResetStatement plid fl root sig) s) (fun u => sameMem s u
        ∧ (∀ r < 5, u.box.get .secFloor r = (fl.getD r 0).toNat) ∧ u.box.get .secFloorBoot = (fl.getD 5 0).toNat
        ∧ u.box.get .secFloorManifest = (fl.getD 6 0).toNat ∧ u.box.out = b.out))
    ∧ (b.isAgent src.toNat = true → runs → p.length = 32 → applied s src (exec (.boardRecordWrite src p) s)
      { b with sec := { b.sec with boardNext := some p } })
    ∧ (writer b src → p.length ≠ 32 → turnedAway s src (exec (.boardRecordWrite src p) s) 1)
    ∧ (b.isAgent src.toNat = true → runs → mfrGood → applied s src (exec (.manufactureRecordWrite src p) s)
      { b with sec := { b.sec with mfrNext := some ((p.drop 16).take 0x60) } })
    ∧ (writer b src → ¬mfrGood → turnedAway s src (exec (.manufactureRecordWrite src p) s) 1)
    ∧ (b.isAgent src.toNat = true → runs → b.bundleFloor id.toNat < floor.toNat → b.sec.bfloor.length < 1024 →
      nextWith (exec (.bundleFloorRaise src id floor) s) (fun u => sameMem s u
        ∧ u.box.bundleFloor id.toNat = floor.toNat ∧ sent s u [.answer src.toNat 0 0]))
    ∧ (writer b src → floor.toNat ≤ b.bundleFloor id.toNat → turnedAway s src (exec (.bundleFloorRaise src id floor) s) 1)

/-- R23, R533, R537 to R543, R553, R554: flash operations, the health of the entropy source, and the boot chain of a die. -/
def Obligations.FlashAndBoot : Prop :=
  ∀ (s : State) (core : MCore) (addr : BitVec 28) (data : List Byte) (mv : BitVec 16) (h : Half) (sel : BitVec 1)
    (puf : Bool) (x : FlashOp) (img : List Byte), s.ok →
    let b := s.box
    let page := addr.toNat / 4096 * 4096
    let mayWrite (a n : Nat) : Prop := flashRow a = flashRow (a + n - 1) ∧ b.bit .grdFlashWin (flashRow a) core = true
    let held (need : Int) : Prop := b.sec.ops = [] ∧ b.get .secHuCapUf ≠ 0 ∧ need ≤ eAvail (b.get .secHuCapUf) mv.toNat
      ∧ b.get .pwrLoss ≠ 1
    let starts (i : Instr) (y : FlashOp) : Prop := nextWith (exec i s) (fun u => sameMem s u ∧ u.box.sec.ops = [y]
      ∧ u.box.sec.flash = b.sec.flash ∧ u.box.out = b.out ∧ sameRegs s u [.secHuAvailMj])
    let cleared : Prop := b.sec.straps.find (1 - h) ≠ some sel.toNat
    (data ≠ [] → data.length ≤ 256 → mayWrite addr.toNat data.length → held 330000000 →
      starts (.flashProgram core addr data mv) ⟨core, addr.toNat, some data, mv.toNat⟩)
    ∧ (mayWrite page 4096 → held 825000000 → starts (.flashErase core addr mv) ⟨core, page, none, mv.toNat⟩)
    ∧ (data ≠ [] → data.length ≤ 256 → b.bit .grdFlashWin (flashRow addr.toNat) core = false →
      nextWith (exec (.flashProgram core addr data mv) s) (fun u => sameMem s u ∧ u.box.sec = b.sec
        ∧ u.box.bit .grdEvent 10 = true ∧ u.box.out.head? = some (.answer core 2 0)))
    ∧ (b.sec.ops = [] → b.get .secHuCapUf = 0 → mayWrite page 4096 → b.get .secHuRefuse < 2 ^ 32 - 1 →
      nextWith (exec (.flashErase core addr mv) s) (fun u => sameMem s u ∧ u.box.sec = b.sec
        ∧ u.box.get .secHuRefuse = b.get .secHuRefuse + 1 ∧ sent s u [.answer core 1 0]))
    ∧ (b.sec.ops = [x] → nextWith (exec .flashOpDone s) (fun u => sameMem s u ∧ u.box.sec.ops = [] ∧ u.box.regs = b.regs
      ∧ sent s u [.answer x.core 0 0]
      ∧ match x.data with
        | some d => ∀ a, u.box.flashByte a = if x.addr ≤ a ∧ a < x.addr + d.length then d.getD (a - x.addr) 0 else b.flashByte a
        | none => ∀ a, u.box.flashByte a = if a / 4096 = x.addr / 4096 then 0xFF else b.flashByte a))
    ∧ exec (.rngHealthFail h) s = .next (s.withBox (b.setBit .secBootstat 5 h))
    ∧ (b.sec.straps.find (1 - h) = some sel.toNat → nextWith (exec (.bootChain h sel puf) s) (fun u => sameMem s u
      ∧ u.box.bit .secBootstat 0 0 = true ∧ u.box.bit .secBootstat 0 1 = true ∧ sameRegs s u [.secBootstat]))
    ∧ (cleared → b.bootStage 0 = none → b.bootStage 1 = none → nextWith (exec (.bootChain h sel puf) s) (fun u =>
      sameMem s u ∧ u.box.bit .secBootstat 2 h = true ∧ u.box.sec.keys = b.sec.keys))
    ∧ (cleared → b.bootStage 0 = some img → nextWith (exec (.bootChain h sel puf) s) (fun u => sameMem s u
      ∧ u.box.bit .secBootstat 2 h = false ∧ u.box.bit .secBootstat 3 h = false
      ∧ u.box.sec.manifestVer = Config.manifestVersion img ∧ u.box.sec.keys.find 0 = some (Config.manifestKey img 0)))
    ∧ (cleared → b.bootStage 0 = none → b.bootStage 1 = some img → nextWith (exec (.bootChain h sel puf) s) (fun u =>
      sameMem s u ∧ u.box.bit .secBootstat 3 h = true ∧ u.box.sec.manifestVer = Config.manifestVersion img))

/-- R473 to R481: the guest sites: bring-up, the firewall's answers, posted work, power, commands and the fence. -/
def Obligations.GuestSites : Prop :=
  ∀ (s : State) (src : Src) (h : Half) (id : BitVec 64) (hdr : BitVec 128) (data : List Byte) (w : BitVec 7) (c : Nat), s.ok →
    let b := s.box
    let hd := hdr.toNat
    let st := b.gstate h
    let a := gAddr hd
    let n := gLen hd
    let v := b.get .gstPostq h (gWin hd)
    let core := v % 128
    let q := v / 128 % 8
    let above : Prop := b.get .gstPwrMaxW h < w.toNat
    let alone (u : State) : Prop := sameMem s u ∧ u.box.regs = b.regs
    (b.glink h = false → st ≠ gsFenced → b.get .gstId h ≠ 0 → b.get .gstId h = id.toNat →
      nextWith (exec (.guestBringUp h id true) s) (fun u => sameMem s u ∧ u.box.gstate h = gsReady ∧ u.box.out = b.out)
      ∧ exec (.guestBringUp h id false) s = .next (s.withBox (b.put .gstState gsTraining h)))
    ∧ (b.glink h = false → st ≠ gsFenced → b.get .gstId h ≠ id.toNat →
      nextWith (exec (.guestBringUp h id true) s) (fun u => sameMem s u ∧ u.box.gstate h = gsAbsent
        ∧ sameRegs s u (.gstState :: raiseRegs)))
    ∧ (st = gsRun → b.firewall h hd 1 0 = .ok 1 → nextWith (exec (.guestRead h hdr) s) (fun u => alone u
      ∧ sent s u [.guest h 8 (gTag hd) 0 a (Memory.readBytes s.mem a n)]))
    ∧ (st = gsRun → b.firewall h hd 1 0 = .error c → c ≠ 1 → nextWith (exec (.guestRead h hdr) s) (fun u => alone u
      ∧ sent s u [.guest h 11 (gTag hd) c a []]))
    ∧ (st = gsRun → b.firewall h hd 1 0 = .error 1 → b.get .gstViol h < 2 ^ 32 - 1 →
      nextWith (exec (.guestRead h hdr) s) (fun u => sameMem s u ∧ u.box.get .gstViol h = b.get .gstViol h + 1
        ∧ sent s u [.guest h 11 (gTag hd) 1 a []]
        ∧ (b.get .gstViolMax ≤ 1 → u.box.gstate h = gsFenced ∧ u.box.get .gstFenceCause h = 2)))
    ∧ (st = gsRun → data.length = n → b.firewall h hd 2 1 = .ok 1 → nextWith (exec (.guestWrite h hdr data) s) (fun u =>
      u.pending = s.pending ∧ (∀ i < n, Memory.readByte u.mem (a + i) = data.getD i 0)
        ∧ (∀ x, x < a ∨ a + n ≤ x → Memory.readByte u.mem x = Memory.readByte s.mem x)
        ∧ sent s u [.guest h 9 (gTag hd) 0 a []]))
    ∧ (st = gsRun → gOp hd = 3 → n = 64 → data.length = 64 → bits hd 47 0 = 0 → gWin hd < 8 →
      v / 1024 ≠ 0 → (b.boundTo core q).isSome = true → (b.wq core q).length < 64 → b.waiters core q = [] →
      nextWith (exec (.guestPost h hdr data) s) (fun u => sameMem s u ∧ u.box.out = b.out
        ∧ u.box.wq core q = b.wq core q ++ [⟨postImage data, none⟩]))
    ∧ nextWith (exec (.guestPowerOver h w) s) (fun u => sameMem s u ∧ u.box.get .gstPwrW h = w.toNat
      ∧ sameRegs s u [.gstPwrW] ∧ ((u.box.gsite h).throttle = true ↔ above)
      ∧ ((b.gsite h).throttle = false → above → sent s u [.throttle h true]))
    ∧ ((b.gsite h).throttle = true → above → nextWith (exec (.guestRailRemove h w) s) (fun u => sameMem s u
      ∧ u.box.gstate h = gsFenced ∧ u.box.get .gstFenceCause h = 1 ∧ u.box.bit .grdEvent 7 = true
      ∧ railKey h 10 ∉ u.box.pwr.on))
    ∧ (writer b src →
      (st = gsReady → applied s src (exec (.guestRun src h) s) ((b.put .gstState gsRun h).put .gstCmd 1 h))
      ∧ (st = gsRun → applied s src (exec (.guestStop src h) s) ((b.put .gstState gsReady h).put .gstCmd 2 h))
      ∧ (st = gsFenced → nextWith (exec (.guestUnfence src h) s) (fun u => sameMem s u ∧ u.box.gstate h = gsTraining
        ∧ sent s u [.answer src.toNat 0 0]))
      ∧ (st ≠ gsReady → turnedAway s src (exec (.guestRun src h) s) 1)
      ∧ (st ≠ gsRun → turnedAway s src (exec (.guestStop src h) s) 1)
      ∧ (st ≠ gsFenced → turnedAway s src (exec (.guestUnfence src h) s) 1))
    ∧ (b.glink h = true → nextWith (exec (.guestLinkFail h) s) (fun u => sameMem s u ∧ u.box.gstate h = gsFenced
        ∧ u.box.get .gstFenceCause h = 3 ∧ u.box.out = b.out)
      ∧ nextWith (exec (.guestSidebandRequest h) s) (fun u => sameMem s u ∧ sent s u [.unsupported h]
        ∧ sameElse s u .gstViol h 0 0 ∧ (b.get .gstViol h < 2 ^ 32 - 1 → u.box.get .gstViol h = b.get .gstViol h + 1)))

/-- R288 to R290, R527: a bundle image is accepted or its cause recorded; an accepted one is placed; a LOADED one goes. -/
def Obligations.BundleSlots : Prop :=
  ∀ (s : State) (sl : Fin 16) (img : List Byte) (x : Bundle) (cores : List (Nat × Nat × Nat)) (areas : Store Nat)
    (wins : List Window) (c : Nat), s.ok →
    let b := s.box
    let st := b.get .rlyBundleState sl
    let found := b.rly.bundles.find sl
    (b.secRuns = true → st = 0 → found = none →
      (b.bundleCause img = 0 → nextWith (exec (.bundleLoad sl img) s) (fun u => sameMem s u
        ∧ u.box.rly.bundles.find sl = some (krbBundle img) ∧ sameRegs s u [.secMeas, .secLogCnt] ∧ u.box.out = b.out))
      ∧ (b.bundleCause img ≠ 0 →
        exec (.bundleLoad sl img) s = .next (s.withBox (b.put .rlyBundleErr (b.bundleCause img) sl))))
    ∧ (b.ctlRuns = true → st = 0 → found = some x →
      (b.placeCores x = .ok cores → b.batonAreas x.baton = some areas →
        b.placeWindows x.windows b.windowsUsed b.tagsUsed = some wins → nextWith (exec (.bundlePlace sl) s) (fun u =>
          u.pending = s.pending ∧ u.box.out = b.out ∧ u.box.get .rlyBundleState sl = 1
          ∧ u.box.get .rlyBundleId sl = x.id % 2 ^ 64 ∧ u.box.get .rlyBundleVer sl = x.ver % 2 ^ 32
          ∧ u.box.rly.bundles.find sl = some { x with placed := cores, batonAt := areas, windows := wins }
          ∧ cores.length = x.cores))
      ∧ (b.placeCores x = .error c → nextWith (exec (.bundlePlace sl) s) (fun u => sameMem s u ∧ 4 ≤ c ∧ c ≤ 7
        ∧ u.box.get .rlyBundleErr sl = c ∧ u.box.rly.bundles.find sl = none ∧ sameElse s u .rlyBundleErr sl 0 0)))
    ∧ (b.ctlRuns = true → st = 1 → found = some x → nextWith (exec (.bundleUnload sl) s) (fun u =>
      u.pending = s.pending ∧ u.box.get .rlyBundleState sl = 0 ∧ u.box.get .rlyBundleId sl = 0
        ∧ u.box.get .rlyBundleVer sl = 0 ∧ u.box.rly.bundles.find sl = none
        ∧ ∀ p ∈ x.placed, ∀ q < 8, u.box.get .rlyWqBundle p.1 q ≠ sl))

/-! ### Firmware -/

/-- R511 to R518, R520 to R522: cores restart and say READY, watchdogs, bench cores, and the log and trace writes. -/
def Obligations.ManagementCores : Prop :=
  ∀ (s : State) (src : Src) (n : MCore) (r : Fin 3) (rr : Fin 5) (h : Half) (cmd : BitVec 20) (v : BitVec 64) (k : Nat)
    (l : LogRec), s.ok →
    let b := s.box
    let c := n.val / 5
    let asks : Prop := b.isAgent src.toNat = true ∨ src.toNat = b.acting 0 ∨ src.toNat = n.val
    let payload := ((upTo 6).map (fun m => b.get .fwmCoreLogbuf n m * 2 ^ (64 * m))).sum
    let entry (kind sev code pl : Nat) : LogRec :=
      ⟨b.ns, b.stamp % 65536, n, kind, sev, code, b.fwm.logSeq.at n 0, pl⟩
    let logged (u : State) (e : LogRec) : Prop := sameMem s u ∧ u.box.out = b.out ∧ u.box.logQ c = b.logQ c ++ [e]
    let again (u : State) : Prop := sameMem s u ∧ u.box.cst n = coreAgain
      ∧ (b.get .fwmCoreRestarts n < 2 ^ 32 - 1 → u.box.get .fwmCoreRestarts n = b.get .fwmCoreRestarts n + 1)
      ∧ ∀ m < 32, b.receiver m = n → u.box.get .mbxReady m = 0 ∧ u.box.get .mbxFull m = 0
    (writer b src → asks → b.cst n ≠ coreOff → nextWith (exec (.coreRestart src n) s) (fun u => again u
      ∧ sent s u [.answer src.toNat 0 0]))
    ∧ (writer b src → asks → b.cst n = coreOff → turnedAway s src (exec (.coreRestart src n) s) 1)
    ∧ (writer b src → ¬asks → turnedAway s src (exec (.coreRestart src n) s) 4)
    ∧ (b.cst n = coreBoot ∨ b.cst n = coreAgain → b.fwm.acts = [] → nextWith (exec (.coreReady n) s) (fun u =>
      u.pending = s.pending ∧ u.box.cst n = (if 3 ≤ roleOf n ∨ b.acting (roleOf n) = n then coreActs else coreBench)))
    ∧ (writer b src → applied s src (exec (.watchdogKick src n) s) (b.put .fwmCoreWd 1 n))
    ∧ (b.cst n = coreActs ∨ b.cst n = coreBench → b.fwm.runs.find n = none → b.fwm.restarts.at n [] = [] →
      nextWith (exec (.coreWatchdog n) s) (fun u => again u ∧ u.box.out = b.out
        ∧ (calm b → recorded s u c .fwmCoreWd n sevError 0 0)))
    ∧ (b.cst n = coreBoot ∨ b.cst n = coreAgain → b.fwm.acts = [] → b.fwm.runs.find n = none →
      b.fwm.restarts.at n [] = [] → nextWith (exec (.bootTimeout n) s) again)
    ∧ (b.acting r = r.val ∨ b.acting r = r.val + 5 → b.cst (b.acting r) = coreFailed → b.cst (b.benchOf r) = coreBench →
      nextWith (exec (.benchTakeover r) s) (fun u => sameMem s u ∧ u.box.acting r = b.benchOf r
        ∧ u.box.cst (b.benchOf r) = coreActs ∧ u.box.cst (b.acting r) = coreFailed))
    ∧ (b.cst (b.acting r) = coreActs → b.cst (b.benchOf r) = coreBench → nextWith (exec (.benchCheckpoint r) s) (fun u =>
      sameMem s u ∧ u.box.regs = b.regs ∧ u.box.fwm.checkpoint.find r = some b.ns ∧ sent s u [.checkpoint r]))
    ∧ (b.isAgent src.toNat = true → rr < 3 → b.acting rr = rr.val + 5 → b.cst rr = coreBench →
      nextWith (exec (.handBack src rr) s) (fun u => sameMem s u ∧ u.box.acting rr = rr.val ∧ u.box.cst rr = coreActs
        ∧ (b.cst (rr.val + 5) = coreActs → u.box.cst (rr.val + 5) = coreBench) ∧ sent s u [.answer src.toNat 0 0]))
    ∧ ((b.logQ c).length < 256 → nextWith (exec (.logWrite n cmd) s) (fun u =>
      logged u (entry 0 (cmd.toNat / 2 ^ 16) (cmd.toNat % 2 ^ 16) payload) ∧ sameRegs s u [.fwmCoreLogcmd]))
    ∧ (256 ≤ (b.logQ c).length → nextWith (exec (.logWrite n cmd) s) (fun u => sameMem s u ∧ u.box.logQ c = b.logQ c
      ∧ (u.box.fwm.logWait.find n).isSome = true ∧ sameRegs s u [.fwmCoreLogcmd]))
    ∧ (b.logWaiting h = some (k, l) → nextWith (exec (.logWaitExpire h) s) (fun u => sameMem s u ∧ u.box.out = b.out
      ∧ u.box.fwm.logWait = b.fwm.logWait.del k ∧ sameElse s u .fwmLogDrop h 0 0 ∧ sameRegs s u [.fwmLogDrop]))
    ∧ (b.bit .fwmCoreTpEn (v.toNat / 2 ^ 58) n = true → (b.logQ c).length ≤ 128 →
      nextWith (exec (.tracePoint n v) s) (fun u => logged u (entry 1 0 (v.toNat / 2 ^ 48) (v.toNat % 2 ^ 48))
        ∧ sameRegs s u [.fwmCoreTrace]))
    ∧ (b.bit .fwmCoreTpEn (v.toNat / 2 ^ 58) n = true → 128 < (b.logQ c).length →
      nextWith (exec (.tracePoint n v) s) (fun u => sameMem s u ∧ u.box.fwm = b.fwm
        ∧ sameRegs s u [.fwmCoreTrace, .fwmTraceDrop]))

/-- R525, R526, R528 to R530: firmware images: staged in flash, armed for a lap, disarmed, reverted, confirmed, and an
activation that an emergency cancels. -/
def Obligations.FirmwareImages : Prop :=
  ∀ (s : State) (src : Src) (slot : Fin 10) (img : List Byte) (b1 : Box) (t : Nat), s.ok →
    let b := s.box
    let st := b.get .fwmImgState slot
    let ver := b.get .fwmImgVer slot
    let role := slot.val / 2
    let lap := b.get .fwmImgActLap slot
    let a := slotAddr slot
    (b.secRuns = true → st = 0 ∨ st = 2 ∨ st = 9 → b.imageOk role img = true → nextWith (exec (.imageStage slot img) s) (fun u =>
      sameMem s u ∧ u.box.out = b.out ∧ u.box.get .fwmImgState slot = 2 ∧ u.box.get .fwmImgVer slot = imgVer img
        ∧ sameRegs s u [.fwmImgState, .fwmImgVer, .fwmImgDigest]
        ∧ (∀ i < img.length, u.box.flashByte (a + i) = img.getD i 0)
        ∧ ∀ x, x < a ∨ a + 0x00800000 ≤ x → u.box.flashByte x = b.flashByte x))
    ∧ (b.imageOk role img = false → exec (.imageStage slot img) s = .next s)
    ∧ (writer b src → st = 2 → b.lap + 3 ≤ lap → (b.put .fwmImgCmd 1 slot).calArm lap 5 slot = some b1 →
      applied s src (exec (.imageArm src slot) s) (b1.put .fwmImgState 3 slot))
    ∧ (writer b src → st ≠ 2 ∨ lap < b.lap + 3 → turnedAway s src (exec (.imageArm src slot) s) 1)
    ∧ (writer b src → st = 3 ∨ st = 4 → nextWith (exec (.imageDisarm src slot) s) (fun u => sameMem s u
      ∧ u.box.get .fwmImgState slot = 2 ∧ u.box.fwm.deferred.find slot = none ∧ sent s u [.answer src.toNat 0 0]
      ∧ ∀ n < 64, b.get .timCalState n ≠ 1 → u.box.get .timCalState n = b.get .timCalState n))
    ∧ (writer b src → st = 7 → nextWith (exec (.imageRevert src slot) s) (fun u => u.pending = s.pending
      ∧ u.box.get .fwmImgState slot = 9 ∧ u.box.get .fwmImgState (otherBank slot) = 6
      ∧ u.box.out.head? = some (.answer src.toNat 0 0)))
    ∧ (writer b src → st = 7 → ver < 2 ^ 32 → nextWith (exec (.imageConfirm src slot) s) (fun u => sameMem s u
      ∧ u.box.get .fwmImgState slot = 6 ∧ (b.get .fwmImgState (otherBank slot) = 8 → u.box.get .fwmImgState (otherBank slot) = 0)
      ∧ u.box.get .secFloor role = max (b.get .secFloor role) ver ∧ sent s u [.answer src.toNat 0 0]))
    ∧ (writer b src → st ≠ 7 → turnedAway s src (exec (.imageRevert src slot) s) 1
      ∧ turnedAway s src (exec (.imageConfirm src slot) s) 1)
    ∧ (b.fwm.deferred.find slot = some t → b.get .fwmEmerg ≠ 0 → nextWith (exec (.deferredCancel slot) s) (fun u => sameMem s u
      ∧ u.box.get .fwmImgState slot = 2 ∧ u.box.fwm.deferred.find slot = none ∧ u.box.out = b.out
      ∧ (b.get .fwmActCancel < 2 ^ 16 - 1 → u.box.get .fwmActCancel = b.get .fwmActCancel + 1)))

/-! ### The marshal -/

/-- R584, R594 to R597: CTL retires a record; the score window; a suspect lane or fibre is agreed, held out of the module's
own spraying, or expelled. -/
def Obligations.MarshalLinks : Prop :=
  ∀ (s : State) (src : Src) (m : BitVec 8) (f : Fibre) (sl : Slot) (pl : BitVec 256) (w : Fin 9) (e : ErrRec) (x : LinkCase),
    s.ok →
    let b := s.box
    let cw := linkW pl.toNat
    let hit (y : LinkCase) : Prop := y.f = f.val ∧ y.w = cw
    (writer b src → b.mar.errq.find m.toNat = some e → b.mar.storm = [] → nextWith (exec (.errAck src m) s) (fun u =>
      sameMem s u ∧ u.box.mar.errq = b.mar.errq.del m.toNat ∧ u.box.get .marErrqCnt = (b.mar.errq.del m.toNat).length % 512
        ∧ sent s u [.answer src.toNat 0 0] ∧ sameRegs s u [.marErrAck, .marErrqCnt]))
    ∧ (writer b src → b.mar.errq.find m.toNat = none → applied s src (exec (.errAck src m) s) (b.put .marErrAck m.toNat))
    ∧ nextWith (exec .scoreWindow s) (fun u => sameMem s u ∧ u.box.mar.lanePts = [] ∧ u.box.mar.portPts = []
      ∧ (b.upLanes = [] → u.box.mar.lanePrev = b.mar.lanePts
        ∧ ∀ l, u.box.get .marLnScore l = min (b.mar.lanePts.at l 0 + b.mar.lanePrev.at l 0) 65535))
    ∧ (b.mrOn = true → b.get .marSuspect ≤ 2 * b.linkPts f cw → nextWith (exec (.linkSuspect f sl pl) s) (fun u => sameMem s u
      ∧ u.box.regs = b.regs ∧ (∃ y ∈ u.box.mar.links, hit y ∧ y.agreed = true) ∧ ∃ p, sent s u [.marshal f sl 0x15 p]))
    ∧ (b.mrOn = false ∨ 2 * b.linkPts f cw < b.get .marSuspect → exec (.linkSuspect f sl pl) s = .next s)
    ∧ nextWith (exec (.linkAgree f sl pl) s) (fun u => sameMem s u ∧ u.box.regs = b.regs ∧ u.box.out = b.out
      ∧ u.box.mar.links.length = b.mar.links.length ∧ (∀ y ∈ u.box.mar.links, hit y → y.agreed = true)
      ∧ ∀ y ∈ b.mar.links, ¬hit y → y ∈ u.box.mar.links)
    ∧ (b.linkCase f w = some x → x.agreed = false → x.ours = true → nextWith (exec (.agreeTimeout f w) s) (fun u => sameMem s u
      ∧ u.box.regs = b.regs ∧ u.box.out = b.out ∧ u.box.mar.links = b.mar.links.erase x
      ∧ ∀ l ∈ linkLanes f w, (u.box.lane f (b.slotOf l)).heldOut = true))
    ∧ (b.linkCase f w = some x → x.agreed = true → w.val < 8 → b.optRuns (halfOf w) = false → b.hasSpare f w = false →
      b.laneIdle f w = false → nextWith (exec (.linkExpel f w) s) (fun u => u.box.mar.links = b.mar.links.erase x
        ∧ (u.box.lane f w).holdDark = true ∧ u.box.lnState f w = lnDraining))
    ∧ (b.linkCase f w = some x → x.agreed = true → w = 8 → nextWith (exec (.linkExpel f w) s) (fun u =>
      u.box.mar.links = b.mar.links.erase x ∧ ∀ n, 4 * f.val ≤ n → n < 4 * f.val + 4 → u.box.get .marPsFence n = 1))

/-- R598 to R604, R606, R609, R610: reports, verdicts and cases; status, admission and probation. -/
def Obligations.MarshalCases : Prop :=
  ∀ (s : State) (pl : BitVec 256) (c : Fin 64) (x : CaseSt) (v : Verdict), s.ok →
    let b := s.box
    let sender := bits pl.toNat 255 224
    let subj := bits pl.toNat 191 160
    let arrived : Verdict := ⟨bits pl.toNat 215 208, subj, bits pl.toNat 63 32, bits pl.toNat 127 64⟩
    let p := b.get .marCaseSubj c
    (b.keeps subj = true → b.openCase subj = none → (upTo 64).find? (fun k => b.get .marCaseState k == 0) = some c.val →
      2 ≤ b.get .marQuorum → nextWith (exec (.report pl) s) (fun u => sameMem s u ∧ u.box.out = b.out
        ∧ u.box.get .marCaseState c = 1 ∧ u.box.get .marCaseSubj c = subj ∧ u.box.get .marCaseCount c = 1
        ∧ u.box.get .marCaseObs c = 1
        ∧ sameRegs s u [.marCaseState, .marCaseSubj, .marCaseCount, .marCaseObs]))
    ∧ (b.keeps subj = false → exec (.report pl) s = .next s)
    ∧ (b.ns ≤ arrived.applyT → nextWith (exec (.verdict pl) s) (fun u => sameMem s u ∧ u.box.regs = b.regs
      ∧ u.box.out = b.out ∧ u.box.mar.verdicts = b.mar.verdicts ++ [arrived]))
    ∧ (b.mar.verdicts = [v] → v.code = 1 → v.subj ∉ b.mar.expelled → b.sparesFree v.subj ≠ [] →
      (b.ledgerCount v.applyT < b.get .marBudget → nextWith (exec .verdictApply s) (fun u => sameMem s u
        ∧ u.box.mar.verdicts = [] ∧ v.subj ∈ u.box.mar.expelled
        ∧ u.box.get .marLedger (b.mar.ledgerPos % 64) = v.applyT % 2 ^ 64 + v.subj % 2 ^ 32 * 2 ^ 64
        ∧ ∀ e ∈ b.sparesFree v.subj, u.box.get .marSpareUsed e = 1))
      ∧ (b.get .marBudget ≤ b.ledgerCount v.applyT → nextWith (exec .verdictApply s) (fun u => sameMem s u
        ∧ u.box.mar.verdicts = [] ∧ u.box.mar.expelled = b.mar.expelled ∧ v.subj ∈ u.box.mar.derated)))
    ∧ (b.get .marCaseState c ∈ [1, 2, 3] → nextWith (exec (.caseClose c) s) (fun u => sameMem s u
      ∧ u.box.get .marCaseState c = 4 ∧ sameElse s u .marCaseState c 0 0
      ∧ ∃ y ∈ u.box.mar.verdicts, y.code = 3 ∧ y.subj = p ∧ b.ns + b.get .marVerdictUs * 1000 ≤ y.applyT))
    ∧ (b.case_ c = some x → x.summarised = false → b.get .marFmFeid ≠ 0 → nextWith (exec (.caseSummary c) s) (fun u =>
      sameMem s u ∧ u.box.regs = b.regs ∧ u.box.case_ c = some { x with summarised := true }
        ∧ ∃ l, sent s u [.ctrl 3 (b.get .marFmFeid) 0x16 l]))
    ∧ (b.mrOn = true → b.get .marFmFeid ≠ 0 → nextWith (exec .statusTx s) (fun u => sameMem s u ∧ u.box.regs = b.regs
      ∧ Emit.ctrl 3 (b.get .marFmFeid) 0x12 (beBytes 32 b.mrStatus) ∈ u.box.out))
    ∧ nextWith (exec (.status pl) s) (fun u => sameMem s u ∧ u.box.regs = b.regs ∧ u.box.out = b.out
      ∧ u.box.mar.status.find sender = some (b.ns, bits pl.toNat 63 32))
    ∧ (b.mrOn = true → b.isSelf (b.keeperOf sender) = true →
      (b.openCase sender = none → nextWith (exec (.join pl) s) (fun u => sameMem s u ∧ u.box.regs = b.regs
        ∧ ∃ y ∈ u.box.mar.verdicts, y.code = 4 ∧ y.subj = sender))
      ∧ ((b.openCase sender).isSome = true → nextWith (exec (.join pl) s) (fun u => sameMem s u ∧ u.box.regs = b.regs
        ∧ u.box.out = b.out ∧ sender ∈ u.box.mar.joins)))
    ∧ (b.get .marSelfState = mrProb → nextWith (exec .probationEnd s) (fun u => sameMem s u
      ∧ u.box.get .marSelfState = mrIn ∧ sameRegs s u [.marSelfState]))
    ∧ (b.get .marSelfState ≠ mrProb → exec .probationEnd s = .next s)

/-! ### Commit groups -/

/-- R64, R65, R67, R68, R71, R76: a group is opened, staged, sealed, aborted, released and resolved by command. -/
def Obligations.GroupCommands : Prop :=
  ∀ (s : State) (src : Src) (n : Fin 16) (addr : BitVec 48) (data : BitVec 64) (x : Hit), s.ok → writer s.box src →
    let b := s.box
    let st := b.cgState n
    let g := b.cg n
    let a := b.get .timCgStageAddr n
    let c := b.get .timCgCommitLap n
    let vote := b.get .timCgVoteGrp n
    let ok : Emit := .answer src.toNat 0 0
    let armed (u : State) (lap action : Nat) : Prop := ∃ e < 64, u.box.get .timCalState e = 1
      ∧ u.box.get .timCalLap e = lap % 2 ^ 54 ∧ u.box.get .timCalAction e = action ∧ u.box.get .timCalArg e = n.val
    let gone (u : State) : Prop := u.pending = s.pending ∧ u.box.cgState n = cgAborted ∧ (u.box.cg n).staged = []
      ∧ u.box.get .timCgWrites n = 0 ∧ u.box.get .timCgBytes n = 0 ∧ u.box.out.head? = some ok
      ∧ ∀ e < 64, ¬(u.box.get .timCalState e = 1 ∧ u.box.get .timCalAction e = 1 ∧ u.box.get .timCalArg e = n.val)
    (b.mayOpen n = true → nextWith (exec (.cgOpen src n) s) (fun u => sameMem s u ∧ u.box.cgState n = cgOpen
      ∧ u.box.cg n = { lap := c, grp := vote } ∧ armed u c 1 ∧ (vote ≠ 0xFFFF → armed u (c - 1) 2) ∧ sent s u [ok]))
    ∧ (b.mayOpen n = false → turnedAway s src (exec (.cgOpen src n) s) 1)
    ∧ (st = cgOpen → applied s src (exec (.cgStageAddrWrite src n addr) s) (b.put .timCgStageAddr addr.toNat n))
    ∧ (st ≠ cgOpen → turnedAway s src (exec (.cgStageAddrWrite src n addr) s) 1
      ∧ turnedAway s src (exec (.cgStageDataWrite src n data) s) 1 ∧ turnedAway s src (exec (.cgSeal src n) s) 1)
    ∧ (st = cgOpen → inTables a = false → Machine.locate a = some x →
      (x.staged = true → b.get .timCgWrites n < 4096 → nextWith (exec (.cgStageDataWrite src n data) s) (fun u =>
        sameMem s u ∧ (u.box.cg n).staged = g.staged ++ [.reg a data.toNat] ∧ u.box.cgState n = cgOpen
          ∧ u.box.get .timCgWrites n = b.get .timCgWrites n + 1 ∧ sent s u [ok]))
      ∧ (x.staged = false → nextWith (exec (.cgStageDataWrite src n data) s) (fun u => u.pending = s.pending
        ∧ u.box.cgState n = cgBroken ∧ u.box.bit .timCgErr 0 n = true
        ∧ u.box.out.head? = some (.answer src.toNat 1 0))))
    ∧ (st = cgOpen → inTables a = true → a % 8 = 0 → b.get .timCgBytes n + 8 ≤ 2 ^ 20 →
      nextWith (exec (.cgStageDataWrite src n data) s) (fun u => sameMem s u
        ∧ (u.box.cg n).staged = g.staged ++ [.tbl a data.toNat] ∧ u.box.get .timCgStageAddr n = (a + 8) % 2 ^ 48
        ∧ u.box.get .timCgBytes n = b.get .timCgBytes n + 8 ∧ sent s u [ok]))
    ∧ (st = cgOpen → applied s src (exec (.cgSeal src n) s) ((b.put .timCgCmd 2 n).put .timCgState cgSealed n))
    ∧ (st = cgOpen ∨ st = cgBroken → nextWith (exec (.cgAbort src n) s) gone)
    ∧ (st ≠ cgOpen → st ≠ cgBroken → turnedAway s src (exec (.cgAbort src n) s) 1)
    ∧ (st = cgCommitted ∨ st = cgAborted → nextWith (exec (.cgRelease src n) s) (fun u => sameMem s u
      ∧ u.box.cgState n = cgFree ∧ u.box.cg n = {} ∧ sameRegs s u [.timCgCmd, .timCgState] ∧ sent s u [ok]))
    ∧ (st = cgInDoubt → g.resolve = false →
      nextWith (exec (.cgResolveCommit src n) s) (fun u => u.pending = s.pending ∧ (u.box.cg n).resolve = true
        ∧ u.box.cgState n = cgInDoubt ∧ u.box.out.head? = some ok)
      ∧ nextWith (exec (.cgResolveAbort src n) s) gone)
    ∧ (st ≠ cgInDoubt → turnedAway s src (exec (.cgResolveCommit src n) s) 1
      ∧ turnedAway s src (exec (.cgResolveAbort src n) s) 1)

/-- R49, R69 to R71, R75, R76, R384: the checks at the seal, votes, outcomes and the loss of the reference. -/
def Obligations.GroupOutcomes : Prop :=
  ∀ (s : State) (n : Fin 16) (grp : Fin 256) (lap : BitVec 54) (v16 : BitVec 16) (seq : BitVec 32) (v : Nat) (b1 : Box), s.ok →
    let b := s.box
    let st := b.cgState n
    let g := b.cg n
    let r := b.sealCheck n
    let mine : Prop := g.voting = true ∧ g.grp = v16.toNat ∧ g.lap % 2 ^ 32 = seq.toNat
    (st = cgSealed → r.1 = false → r.2.1 = false → g.cast = none → g.doomed = false →
      nextWith (exec (.cgSealCheckDone n) s) (fun u => u.pending = s.pending ∧ u.box.cgState n = cgVoted
        ∧ (u.box.cg n).cast = some true ∧ (g.voting = false → (u.box.cg n).outcome = some true)))
    ∧ (st = cgSealed → r.1 = true ∨ r.2.1 = true → nextWith (exec (.cgSealCheckDone n) s) (fun u => u.pending = s.pending
      ∧ u.box.cgState n = cgBroken ∧ (r.1 = true → u.box.bit .timCgErr 4 n = true)
      ∧ (r.2.1 = true → u.box.bit .timCgErr 5 n = true) ∧ (g.voting = true → (u.box.cg n).cast ≠ none)))
    ∧ (b.closeVote grp lap.toNat = (some v, b1) → b.tim.votePos < 4096 →
      nextWith (exec (.voteTreeClose grp lap) s) (fun u => u.pending = s.pending
        ∧ u.box.tim.votePos = (b.tim.votePos + 1) % 4096
        ∧ u.box.get .timVoteLog b.tim.votePos = grp.val + lap.toNat * 2 ^ 16 + (if v = 1 then 1 else 0) * 2 ^ 72))
    ∧ (st = cgVoted → g.outcome = none → mine →
      nextWith (exec (.voteOutcomeReceived v16 seq true) s) (fun u => u.pending = s.pending ∧ u.box.cgState n = cgVoted
        ∧ (u.box.cg n).outcome = some true)
      ∧ nextWith (exec (.voteOutcomeReceived v16 seq false) s) (fun u => sameMem s u ∧ u.box.cgState n = cgAborted
        ∧ (u.box.cg n).staged = []))
    ∧ (st = cgInDoubt → g.resolve = false → mine → nextWith (exec (.voteOutcomeReceived v16 seq true) s) (fun u =>
      u.pending = s.pending ∧ u.box.cgState n = cgInDoubt ∧ (u.box.cg n).resolve = true))
    ∧ nextWith (exec .referenceLost s) (fun u => u.pending = s.pending ∧ u.box.get .timStatusRefLost = 1
      ∧ u.box.acquired = false
      ∧ (st ∈ [cgOpen, cgBroken, cgSealed] → g.voting = true → (u.box.cg n).cast ≠ none))

/-! ### The register map, telemetry, start-up and laps -/

/-- R496, R634, R650 to R662: reads and writes of management addresses: a field's value, the latch of a long register, the
rules of each class, and who may read and write. -/
def Obligations.RegisterAccess : Prop :=
  ∀ (s : State) (src : Src) (addr : BitVec 48) (d : BitVec 64) (x : Hit) (r : Reg) (old : Nat), s.ok →
    let b := s.box
    let a := addr.toNat
    let n := src.toNat
    let v := fieldOf r d.toNat
    let plain : Prop := writer b src ∧ hits a x r ∧ b.waits x = false
    let fits : Prop := b.valueOk r x.i x.j v = true
    let unmapped : Prop := inMem a = false ∧ inTables a = false ∧ Machine.locate a = none
    (b.mayRead n a = false → answered s src (exec (.registerRead src addr) s) 4 0 b)
    ∧ (b.mayRead n a = true → unmapped → answered s src (exec (.registerRead src addr) s) 5 0 b)
    ∧ (writer b src → hits a x r → measured r = false →
      r ∉ [.timNowNs, .timNowFrac, .lckHrMin, .mbxData, .mbxRdata, .mbxBuf, .mbxLock] →
      answered s src (exec (.registerRead src addr) s) 0 (b.readField r x.i x.j x.k * 2 ^ r.info.lo) b)
    ∧ (writer b src → inMem a = false → inTables a = false → Machine.locate a = some x → 2 ≤ x.words → 0 < x.word →
      x.key.reg ∉ [.timNowNs, .timNowFrac, .mbxData, .mbxRdata, .mbxBuf, .mbxLock] →
      assocFind b.tim.latch (n, x.key) = some old →
      answered s src (exec (.registerRead src addr) s) 0 (old / 2 ^ (64 * x.word) % 2 ^ 64) b)
    ∧ (writer b src → unmapped → turnedAway s src (exec (.registerWrite src addr d) s) 5)
    ∧ (isCore n = false → b.isAgent n = false → b.liveSess n = false →
      inMem a = false → inTables a = false → Machine.locate a = some x → x.channel = none → x.key.reg ≠ .mbxLease →
      turnedAway s src (exec (.registerWrite src addr d) s) 4)
    ∧ (plain → r.info.cls = .ro → turnedAway s src (exec (.registerWrite src addr d) s) 1)
    ∧ (plain → r.info.cls = .epoch → groupOnly r = false → fits → nextWith (exec (.registerWrite src addr d) s) (fun u =>
      sameMem s u ∧ u.box.regs = b.regs ∧ u.box.tim.shadow = b.tim.shadow ++ [(⟨r, x.i, x.j, x.k⟩, v, b.dueLap)]
        ∧ sent s u [.answer n 0 0]))
    ∧ (plain → r.info.cls = .epoch → groupOnly r = true → turnedAway s src (exec (.registerWrite src addr d) s) 1)
    ∧ (plain → r.info.cls = .sticky → r ∉ [.rlyTFault, .gstFenceCause, .rlyBundleErr, .grdEvent] → fits →
      applied s src (exec (.registerWrite src addr d) s)
        (b.put r (b.get r x.i x.j x.k &&& (2 ^ r.info.width - 1 - v % 2 ^ r.info.width)) x.i x.j x.k))
    ∧ (writer b src → hits a x r → b.waits x = true → fits → r ∉ [.mbxData, .mbxRdata, .mbxBuf, .mbxDoorbell, .mbxLock, .mbxLease] →
      nextWith (exec (.registerWrite src addr d) s) (fun u => sameMem s u ∧ u.box.regs = b.regs
        ∧ u.box.mar.late = b.mar.late ++ [(n, a, d.toNat)] ∧ sent s u [.answer n 0 0]))
    ∧ (plain → r = .pacQRate → fits → x.j = 0 ∨ 1000 ≤ v → nextWith (exec (.pacerRateWrite src addr d) s) (fun u =>
      sameMem s u ∧ u.box.get .pacQRate x.i x.j = v ∧ sameElse s u .pacQRate x.i x.j 0 ∧ sent s u [.answer n 0 0]))
    ∧ (plain → r = .pacQRate → 0 < x.j → v < 1000 → turnedAway s src (exec (.pacerRateWrite src addr d) s) 1)
    ∧ (plain → r = .telSmpEn → fits → applied s src (exec (.samplerEnable src addr d) s) (b.put .telSmpEn v x.i x.j x.k))
    ∧ (b.isAgent n = true → plain → r = .telPermBlocks → fits → b.get .mbxSessState x.i ≠ 0 →
      applied s src (exec (.permWrite src addr d) s) (b.put .telPermBlocks v x.i))
    ∧ (b.isAgent n = false → plain → r = .telPermBlocks → fits → turnedAway s src (exec (.permWrite src addr d) s) 4)
    ∧ (writer b src → hits a x .lckHrMin →
      answered s src (exec (.registerRead src addr) s) 0 (b.get .lckHrMin) (b.put .lckHrMin 0xFFF))

/-- R619, R621 to R625, R630 to R632, R662: counters cleared, profiles dumped and read out, monitors sampled and cleared, and
the end of a reset. -/
def Obligations.TelemetryUpkeep : Prop :=
  ∀ (s : State) (src : Src) (h : Half) (blk : Fin 21) (m : Fin 32) (j : Fin 16) (bank : Fin 4) (x : Latched)
    (rest : List Latched) (rs : ResetSt) (t : List ResetSt) (v : Int) (w : Nat), s.ok →
    let b := s.box
    let bn (k : Nat) := b.latchBank k
    let took := toSigned 32 (ofSigned 32 v)
    let quiet : Prop := b.getS .telMonAlarmLo h m ≤ took ∧ took ≤ b.getS .telMonAlarmHi h m
    (writer b src → nextWith (exec (.counterClear src h blk) s) (fun u => sameMem s u ∧ u.box.get .telClr h blk = 1
      ∧ 32 * h.val + blk.val ∈ u.box.tel.clr ∧ sameElse s u .telClr h blk 0 ∧ sent s u [.answer src.toNat 0 0]))
    ∧ (b.dumpDue b.lap j = true → (bn 0).isSome = true → (bn 1).isSome = true → nextWith (exec (.dumpPeriod j) s) (fun u =>
      sameMem s u ∧ u.box.out = b.out ∧ u.box.tel.fired.find j = some b.lap
        ∧ ∀ k < 2, ∀ i, bn k = some i → ∃ y, u.box.tel.banks.at i [] = [y] ∧ y.j = j.val ∧ y.cal = false
          ∧ y.lap = b.lap ∧ y.ns = b.ns ∧ y.entries = b.dumpEntries k j))
    ∧ (b.dumpDue b.lap j = false → exec (.dumpPeriod j) s = .next s)
    ∧ (b.tel.banks.at bank [] = x :: rest → nextWith (exec (.dumpReadoutDone bank) s) (fun u => u.pending = s.pending
      ∧ u.box.tel.banks.at bank [] = rest
      ∧ u.box.get .telDumpSeq (bank / 2) = (b.get .telDumpSeq (bank / 2) + 1) % 2 ^ 32
      ∧ (b.bit .telDumpTarget 0 x.j = true → ∃ bytes : List Byte,
        u.box.get .telDumpWr (bank / 2) = (b.get .telDumpWr (bank / 2) + bytes.length) % 2 ^ 30
          ∧ bytes.length = 64 + 16 * x.entries.length ∧ bytes.take 4 = [0x4B, 0x43, 0x44, 0x31])))
    ∧ (b.darkHalf h = false → b.halfReset h = false → b.get .telMonKind h m = 1 →
      b.monRead (b.get .telMonSrc h m) = some (v, w) → quiet → b.get .telMonCnt h m < 2 ^ 48 - 1 →
      nextWith (exec (.monitorSample h m) s) (fun u => sameMem s u ∧ u.box.out = b.out
        ∧ u.box.get .telMonCnt h m = b.get .telMonCnt h m + 1 ∧ u.box.getS .telMonMin h m = min (b.getS .telMonMin h m) took
        ∧ u.box.getS .telMonMax h m = max (b.getS .telMonMax h m) took
        ∧ sameRegs s u [.telMonCnt, .telMonMin, .telMonMax, .telMonBin]))
    ∧ (writer b src → nextWith (exec (.monitorClear src h m) s) (fun u => sameMem s u ∧ u.box.get .telMonCnt h m = 0
      ∧ u.box.getS .telMonMin h m = 2 ^ 31 - 1 ∧ u.box.getS .telMonMax h m = -(2 ^ 31)
      ∧ (∀ q, u.box.get .telMonBin h m q = 0) ∧ sameRegs s u [.telMonCnt, .telMonMin, .telMonMax, .telMonBin]
      ∧ sent s u [.answer src.toNat 0 0]))
    ∧ (b.mar.resets = rs :: t → b.mar.late = [] → nextWith (exec .resetExit s) (fun u => u.pending = s.pending
      ∧ u.box.mar.resets = t ∧ u.box.now = b.now
      ∧ (rs.domain = 1 → (u.box.lane (rs.inst / 10) (rs.inst % 10)).inReset = false)))
    ∧ (b.mar.resets = [] → b.mar.late = [] → exec .resetExit s = .next s)

/-- R52, R57, R638 to R645, R657, R677: start-up steps, the clock's acquisition, wake, interrupt causes; and a lap boundary with
an empty calendar: time stands at its first tick, and an accepted write of a lap-aligned field has taken effect. -/
def Obligations.StartUpAndLaps : Prop :=
  ∀ (s : State) (j : Fin 12) (ok : Bool) (uf w : BitVec 16) (v l : Nat), s.ok →
    let b := s.box
    let entered : Prop := b.start.entered.contains j.val = true
    let start := (b.lap + 1) * b.lapLen * 2 ^ 40
    (b.stepDone j = false → ¬entered → b.stepEntry j = true → nextWith (exec (.startupStep j ok uf) s) (fun u =>
      u.pending = s.pending ∧ j.val ∈ u.box.start.entered ∧ u.box.start.done = b.start.done))
    ∧ (b.stepDone j = false → entered → b.stepOver j = true → nextWith (exec (.startupStep j true uf) s) (fun u =>
      sameMem s u ∧ u.box.out = b.out ∧ u.box.stepDone j = true ∧ (j = 2 → u.box.get .secHuCapUf = uf.toNat)
        ∧ sameRegs s u [.secHuCapUf, .fwmStartMs, .fwmStartStep]))
    ∧ (b.stepDone j = false → entered → 1 < j.val → nextWith (exec (.startupStep j false uf) s) (fun u => sameMem s u
      ∧ u.box.bit .fwmStartFail (j - 1) = true ∧ bitAt u.box.start.causes 2 = true
      ∧ (8 ≤ j.val → u.box.start.done = b.start.done)))
    ∧ (b.stepDone j = true → exec (.startupStep j ok uf) s = .next s)
    ∧ nextWith (exec .fabricTimeAcquire s) (fun u => sameMem s u ∧ u.box.acquired = true
      ∧ (b.start.entered.contains 8 = true → u.box.stepDone 8 = true))
    ∧ (b.get .pwrPsState % 8 = 4 → nextWith (exec .wake s) (fun u => sameMem s u ∧ u.box.out = b.out
      ∧ u.box.get .pwrPsState = 0 ∧ u.box.start.done = [1, 2] ∧ u.box.get .fwmStartStep = 3))
    ∧ (b.get .pwrPsState % 8 ≠ 4 → exec .wake s = .next s)
    ∧ nextWith (exec (.interruptCauseClear w) s) (fun u => sameMem s u ∧ u.box.regs = b.regs ∧ u.box.out = b.out
      ∧ ∀ n, bitAt u.box.start.causes n = true ↔ bitAt b.start.causes n = true ∧ bitAt w.toNat n = false)
    ∧ (b.tim.load = none → b.tim.step = none → 0 < b.get .timIncr → start + b.get .timIncr ≤ 2 ^ 104 →
      (∀ e < 64, b.get .timCalState e ≠ 1) → (∀ n < 16, b.cgState n ≠ cgInDoubt) → b.mar.resets = [] →
      b.pwr.armed = none → b.psWanted = b.get .pwrPsState % 8 →
      nextWith (exec .lapBoundary s) (fun u => u.pending = s.pending ∧ start ≤ u.box.now.toNat
        ∧ u.box.now.toNat < start + b.get .timIncr
        ∧ (b.tim.shadow = [(⟨.timVoteCloseNs, 0, 0, 0⟩, v, l)] → l ≤ u.box.tim.lapDone →
          u.box.get .timVoteCloseNs = v % 2 ^ 24 ∧ u.box.tim.shadow = [])))

/-! ### Rules of the whole device -/

/-- A step takes the command at the front of the queue and runs it with the queue's rest; on an empty queue fabric time
advances by one tick where no lap begins (the idle tick is the model's choice: DESIGN CHOICE, log 1). -/
def Obligations.StepRunsTheFront : Prop :=
  ∀ (c : Instr) (s : State),
    (∀ rest, s.pending = c :: rest → step s = exec c { s with pending := rest })
    ∧ step { s with pending := c :: s.pending } = exec c s
    ∧ (s.pending = [] → s.box.tim.load = none → s.box.tim.step = none →
      (s.box.now.toNat + s.box.get .timIncr) / 2 ^ 40 / s.box.lapLen ≤ s.box.tim.lapDone →
      nextWith (step s) (fun u => u.box.now = s.box.now + BitVec.ofNat 104 (s.box.get .timIncr) ∧ u.pending = []))

/-- No command stops the device: each answers a next state, with the queue as it was. -/
def Obligations.EveryCommandCompletes : Prop :=
  ∀ (c : Instr) (s : State), ∃ t, exec c s = .next t ∧ t.pending = s.pending ∧ t.box.ws = []

/-- R48, R648: the device after reset: time, memory and queue empty, and registers at the values of the register tables. -/
def Obligations.ResetState : Prop :=
  let b := State.reset.box
  State.reset.ok ∧ State.reset.pending = [] ∧ b.now = 0 ∧ b.lap = 0 ∧ b.lapLen = 16384
    ∧ (∀ a, Memory.readByte State.reset.mem a = 0) ∧ (∀ r i j k, b.get r i j k = r.resetAt i j k)
    ∧ b.get .timIncr = 0xCCCCCCCCCD ∧ b.get .mbxOmpPort = 19283 ∧ (∀ n, b.get .timCgVoteGrp n = 0xFFFF)
    ∧ (∀ c t, t < 16 → b.get .rlyTState c t = 0) ∧ (∀ f s, b.lnState f s = lnDark) ∧ b.get .fwmStartStep = 1

/-- The memory between commands keeps its canonical form, and no write of a command is left unfinished: whatever the command. -/
def Obligations.StepKeepsMemoryCanonical : Prop :=
  ∀ (s t : State), s.ok → step s = .next t → t.ok

/-- R647, R650: every word of every register instance has its address, and every mapped address is that of a register word;
with the three addresses that the specification works out. -/
def Obligations.RegisterAddresses : Prop :=
  (∀ (r : Reg) (i j k w : Nat), indexOk r.info.dims[0]? i → indexOk r.info.dims[1]? j → indexOk r.info.dims[2]? k → w < r.words →
    ∃ x, locate (r.addr i j k + 8 * w) = some x ∧ r ∈ x.regs ∧ x.i = i ∧ x.j = j ∧ x.k = k ∧ x.word = w)
  ∧ (∀ (a : Nat) (x : Hit), locate a = some x → x.regs ≠ [] ∧ ∀ r ∈ x.regs, r.addr x.i x.j x.k + 8 * x.word = a)
  ∧ Reg.addr .prtLaneLolDbm 37 5 = 0x0000110012A8 ∧ Reg.addr .prtLaneRplNakRx 37 5 = 0x000019004AA8
  ∧ Reg.addr .timCalLog 3 = 0x00110E000030

/-- R190, R191: spraying chooses a member of the set whose lanes pass every exclusion, and chooses one whenever a member of the
sprayed ports that is not striped has an eligible lane on the arrival half. -/
def Obligations.SprayChoosesEligible : Prop :=
  ∀ (b v : Box) (p rung set_ pairs key : Nat) (h : Half) (op : Option Nat),
    let r := (b.spray v p h rung set_ op pairs key).1
    (∀ l, r = some l → ∃ n w, (n, w) ∈ v.members set_ ∧ (v.striped n = false → fibreOf l * 4 + colourOf l / 2 = n
        ∧ v.eligible l rung op = true)
      ∧ (v.striped n = true → l = 2 * ((v.portSpan n).head?).getD n
        ∧ ∀ m ∈ (v.portSpan n).flatMap portLanes, v.eligible m rung op = true))
    ∧ ((∃ n w, (n, w) ∈ v.members set_ ∧ bitAt pairs (n % 4) = true ∧ v.striped n = false ∧ v.eligible (2 * n + h) rung op = true) →
      r ≠ none)

/-- R229, R231: a link tag carries its marker, rung and sequence number, and passes its check; with any one bit wrong it fails. -/
def Obligations.LinkTagsDetectErrors : Prop :=
  ∀ rung < 4, ∀ seq < 4096,
    let t := linkTag rung seq
    tagOk t = true ∧ t < 2 ^ 24 ∧ bits t 23 20 = 0xA ∧ bits t 19 18 = rung ∧ bits t 11 0 = seq
      ∧ ∀ n < 24, tagOk (t ^^^ 2 ^ n) = false

/-- R209: an account admits a frame when its cells fit in the unused reserve, or when the shared cells it holds are fewer than
2^a times the free shared cells, formed by a shift; a frame built for one of its rung or above is refused (R222). -/
def Obligations.AdmissionToBuffers : Prop :=
  ∀ (b : Box) (l rung n : Nat) (a : Nat) (k : Nat) (h : Half) (fr : Held) (refs : Nat),
    let depth := b.get .bufIqDepth l rung
    let rsv := b.get .bufRsvIng rung
    let free := b.sharedFree (halfOf l)
    let shared := depth - rsv
    let built := b.build h fr refs (some k)
    (a < 16 → a ≠ 8 → b.get .bufIqAlpha l rung = a →
      (b.ingAdmits l rung n = true ↔ depth + n ≤ rsv ∨ (if a < 8 then shared < free <<< a else shared < free >>> (16 - a))))
    ∧ (b.get .bufIqAlpha l rung = 8 → b.get .bufAlphaIng rung = a → a < 8 →
      (b.ingAdmits l rung n = true ↔ depth + n ≤ rsv ∨ shared < free <<< a))
    ∧ (b.ingAdmits l 0 n = true ↔ (b.ingCharge l 0 n).isSome = true)
    ∧ (fr.rung ≤ k → ¬(fr.rung = 3 ∧ k = 3) → built.1 = none ∧ built.2.buf = b.buf
      ∧ (b.get .bufLadderErr h < 2 ^ 32 - 1 → built.2.get .bufLadderErr h = b.get .bufLadderErr h + 1))
    ∧ (k < fr.rung ∨ (fr.rung = 3 ∧ k = 3) → refs ≤ 4095 → built.2.get .bufLadderErr h = b.get .bufLadderErr h)

/-- R239: the scheduler of a lane picks the highest rung whose queue has a head frame, whose queue, lane and port pacers permit
it, that the partner has not paused and the replay limit allows. -/
def Obligations.SchedulerPriority : Prop :=
  ∀ (b : Box) (l : Nat),
    let f := fibreOf l
    let s := b.slotOf l
    let room : Prop := b.retryOn f s = true → (b.rty f s).unacked.length < 1024 ∧ (b.rty f s).replay = []
    let may (r : Nat) : Prop := b.eq l r ≠ [] ∧ b.permits (lr l r) = true ∧ b.permits (lnKey l) = true
      ∧ b.permits (b.ptKey l) = true ∧ b.paused l r = false ∧ (r = 0 ∨ room)
    (∀ r, b.pickRung l = some r ↔ r < 4 ∧ may r ∧ ∀ q, r < q → q < 4 → ¬may q)
    ∧ (b.pickRung l = none ↔ ∀ r < 4, ¬may r)
end

