-- ==== Sys2Proof/Laws/State.lean ====
section
/-!
SUPPORT. What the named operations leave alone, field by field, and what reading a register after a write gives.
-/
namespace Sys2Proof.Machine

variable (b : Box)

/-! ### `Box.put` -/

@[simp] theorem Box.put_now (r : Reg) (v i j k : Nat) : (b.put r v i j k).now = b.now := rfl
@[simp] theorem Box.put_free (r : Reg) (v i j k : Nat) : (b.put r v i j k).free = b.free := rfl
@[simp] theorem Box.put_out (r : Reg) (v i j k : Nat) : (b.put r v i j k).out = b.out := rfl
@[simp] theorem Box.put_lanes (r : Reg) (v i j k : Nat) : (b.put r v i j k).lanes = b.lanes := rfl
@[simp] theorem Box.put_retry (r : Reg) (v i j k : Nat) : (b.put r v i j k).retry = b.retry := rfl
@[simp] theorem Box.put_opt (r : Reg) (v i j k : Nat) : (b.put r v i j k).opt = b.opt := rfl
@[simp] theorem Box.put_fwd (r : Reg) (v i j k : Nat) : (b.put r v i j k).fwd = b.fwd := rfl
@[simp] theorem Box.put_buf (r : Reg) (v i j k : Nat) : (b.put r v i j k).buf = b.buf := rfl
@[simp] theorem Box.put_pac (r : Reg) (v i j k : Nat) : (b.put r v i j k).pac = b.pac := rfl
@[simp] theorem Box.put_tim (r : Reg) (v i j k : Nat) : (b.put r v i j k).tim = b.tim := rfl
@[simp] theorem Box.put_mar (r : Reg) (v i j k : Nat) : (b.put r v i j k).mar = b.mar := rfl
@[simp] theorem Box.put_mbx (r : Reg) (v i j k : Nat) : (b.put r v i j k).mbx = b.mbx := rfl
@[simp] theorem Box.put_rly (r : Reg) (v i j k : Nat) : (b.put r v i j k).rly = b.rly := rfl
@[simp] theorem Box.put_col (r : Reg) (v i j k : Nat) : (b.put r v i j k).col = b.col := rfl
@[simp] theorem Box.put_spr (r : Reg) (v i j k : Nat) : (b.put r v i j k).spr = b.spr := rfl
@[simp] theorem Box.put_emb (r : Reg) (v i j k : Nat) : (b.put r v i j k).emb = b.emb := rfl
@[simp] theorem Box.put_memc (r : Reg) (v i j k : Nat) : (b.put r v i j k).memc = b.memc := rfl
@[simp] theorem Box.put_ddl (r : Reg) (v i j k : Nat) : (b.put r v i j k).ddl = b.ddl := rfl
@[simp] theorem Box.put_gst (r : Reg) (v i j k : Nat) : (b.put r v i j k).gst = b.gst := rfl
@[simp] theorem Box.put_fwm (r : Reg) (v i j k : Nat) : (b.put r v i j k).fwm = b.fwm := rfl
@[simp] theorem Box.put_sec (r : Reg) (v i j k : Nat) : (b.put r v i j k).sec = b.sec := rfl
@[simp] theorem Box.put_pwr (r : Reg) (v i j k : Nat) : (b.put r v i j k).pwr = b.pwr := rfl
@[simp] theorem Box.put_tel (r : Reg) (v i j k : Nat) : (b.put r v i j k).tel = b.tel := rfl
@[simp] theorem Box.put_start (r : Reg) (v i j k : Nat) : (b.put r v i j k).start = b.start := rfl
@[simp] theorem Box.put_ws (r : Reg) (v i j k : Nat) : (b.put r v i j k).ws = b.ws := rfl

/-! ### `Box.emit` -/

@[simp] theorem Box.emit_regs (e : Emit) : (b.emit e).regs = b.regs := rfl
@[simp] theorem Box.emit_now (e : Emit) : (b.emit e).now = b.now := rfl
@[simp] theorem Box.emit_free (e : Emit) : (b.emit e).free = b.free := rfl
@[simp] theorem Box.emit_lanes (e : Emit) : (b.emit e).lanes = b.lanes := rfl
@[simp] theorem Box.emit_retry (e : Emit) : (b.emit e).retry = b.retry := rfl
@[simp] theorem Box.emit_opt (e : Emit) : (b.emit e).opt = b.opt := rfl
@[simp] theorem Box.emit_fwd (e : Emit) : (b.emit e).fwd = b.fwd := rfl
@[simp] theorem Box.emit_buf (e : Emit) : (b.emit e).buf = b.buf := rfl
@[simp] theorem Box.emit_pac (e : Emit) : (b.emit e).pac = b.pac := rfl
@[simp] theorem Box.emit_tim (e : Emit) : (b.emit e).tim = b.tim := rfl
@[simp] theorem Box.emit_mar (e : Emit) : (b.emit e).mar = b.mar := rfl
@[simp] theorem Box.emit_mbx (e : Emit) : (b.emit e).mbx = b.mbx := rfl
@[simp] theorem Box.emit_rly (e : Emit) : (b.emit e).rly = b.rly := rfl
@[simp] theorem Box.emit_col (e : Emit) : (b.emit e).col = b.col := rfl
@[simp] theorem Box.emit_spr (e : Emit) : (b.emit e).spr = b.spr := rfl
@[simp] theorem Box.emit_emb (e : Emit) : (b.emit e).emb = b.emb := rfl
@[simp] theorem Box.emit_memc (e : Emit) : (b.emit e).memc = b.memc := rfl
@[simp] theorem Box.emit_ddl (e : Emit) : (b.emit e).ddl = b.ddl := rfl
@[simp] theorem Box.emit_gst (e : Emit) : (b.emit e).gst = b.gst := rfl
@[simp] theorem Box.emit_fwm (e : Emit) : (b.emit e).fwm = b.fwm := rfl
@[simp] theorem Box.emit_sec (e : Emit) : (b.emit e).sec = b.sec := rfl
@[simp] theorem Box.emit_pwr (e : Emit) : (b.emit e).pwr = b.pwr := rfl
@[simp] theorem Box.emit_tel (e : Emit) : (b.emit e).tel = b.tel := rfl
@[simp] theorem Box.emit_start (e : Emit) : (b.emit e).start = b.start := rfl
@[simp] theorem Box.emit_ws (e : Emit) : (b.emit e).ws = b.ws := rfl

/-! ### `Box.reply` -/

@[simp] theorem Box.reply_regs (src : Src) (n v : Nat) : (b.reply src n v).regs = b.regs := rfl
@[simp] theorem Box.reply_now (src : Src) (n v : Nat) : (b.reply src n v).now = b.now := rfl
@[simp] theorem Box.reply_free (src : Src) (n v : Nat) : (b.reply src n v).free = b.free := rfl
@[simp] theorem Box.reply_lanes (src : Src) (n v : Nat) : (b.reply src n v).lanes = b.lanes := rfl
@[simp] theorem Box.reply_retry (src : Src) (n v : Nat) : (b.reply src n v).retry = b.retry := rfl
@[simp] theorem Box.reply_opt (src : Src) (n v : Nat) : (b.reply src n v).opt = b.opt := rfl
@[simp] theorem Box.reply_fwd (src : Src) (n v : Nat) : (b.reply src n v).fwd = b.fwd := rfl
@[simp] theorem Box.reply_buf (src : Src) (n v : Nat) : (b.reply src n v).buf = b.buf := rfl
@[simp] theorem Box.reply_pac (src : Src) (n v : Nat) : (b.reply src n v).pac = b.pac := rfl
@[simp] theorem Box.reply_tim (src : Src) (n v : Nat) : (b.reply src n v).tim = b.tim := rfl
@[simp] theorem Box.reply_mar (src : Src) (n v : Nat) : (b.reply src n v).mar = b.mar := rfl
@[simp] theorem Box.reply_mbx (src : Src) (n v : Nat) : (b.reply src n v).mbx = b.mbx := rfl
@[simp] theorem Box.reply_rly (src : Src) (n v : Nat) : (b.reply src n v).rly = b.rly := rfl
@[simp] theorem Box.reply_col (src : Src) (n v : Nat) : (b.reply src n v).col = b.col := rfl
@[simp] theorem Box.reply_spr (src : Src) (n v : Nat) : (b.reply src n v).spr = b.spr := rfl
@[simp] theorem Box.reply_emb (src : Src) (n v : Nat) : (b.reply src n v).emb = b.emb := rfl
@[simp] theorem Box.reply_memc (src : Src) (n v : Nat) : (b.reply src n v).memc = b.memc := rfl
@[simp] theorem Box.reply_ddl (src : Src) (n v : Nat) : (b.reply src n v).ddl = b.ddl := rfl
@[simp] theorem Box.reply_gst (src : Src) (n v : Nat) : (b.reply src n v).gst = b.gst := rfl
@[simp] theorem Box.reply_fwm (src : Src) (n v : Nat) : (b.reply src n v).fwm = b.fwm := rfl
@[simp] theorem Box.reply_sec (src : Src) (n v : Nat) : (b.reply src n v).sec = b.sec := rfl
@[simp] theorem Box.reply_pwr (src : Src) (n v : Nat) : (b.reply src n v).pwr = b.pwr := rfl
@[simp] theorem Box.reply_tel (src : Src) (n v : Nat) : (b.reply src n v).tel = b.tel := rfl
@[simp] theorem Box.reply_start (src : Src) (n v : Nat) : (b.reply src n v).start = b.start := rfl
@[simp] theorem Box.reply_ws (src : Src) (n v : Nat) : (b.reply src n v).ws = b.ws := rfl

/-! ### `Box.write` -/

@[simp] theorem Box.write_regs (w : MemWrite) : (b.write w).regs = b.regs := rfl
@[simp] theorem Box.write_now (w : MemWrite) : (b.write w).now = b.now := rfl
@[simp] theorem Box.write_free (w : MemWrite) : (b.write w).free = b.free := rfl
@[simp] theorem Box.write_out (w : MemWrite) : (b.write w).out = b.out := rfl
@[simp] theorem Box.write_lanes (w : MemWrite) : (b.write w).lanes = b.lanes := rfl
@[simp] theorem Box.write_retry (w : MemWrite) : (b.write w).retry = b.retry := rfl
@[simp] theorem Box.write_opt (w : MemWrite) : (b.write w).opt = b.opt := rfl
@[simp] theorem Box.write_fwd (w : MemWrite) : (b.write w).fwd = b.fwd := rfl
@[simp] theorem Box.write_buf (w : MemWrite) : (b.write w).buf = b.buf := rfl
@[simp] theorem Box.write_pac (w : MemWrite) : (b.write w).pac = b.pac := rfl
@[simp] theorem Box.write_tim (w : MemWrite) : (b.write w).tim = b.tim := rfl
@[simp] theorem Box.write_mar (w : MemWrite) : (b.write w).mar = b.mar := rfl
@[simp] theorem Box.write_mbx (w : MemWrite) : (b.write w).mbx = b.mbx := rfl
@[simp] theorem Box.write_rly (w : MemWrite) : (b.write w).rly = b.rly := rfl
@[simp] theorem Box.write_col (w : MemWrite) : (b.write w).col = b.col := rfl
@[simp] theorem Box.write_spr (w : MemWrite) : (b.write w).spr = b.spr := rfl
@[simp] theorem Box.write_emb (w : MemWrite) : (b.write w).emb = b.emb := rfl
@[simp] theorem Box.write_memc (w : MemWrite) : (b.write w).memc = b.memc := rfl
@[simp] theorem Box.write_ddl (w : MemWrite) : (b.write w).ddl = b.ddl := rfl
@[simp] theorem Box.write_gst (w : MemWrite) : (b.write w).gst = b.gst := rfl
@[simp] theorem Box.write_fwm (w : MemWrite) : (b.write w).fwm = b.fwm := rfl
@[simp] theorem Box.write_sec (w : MemWrite) : (b.write w).sec = b.sec := rfl
@[simp] theorem Box.write_pwr (w : MemWrite) : (b.write w).pwr = b.pwr := rfl
@[simp] theorem Box.write_tel (w : MemWrite) : (b.write w).tel = b.tel := rfl
@[simp] theorem Box.write_start (w : MemWrite) : (b.write w).start = b.start := rfl

/-! ### `Box.poke` -/

@[simp] theorem Box.poke_regs (a : Nat) (vs : List Byte) : (b.poke a vs).regs = b.regs := rfl
@[simp] theorem Box.poke_now (a : Nat) (vs : List Byte) : (b.poke a vs).now = b.now := rfl
@[simp] theorem Box.poke_free (a : Nat) (vs : List Byte) : (b.poke a vs).free = b.free := rfl
@[simp] theorem Box.poke_out (a : Nat) (vs : List Byte) : (b.poke a vs).out = b.out := rfl
@[simp] theorem Box.poke_lanes (a : Nat) (vs : List Byte) : (b.poke a vs).lanes = b.lanes := rfl
@[simp] theorem Box.poke_retry (a : Nat) (vs : List Byte) : (b.poke a vs).retry = b.retry := rfl
@[simp] theorem Box.poke_opt (a : Nat) (vs : List Byte) : (b.poke a vs).opt = b.opt := rfl
@[simp] theorem Box.poke_fwd (a : Nat) (vs : List Byte) : (b.poke a vs).fwd = b.fwd := rfl
@[simp] theorem Box.poke_buf (a : Nat) (vs : List Byte) : (b.poke a vs).buf = b.buf := rfl
@[simp] theorem Box.poke_pac (a : Nat) (vs : List Byte) : (b.poke a vs).pac = b.pac := rfl
@[simp] theorem Box.poke_tim (a : Nat) (vs : List Byte) : (b.poke a vs).tim = b.tim := rfl
@[simp] theorem Box.poke_mar (a : Nat) (vs : List Byte) : (b.poke a vs).mar = b.mar := rfl
@[simp] theorem Box.poke_mbx (a : Nat) (vs : List Byte) : (b.poke a vs).mbx = b.mbx := rfl
@[simp] theorem Box.poke_rly (a : Nat) (vs : List Byte) : (b.poke a vs).rly = b.rly := rfl
@[simp] theorem Box.poke_col (a : Nat) (vs : List Byte) : (b.poke a vs).col = b.col := rfl
@[simp] theorem Box.poke_spr (a : Nat) (vs : List Byte) : (b.poke a vs).spr = b.spr := rfl
@[simp] theorem Box.poke_emb (a : Nat) (vs : List Byte) : (b.poke a vs).emb = b.emb := rfl
@[simp] theorem Box.poke_memc (a : Nat) (vs : List Byte) : (b.poke a vs).memc = b.memc := rfl
@[simp] theorem Box.poke_ddl (a : Nat) (vs : List Byte) : (b.poke a vs).ddl = b.ddl := rfl
@[simp] theorem Box.poke_gst (a : Nat) (vs : List Byte) : (b.poke a vs).gst = b.gst := rfl
@[simp] theorem Box.poke_fwm (a : Nat) (vs : List Byte) : (b.poke a vs).fwm = b.fwm := rfl
@[simp] theorem Box.poke_sec (a : Nat) (vs : List Byte) : (b.poke a vs).sec = b.sec := rfl
@[simp] theorem Box.poke_pwr (a : Nat) (vs : List Byte) : (b.poke a vs).pwr = b.pwr := rfl
@[simp] theorem Box.poke_tel (a : Nat) (vs : List Byte) : (b.poke a vs).tel = b.tel := rfl
@[simp] theorem Box.poke_start (a : Nat) (vs : List Byte) : (b.poke a vs).start = b.start := rfl

/-! ### `Box.setLane` -/

@[simp] theorem Box.setLane_regs (f s : Nat) (g : LaneSt → LaneSt) : (b.setLane f s g).regs = b.regs := rfl
@[simp] theorem Box.setLane_now (f s : Nat) (g : LaneSt → LaneSt) : (b.setLane f s g).now = b.now := rfl
@[simp] theorem Box.setLane_free (f s : Nat) (g : LaneSt → LaneSt) : (b.setLane f s g).free = b.free := rfl
@[simp] theorem Box.setLane_out (f s : Nat) (g : LaneSt → LaneSt) : (b.setLane f s g).out = b.out := rfl
@[simp] theorem Box.setLane_retry (f s : Nat) (g : LaneSt → LaneSt) : (b.setLane f s g).retry = b.retry := rfl
@[simp] theorem Box.setLane_opt (f s : Nat) (g : LaneSt → LaneSt) : (b.setLane f s g).opt = b.opt := rfl
@[simp] theorem Box.setLane_fwd (f s : Nat) (g : LaneSt → LaneSt) : (b.setLane f s g).fwd = b.fwd := rfl
@[simp] theorem Box.setLane_buf (f s : Nat) (g : LaneSt → LaneSt) : (b.setLane f s g).buf = b.buf := rfl
@[simp] theorem Box.setLane_pac (f s : Nat) (g : LaneSt → LaneSt) : (b.setLane f s g).pac = b.pac := rfl
@[simp] theorem Box.setLane_tim (f s : Nat) (g : LaneSt → LaneSt) : (b.setLane f s g).tim = b.tim := rfl
@[simp] theorem Box.setLane_mar (f s : Nat) (g : LaneSt → LaneSt) : (b.setLane f s g).mar = b.mar := rfl
@[simp] theorem Box.setLane_mbx (f s : Nat) (g : LaneSt → LaneSt) : (b.setLane f s g).mbx = b.mbx := rfl
@[simp] theorem Box.setLane_rly (f s : Nat) (g : LaneSt → LaneSt) : (b.setLane f s g).rly = b.rly := rfl
@[simp] theorem Box.setLane_col (f s : Nat) (g : LaneSt → LaneSt) : (b.setLane f s g).col = b.col := rfl
@[simp] theorem Box.setLane_spr (f s : Nat) (g : LaneSt → LaneSt) : (b.setLane f s g).spr = b.spr := rfl
@[simp] theorem Box.setLane_emb (f s : Nat) (g : LaneSt → LaneSt) : (b.setLane f s g).emb = b.emb := rfl
@[simp] theorem Box.setLane_memc (f s : Nat) (g : LaneSt → LaneSt) : (b.setLane f s g).memc = b.memc := rfl
@[simp] theorem Box.setLane_ddl (f s : Nat) (g : LaneSt → LaneSt) : (b.setLane f s g).ddl = b.ddl := rfl
@[simp] theorem Box.setLane_gst (f s : Nat) (g : LaneSt → LaneSt) : (b.setLane f s g).gst = b.gst := rfl
@[simp] theorem Box.setLane_fwm (f s : Nat) (g : LaneSt → LaneSt) : (b.setLane f s g).fwm = b.fwm := rfl
@[simp] theorem Box.setLane_sec (f s : Nat) (g : LaneSt → LaneSt) : (b.setLane f s g).sec = b.sec := rfl
@[simp] theorem Box.setLane_pwr (f s : Nat) (g : LaneSt → LaneSt) : (b.setLane f s g).pwr = b.pwr := rfl
@[simp] theorem Box.setLane_tel (f s : Nat) (g : LaneSt → LaneSt) : (b.setLane f s g).tel = b.tel := rfl
@[simp] theorem Box.setLane_start (f s : Nat) (g : LaneSt → LaneSt) : (b.setLane f s g).start = b.start := rfl
@[simp] theorem Box.setLane_ws (f s : Nat) (g : LaneSt → LaneSt) : (b.setLane f s g).ws = b.ws := rfl

/-! ### `Box.setBit` -/

@[simp] theorem Box.setBit_now (r : Reg) (n i j k : Nat) : (b.setBit r n i j k).now = b.now := rfl
@[simp] theorem Box.setBit_free (r : Reg) (n i j k : Nat) : (b.setBit r n i j k).free = b.free := rfl
@[simp] theorem Box.setBit_out (r : Reg) (n i j k : Nat) : (b.setBit r n i j k).out = b.out := rfl
@[simp] theorem Box.setBit_lanes (r : Reg) (n i j k : Nat) : (b.setBit r n i j k).lanes = b.lanes := rfl
@[simp] theorem Box.setBit_retry (r : Reg) (n i j k : Nat) : (b.setBit r n i j k).retry = b.retry := rfl
@[simp] theorem Box.setBit_opt (r : Reg) (n i j k : Nat) : (b.setBit r n i j k).opt = b.opt := rfl
@[simp] theorem Box.setBit_fwd (r : Reg) (n i j k : Nat) : (b.setBit r n i j k).fwd = b.fwd := rfl
@[simp] theorem Box.setBit_buf (r : Reg) (n i j k : Nat) : (b.setBit r n i j k).buf = b.buf := rfl
@[simp] theorem Box.setBit_pac (r : Reg) (n i j k : Nat) : (b.setBit r n i j k).pac = b.pac := rfl
@[simp] theorem Box.setBit_tim (r : Reg) (n i j k : Nat) : (b.setBit r n i j k).tim = b.tim := rfl
@[simp] theorem Box.setBit_mar (r : Reg) (n i j k : Nat) : (b.setBit r n i j k).mar = b.mar := rfl
@[simp] theorem Box.setBit_mbx (r : Reg) (n i j k : Nat) : (b.setBit r n i j k).mbx = b.mbx := rfl
@[simp] theorem Box.setBit_rly (r : Reg) (n i j k : Nat) : (b.setBit r n i j k).rly = b.rly := rfl
@[simp] theorem Box.setBit_col (r : Reg) (n i j k : Nat) : (b.setBit r n i j k).col = b.col := rfl
@[simp] theorem Box.setBit_spr (r : Reg) (n i j k : Nat) : (b.setBit r n i j k).spr = b.spr := rfl
@[simp] theorem Box.setBit_emb (r : Reg) (n i j k : Nat) : (b.setBit r n i j k).emb = b.emb := rfl
@[simp] theorem Box.setBit_memc (r : Reg) (n i j k : Nat) : (b.setBit r n i j k).memc = b.memc := rfl
@[simp] theorem Box.setBit_ddl (r : Reg) (n i j k : Nat) : (b.setBit r n i j k).ddl = b.ddl := rfl
@[simp] theorem Box.setBit_gst (r : Reg) (n i j k : Nat) : (b.setBit r n i j k).gst = b.gst := rfl
@[simp] theorem Box.setBit_fwm (r : Reg) (n i j k : Nat) : (b.setBit r n i j k).fwm = b.fwm := rfl
@[simp] theorem Box.setBit_sec (r : Reg) (n i j k : Nat) : (b.setBit r n i j k).sec = b.sec := rfl
@[simp] theorem Box.setBit_pwr (r : Reg) (n i j k : Nat) : (b.setBit r n i j k).pwr = b.pwr := rfl
@[simp] theorem Box.setBit_tel (r : Reg) (n i j k : Nat) : (b.setBit r n i j k).tel = b.tel := rfl
@[simp] theorem Box.setBit_start (r : Reg) (n i j k : Nat) : (b.setBit r n i j k).start = b.start := rfl
@[simp] theorem Box.setBit_ws (r : Reg) (n i j k : Nat) : (b.setBit r n i j k).ws = b.ws := rfl

/-! ### `Box.clrBit` -/

@[simp] theorem Box.clrBit_now (r : Reg) (n i j k : Nat) : (b.clrBit r n i j k).now = b.now := rfl
@[simp] theorem Box.clrBit_free (r : Reg) (n i j k : Nat) : (b.clrBit r n i j k).free = b.free := rfl
@[simp] theorem Box.clrBit_out (r : Reg) (n i j k : Nat) : (b.clrBit r n i j k).out = b.out := rfl
@[simp] theorem Box.clrBit_lanes (r : Reg) (n i j k : Nat) : (b.clrBit r n i j k).lanes = b.lanes := rfl
@[simp] theorem Box.clrBit_retry (r : Reg) (n i j k : Nat) : (b.clrBit r n i j k).retry = b.retry := rfl
@[simp] theorem Box.clrBit_opt (r : Reg) (n i j k : Nat) : (b.clrBit r n i j k).opt = b.opt := rfl
@[simp] theorem Box.clrBit_fwd (r : Reg) (n i j k : Nat) : (b.clrBit r n i j k).fwd = b.fwd := rfl
@[simp] theorem Box.clrBit_buf (r : Reg) (n i j k : Nat) : (b.clrBit r n i j k).buf = b.buf := rfl
@[simp] theorem Box.clrBit_pac (r : Reg) (n i j k : Nat) : (b.clrBit r n i j k).pac = b.pac := rfl
@[simp] theorem Box.clrBit_tim (r : Reg) (n i j k : Nat) : (b.clrBit r n i j k).tim = b.tim := rfl
@[simp] theorem Box.clrBit_mar (r : Reg) (n i j k : Nat) : (b.clrBit r n i j k).mar = b.mar := rfl
@[simp] theorem Box.clrBit_mbx (r : Reg) (n i j k : Nat) : (b.clrBit r n i j k).mbx = b.mbx := rfl
@[simp] theorem Box.clrBit_rly (r : Reg) (n i j k : Nat) : (b.clrBit r n i j k).rly = b.rly := rfl
@[simp] theorem Box.clrBit_col (r : Reg) (n i j k : Nat) : (b.clrBit r n i j k).col = b.col := rfl
@[simp] theorem Box.clrBit_spr (r : Reg) (n i j k : Nat) : (b.clrBit r n i j k).spr = b.spr := rfl
@[simp] theorem Box.clrBit_emb (r : Reg) (n i j k : Nat) : (b.clrBit r n i j k).emb = b.emb := rfl
@[simp] theorem Box.clrBit_memc (r : Reg) (n i j k : Nat) : (b.clrBit r n i j k).memc = b.memc := rfl
@[simp] theorem Box.clrBit_ddl (r : Reg) (n i j k : Nat) : (b.clrBit r n i j k).ddl = b.ddl := rfl
@[simp] theorem Box.clrBit_gst (r : Reg) (n i j k : Nat) : (b.clrBit r n i j k).gst = b.gst := rfl
@[simp] theorem Box.clrBit_fwm (r : Reg) (n i j k : Nat) : (b.clrBit r n i j k).fwm = b.fwm := rfl
@[simp] theorem Box.clrBit_sec (r : Reg) (n i j k : Nat) : (b.clrBit r n i j k).sec = b.sec := rfl
@[simp] theorem Box.clrBit_pwr (r : Reg) (n i j k : Nat) : (b.clrBit r n i j k).pwr = b.pwr := rfl
@[simp] theorem Box.clrBit_tel (r : Reg) (n i j k : Nat) : (b.clrBit r n i j k).tel = b.tel := rfl
@[simp] theorem Box.clrBit_start (r : Reg) (n i j k : Nat) : (b.clrBit r n i j k).start = b.start := rfl
@[simp] theorem Box.clrBit_ws (r : Reg) (n i j k : Nat) : (b.clrBit r n i j k).ws = b.ws := rfl

/-! ### `Box.move` -/

@[simp] theorem Box.move_now (r : Reg) (d : Int) (i j k : Nat) : (b.move r d i j k).now = b.now := rfl
@[simp] theorem Box.move_free (r : Reg) (d : Int) (i j k : Nat) : (b.move r d i j k).free = b.free := rfl
@[simp] theorem Box.move_out (r : Reg) (d : Int) (i j k : Nat) : (b.move r d i j k).out = b.out := rfl
@[simp] theorem Box.move_lanes (r : Reg) (d : Int) (i j k : Nat) : (b.move r d i j k).lanes = b.lanes := rfl
@[simp] theorem Box.move_retry (r : Reg) (d : Int) (i j k : Nat) : (b.move r d i j k).retry = b.retry := rfl
@[simp] theorem Box.move_opt (r : Reg) (d : Int) (i j k : Nat) : (b.move r d i j k).opt = b.opt := rfl
@[simp] theorem Box.move_fwd (r : Reg) (d : Int) (i j k : Nat) : (b.move r d i j k).fwd = b.fwd := rfl
@[simp] theorem Box.move_buf (r : Reg) (d : Int) (i j k : Nat) : (b.move r d i j k).buf = b.buf := rfl
@[simp] theorem Box.move_pac (r : Reg) (d : Int) (i j k : Nat) : (b.move r d i j k).pac = b.pac := rfl
@[simp] theorem Box.move_tim (r : Reg) (d : Int) (i j k : Nat) : (b.move r d i j k).tim = b.tim := rfl
@[simp] theorem Box.move_mar (r : Reg) (d : Int) (i j k : Nat) : (b.move r d i j k).mar = b.mar := rfl
@[simp] theorem Box.move_mbx (r : Reg) (d : Int) (i j k : Nat) : (b.move r d i j k).mbx = b.mbx := rfl
@[simp] theorem Box.move_rly (r : Reg) (d : Int) (i j k : Nat) : (b.move r d i j k).rly = b.rly := rfl
@[simp] theorem Box.move_col (r : Reg) (d : Int) (i j k : Nat) : (b.move r d i j k).col = b.col := rfl
@[simp] theorem Box.move_spr (r : Reg) (d : Int) (i j k : Nat) : (b.move r d i j k).spr = b.spr := rfl
@[simp] theorem Box.move_emb (r : Reg) (d : Int) (i j k : Nat) : (b.move r d i j k).emb = b.emb := rfl
@[simp] theorem Box.move_memc (r : Reg) (d : Int) (i j k : Nat) : (b.move r d i j k).memc = b.memc := rfl
@[simp] theorem Box.move_ddl (r : Reg) (d : Int) (i j k : Nat) : (b.move r d i j k).ddl = b.ddl := rfl
@[simp] theorem Box.move_gst (r : Reg) (d : Int) (i j k : Nat) : (b.move r d i j k).gst = b.gst := rfl
@[simp] theorem Box.move_fwm (r : Reg) (d : Int) (i j k : Nat) : (b.move r d i j k).fwm = b.fwm := rfl
@[simp] theorem Box.move_sec (r : Reg) (d : Int) (i j k : Nat) : (b.move r d i j k).sec = b.sec := rfl
@[simp] theorem Box.move_pwr (r : Reg) (d : Int) (i j k : Nat) : (b.move r d i j k).pwr = b.pwr := rfl
@[simp] theorem Box.move_tel (r : Reg) (d : Int) (i j k : Nat) : (b.move r d i j k).tel = b.tel := rfl
@[simp] theorem Box.move_start (r : Reg) (d : Int) (i j k : Nat) : (b.move r d i j k).start = b.start := rfl
@[simp] theorem Box.move_ws (r : Reg) (d : Int) (i j k : Nat) : (b.move r d i j k).ws = b.ws := rfl

/-! ### `Box.fresh` and `Box.putFree` -/

@[simp] theorem Box.fresh_regs : b.fresh.2.regs = b.regs := rfl
@[simp] theorem Box.fresh_now : b.fresh.2.now = b.now := rfl
@[simp] theorem Box.fresh_out : b.fresh.2.out = b.out := rfl
@[simp] theorem Box.fresh_lanes : b.fresh.2.lanes = b.lanes := rfl
@[simp] theorem Box.fresh_retry : b.fresh.2.retry = b.retry := rfl
@[simp] theorem Box.fresh_opt : b.fresh.2.opt = b.opt := rfl
@[simp] theorem Box.fresh_fwd : b.fresh.2.fwd = b.fwd := rfl
@[simp] theorem Box.fresh_buf : b.fresh.2.buf = b.buf := rfl
@[simp] theorem Box.fresh_pac : b.fresh.2.pac = b.pac := rfl
@[simp] theorem Box.fresh_tim : b.fresh.2.tim = b.tim := rfl
@[simp] theorem Box.fresh_mar : b.fresh.2.mar = b.mar := rfl
@[simp] theorem Box.fresh_mbx : b.fresh.2.mbx = b.mbx := rfl
@[simp] theorem Box.fresh_rly : b.fresh.2.rly = b.rly := rfl
@[simp] theorem Box.fresh_col : b.fresh.2.col = b.col := rfl
@[simp] theorem Box.fresh_spr : b.fresh.2.spr = b.spr := rfl
@[simp] theorem Box.fresh_emb : b.fresh.2.emb = b.emb := rfl
@[simp] theorem Box.fresh_memc : b.fresh.2.memc = b.memc := rfl
@[simp] theorem Box.fresh_ddl : b.fresh.2.ddl = b.ddl := rfl
@[simp] theorem Box.fresh_gst : b.fresh.2.gst = b.gst := rfl
@[simp] theorem Box.fresh_fwm : b.fresh.2.fwm = b.fwm := rfl
@[simp] theorem Box.fresh_sec : b.fresh.2.sec = b.sec := rfl
@[simp] theorem Box.fresh_pwr : b.fresh.2.pwr = b.pwr := rfl
@[simp] theorem Box.fresh_tel : b.fresh.2.tel = b.tel := rfl
@[simp] theorem Box.fresh_start : b.fresh.2.start = b.start := rfl
@[simp] theorem Box.fresh_ws : b.fresh.2.ws = b.ws := rfl
@[simp] theorem Box.fresh_free : b.fresh.2.free = b.free + 1 := rfl

@[simp] theorem Box.putFree_now (r : Reg) (i j k : Nat) : (b.putFree r i j k).now = b.now := rfl
@[simp] theorem Box.putFree_out (r : Reg) (i j k : Nat) : (b.putFree r i j k).out = b.out := rfl
@[simp] theorem Box.putFree_lanes (r : Reg) (i j k : Nat) : (b.putFree r i j k).lanes = b.lanes := rfl
@[simp] theorem Box.putFree_retry (r : Reg) (i j k : Nat) : (b.putFree r i j k).retry = b.retry := rfl
@[simp] theorem Box.putFree_opt (r : Reg) (i j k : Nat) : (b.putFree r i j k).opt = b.opt := rfl
@[simp] theorem Box.putFree_fwd (r : Reg) (i j k : Nat) : (b.putFree r i j k).fwd = b.fwd := rfl
@[simp] theorem Box.putFree_buf (r : Reg) (i j k : Nat) : (b.putFree r i j k).buf = b.buf := rfl
@[simp] theorem Box.putFree_pac (r : Reg) (i j k : Nat) : (b.putFree r i j k).pac = b.pac := rfl
@[simp] theorem Box.putFree_tim (r : Reg) (i j k : Nat) : (b.putFree r i j k).tim = b.tim := rfl
@[simp] theorem Box.putFree_mar (r : Reg) (i j k : Nat) : (b.putFree r i j k).mar = b.mar := rfl
@[simp] theorem Box.putFree_mbx (r : Reg) (i j k : Nat) : (b.putFree r i j k).mbx = b.mbx := rfl
@[simp] theorem Box.putFree_rly (r : Reg) (i j k : Nat) : (b.putFree r i j k).rly = b.rly := rfl
@[simp] theorem Box.putFree_col (r : Reg) (i j k : Nat) : (b.putFree r i j k).col = b.col := rfl
@[simp] theorem Box.putFree_spr (r : Reg) (i j k : Nat) : (b.putFree r i j k).spr = b.spr := rfl
@[simp] theorem Box.putFree_emb (r : Reg) (i j k : Nat) : (b.putFree r i j k).emb = b.emb := rfl
@[simp] theorem Box.putFree_memc (r : Reg) (i j k : Nat) : (b.putFree r i j k).memc = b.memc := rfl
@[simp] theorem Box.putFree_ddl (r : Reg) (i j k : Nat) : (b.putFree r i j k).ddl = b.ddl := rfl
@[simp] theorem Box.putFree_gst (r : Reg) (i j k : Nat) : (b.putFree r i j k).gst = b.gst := rfl
@[simp] theorem Box.putFree_fwm (r : Reg) (i j k : Nat) : (b.putFree r i j k).fwm = b.fwm := rfl
@[simp] theorem Box.putFree_sec (r : Reg) (i j k : Nat) : (b.putFree r i j k).sec = b.sec := rfl
@[simp] theorem Box.putFree_pwr (r : Reg) (i j k : Nat) : (b.putFree r i j k).pwr = b.pwr := rfl
@[simp] theorem Box.putFree_tel (r : Reg) (i j k : Nat) : (b.putFree r i j k).tel = b.tel := rfl
@[simp] theorem Box.putFree_start (r : Reg) (i j k : Nat) : (b.putFree r i j k).start = b.start := rfl
@[simp] theorem Box.putFree_ws (r : Reg) (i j k : Nat) : (b.putFree r i j k).ws = b.ws := rfl

/-! ### Operations with a condition -/

@[simp] theorem Box.bump_now (r : Reg) (i j k n : Nat) : (b.bump r i j k n).now = b.now := by
  unfold Box.bump; split <;> rfl
@[simp] theorem Box.bump_out (r : Reg) (i j k n : Nat) : (b.bump r i j k n).out = b.out := by
  unfold Box.bump; split <;> rfl
@[simp] theorem Box.bump_lanes (r : Reg) (i j k n : Nat) : (b.bump r i j k n).lanes = b.lanes := by
  unfold Box.bump; split <;> rfl
@[simp] theorem Box.bump_retry (r : Reg) (i j k n : Nat) : (b.bump r i j k n).retry = b.retry := by
  unfold Box.bump; split <;> rfl
@[simp] theorem Box.bump_opt (r : Reg) (i j k n : Nat) : (b.bump r i j k n).opt = b.opt := by
  unfold Box.bump; split <;> rfl
@[simp] theorem Box.bump_fwd (r : Reg) (i j k n : Nat) : (b.bump r i j k n).fwd = b.fwd := by
  unfold Box.bump; split <;> rfl
@[simp] theorem Box.bump_buf (r : Reg) (i j k n : Nat) : (b.bump r i j k n).buf = b.buf := by
  unfold Box.bump; split <;> rfl
@[simp] theorem Box.bump_pac (r : Reg) (i j k n : Nat) : (b.bump r i j k n).pac = b.pac := by
  unfold Box.bump; split <;> rfl
@[simp] theorem Box.bump_tim (r : Reg) (i j k n : Nat) : (b.bump r i j k n).tim = b.tim := by
  unfold Box.bump; split <;> rfl
@[simp] theorem Box.bump_mar (r : Reg) (i j k n : Nat) : (b.bump r i j k n).mar = b.mar := by
  unfold Box.bump; split <;> rfl
@[simp] theorem Box.bump_mbx (r : Reg) (i j k n : Nat) : (b.bump r i j k n).mbx = b.mbx := by
  unfold Box.bump; split <;> rfl
@[simp] theorem Box.bump_rly (r : Reg) (i j k n : Nat) : (b.bump r i j k n).rly = b.rly := by
  unfold Box.bump; split <;> rfl
@[simp] theorem Box.bump_col (r : Reg) (i j k n : Nat) : (b.bump r i j k n).col = b.col := by
  unfold Box.bump; split <;> rfl
@[simp] theorem Box.bump_spr (r : Reg) (i j k n : Nat) : (b.bump r i j k n).spr = b.spr := by
  unfold Box.bump; split <;> rfl
@[simp] theorem Box.bump_emb (r : Reg) (i j k n : Nat) : (b.bump r i j k n).emb = b.emb := by
  unfold Box.bump; split <;> rfl
@[simp] theorem Box.bump_memc (r : Reg) (i j k n : Nat) : (b.bump r i j k n).memc = b.memc := by
  unfold Box.bump; split <;> rfl
@[simp] theorem Box.bump_ddl (r : Reg) (i j k n : Nat) : (b.bump r i j k n).ddl = b.ddl := by
  unfold Box.bump; split <;> rfl
@[simp] theorem Box.bump_gst (r : Reg) (i j k n : Nat) : (b.bump r i j k n).gst = b.gst := by
  unfold Box.bump; split <;> rfl
@[simp] theorem Box.bump_fwm (r : Reg) (i j k n : Nat) : (b.bump r i j k n).fwm = b.fwm := by
  unfold Box.bump; split <;> rfl
@[simp] theorem Box.bump_sec (r : Reg) (i j k n : Nat) : (b.bump r i j k n).sec = b.sec := by
  unfold Box.bump; split <;> rfl
@[simp] theorem Box.bump_pwr (r : Reg) (i j k n : Nat) : (b.bump r i j k n).pwr = b.pwr := by
  unfold Box.bump; split <;> rfl
@[simp] theorem Box.bump_tel (r : Reg) (i j k n : Nat) : (b.bump r i j k n).tel = b.tel := by
  unfold Box.bump; split <;> rfl
@[simp] theorem Box.bump_start (r : Reg) (i j k n : Nat) : (b.bump r i j k n).start = b.start := by
  unfold Box.bump; split <;> rfl
@[simp] theorem Box.bump_ws (r : Reg) (i j k n : Nat) : (b.bump r i j k n).ws = b.ws := by
  unfold Box.bump; split <;> rfl
@[simp] theorem Box.putIf_now (c : Bool) (r : Reg) (v i j k : Nat) : (b.putIf c r v i j k).now = b.now := by
  unfold Box.putIf; split <;> rfl
@[simp] theorem Box.putIf_free (c : Bool) (r : Reg) (v i j k : Nat) : (b.putIf c r v i j k).free = b.free := by
  unfold Box.putIf; split <;> rfl
@[simp] theorem Box.putIf_out (c : Bool) (r : Reg) (v i j k : Nat) : (b.putIf c r v i j k).out = b.out := by
  unfold Box.putIf; split <;> rfl
@[simp] theorem Box.putIf_lanes (c : Bool) (r : Reg) (v i j k : Nat) : (b.putIf c r v i j k).lanes = b.lanes := by
  unfold Box.putIf; split <;> rfl
@[simp] theorem Box.putIf_retry (c : Bool) (r : Reg) (v i j k : Nat) : (b.putIf c r v i j k).retry = b.retry := by
  unfold Box.putIf; split <;> rfl
@[simp] theorem Box.putIf_opt (c : Bool) (r : Reg) (v i j k : Nat) : (b.putIf c r v i j k).opt = b.opt := by
  unfold Box.putIf; split <;> rfl
@[simp] theorem Box.putIf_fwd (c : Bool) (r : Reg) (v i j k : Nat) : (b.putIf c r v i j k).fwd = b.fwd := by
  unfold Box.putIf; split <;> rfl
@[simp] theorem Box.putIf_buf (c : Bool) (r : Reg) (v i j k : Nat) : (b.putIf c r v i j k).buf = b.buf := by
  unfold Box.putIf; split <;> rfl
@[simp] theorem Box.putIf_pac (c : Bool) (r : Reg) (v i j k : Nat) : (b.putIf c r v i j k).pac = b.pac := by
  unfold Box.putIf; split <;> rfl
@[simp] theorem Box.putIf_tim (c : Bool) (r : Reg) (v i j k : Nat) : (b.putIf c r v i j k).tim = b.tim := by
  unfold Box.putIf; split <;> rfl
@[simp] theorem Box.putIf_mar (c : Bool) (r : Reg) (v i j k : Nat) : (b.putIf c r v i j k).mar = b.mar := by
  unfold Box.putIf; split <;> rfl
@[simp] theorem Box.putIf_mbx (c : Bool) (r : Reg) (v i j k : Nat) : (b.putIf c r v i j k).mbx = b.mbx := by
  unfold Box.putIf; split <;> rfl
@[simp] theorem Box.putIf_rly (c : Bool) (r : Reg) (v i j k : Nat) : (b.putIf c r v i j k).rly = b.rly := by
  unfold Box.putIf; split <;> rfl
@[simp] theorem Box.putIf_col (c : Bool) (r : Reg) (v i j k : Nat) : (b.putIf c r v i j k).col = b.col := by
  unfold Box.putIf; split <;> rfl
@[simp] theorem Box.putIf_spr (c : Bool) (r : Reg) (v i j k : Nat) : (b.putIf c r v i j k).spr = b.spr := by
  unfold Box.putIf; split <;> rfl
@[simp] theorem Box.putIf_emb (c : Bool) (r : Reg) (v i j k : Nat) : (b.putIf c r v i j k).emb = b.emb := by
  unfold Box.putIf; split <;> rfl
@[simp] theorem Box.putIf_memc (c : Bool) (r : Reg) (v i j k : Nat) : (b.putIf c r v i j k).memc = b.memc := by
  unfold Box.putIf; split <;> rfl
@[simp] theorem Box.putIf_ddl (c : Bool) (r : Reg) (v i j k : Nat) : (b.putIf c r v i j k).ddl = b.ddl := by
  unfold Box.putIf; split <;> rfl
@[simp] theorem Box.putIf_gst (c : Bool) (r : Reg) (v i j k : Nat) : (b.putIf c r v i j k).gst = b.gst := by
  unfold Box.putIf; split <;> rfl
@[simp] theorem Box.putIf_fwm (c : Bool) (r : Reg) (v i j k : Nat) : (b.putIf c r v i j k).fwm = b.fwm := by
  unfold Box.putIf; split <;> rfl
@[simp] theorem Box.putIf_sec (c : Bool) (r : Reg) (v i j k : Nat) : (b.putIf c r v i j k).sec = b.sec := by
  unfold Box.putIf; split <;> rfl
@[simp] theorem Box.putIf_pwr (c : Bool) (r : Reg) (v i j k : Nat) : (b.putIf c r v i j k).pwr = b.pwr := by
  unfold Box.putIf; split <;> rfl
@[simp] theorem Box.putIf_tel (c : Bool) (r : Reg) (v i j k : Nat) : (b.putIf c r v i j k).tel = b.tel := by
  unfold Box.putIf; split <;> rfl
@[simp] theorem Box.putIf_start (c : Bool) (r : Reg) (v i j k : Nat) : (b.putIf c r v i j k).start = b.start := by
  unfold Box.putIf; split <;> rfl
@[simp] theorem Box.putIf_ws (c : Bool) (r : Reg) (v i j k : Nat) : (b.putIf c r v i j k).ws = b.ws := by
  unfold Box.putIf; split <;> rfl

/-! ### Registers -/

theorem Regs.find_put_same (l : Regs) (q : RegKey) (v : Nat) : Regs.find (Regs.put l q v) q = some v := by
  induction l with
  | nil => simp [Regs.put, Regs.find]
  | cons e t ih =>
    obtain ⟨q', v'⟩ := e
    simp only [Regs.put]
    split
    · simp [Regs.find]
    · split
      · simp [Regs.find]
      · simp [Regs.find, *]

theorem Regs.find_put_ne (l : Regs) (q p : RegKey) (v : Nat) (h : p ≠ q) : Regs.find (Regs.put l q v) p = Regs.find l p := by
  induction l with
  | nil => simp [Regs.put, Regs.find, h]
  | cons e t ih =>
    obtain ⟨q', v'⟩ := e
    simp only [Regs.put]
    split
    · next hq => subst hq; simp [Regs.find, h]
    · split
      · simp [Regs.find, h]
      · simp [Regs.find, ih]

theorem Regs.find_erase_same (l : Regs) (q : RegKey) : Regs.find (Regs.erase l q) q = none := by
  induction l with
  | nil => rfl
  | cons e t ih =>
    obtain ⟨q', v'⟩ := e
    unfold Regs.erase at *
    by_cases h : q' = q
    · simpa [h] using ih
    · have : q ≠ q' := fun x => h x.symm
      simpa [h, Regs.find, this] using ih

theorem Regs.find_erase_ne (l : Regs) (q p : RegKey) (h : p ≠ q) : Regs.find (Regs.erase l q) p = Regs.find l p := by
  induction l with
  | nil => rfl
  | cons e t ih =>
    obtain ⟨q', v'⟩ := e
    unfold Regs.erase at *
    by_cases hq : q' = q
    · subst hq; simpa [Regs.find, h] using ih
    · simp only [ne_eq, decide_not] at ih
      simp [hq, Regs.find, ih]

/-- Reading a field after it was written gives the value, cut to the field's width. -/
theorem Box.get_put_same (r : Reg) (v i j k : Nat) : (b.put r v i j k).get r i j k = v % 2 ^ r.info.width := by
  unfold Box.get Box.put Regs.set
  split
  · next h => simp [Regs.find_erase_same, h]
  · simp [Regs.find_put_same]

/-- A write leaves every other register instance alone. -/
theorem Box.get_put_ne (r p : Reg) (v i j k i' j' k' : Nat) (h : (⟨p, i', j', k'⟩ : RegKey) ≠ ⟨r, i, j, k⟩) :
    (b.put r v i j k).get p i' j' k' = b.get p i' j' k' := by
  unfold Box.get Box.put Regs.set
  split
  · simp [Regs.find_erase_ne _ _ _ h]
  · simp [Regs.find_put_ne _ _ _ _ h]

/-- Reading a field after a write. -/
theorem Box.get_put (r p : Reg) (v i j k i' j' k' : Nat) :
    (b.put r v i j k).get p i' j' k'
      = if p = r ∧ i' = i ∧ j' = j ∧ k' = k then v % 2 ^ r.info.width else b.get p i' j' k' := by
  split
  · next h => obtain ⟨rfl, rfl, rfl, rfl⟩ := h; exact b.get_put_same _ _ _ _ _
  · next h =>
    refine b.get_put_ne _ _ _ _ _ _ _ _ _ ?_
    intro e; injection e with h1 h2 h3 h4; exact h ⟨h1, h2, h3, h4⟩

/-- Reading a field of a device whose register list is that of another. -/
theorem Box.get_congr {b c : Box} (h : b.regs = c.regs) (r : Reg) (i j k : Nat) : b.get r i j k = c.get r i j k := by
  unfold Box.get; rw [h]

@[simp] theorem Box.get_emit (e : Emit) (r : Reg) (i j k : Nat) : (b.emit e).get r i j k = b.get r i j k := rfl
@[simp] theorem Box.get_reply (src : Src) (n v : Nat) (r : Reg) (i j k : Nat) : (b.reply src n v).get r i j k = b.get r i j k := rfl
@[simp] theorem Box.get_write (w : MemWrite) (r : Reg) (i j k : Nat) : (b.write w).get r i j k = b.get r i j k := rfl
@[simp] theorem Box.get_setLane (f s : Nat) (g : LaneSt → LaneSt) (r : Reg) (i j k : Nat) :
    (b.setLane f s g).get r i j k = b.get r i j k := rfl
@[simp] theorem Box.get_fresh (r : Reg) (i j k : Nat) : b.fresh.2.get r i j k = b.get r i j k := rfl
@[simp] theorem Box.emit_out (e : Emit) : (b.emit e).out = e :: b.out := rfl
@[simp] theorem Box.reply_out (src : Src) (n v : Nat) : (b.reply src n v).out = .answer src.toNat n v :: b.out := rfl

/-- A count within its width rises by the amount. -/
theorem Box.bump_lt (r : Reg) (i j k n : Nat) (h : b.get r i j k + n < 2 ^ r.info.width) :
    b.bump r i j k n = b.put r (b.get r i j k + n) i j k := by
  unfold Box.bump; simp [h]

/-- A count of another register instance is unchanged. -/
theorem Box.get_bump_ne (r p : Reg) (i j k n i' j' k' : Nat) (h : (⟨p, i', j', k'⟩ : RegKey) ≠ ⟨r, i, j, k⟩) :
    (b.bump r i j k n).get p i' j' k' = b.get p i' j' k' := by
  unfold Box.bump; split
  · exact b.get_put_ne _ _ _ _ _ _ _ _ _ h
  · unfold Box.putFree; rw [Box.get_put_ne _ _ _ _ _ _ _ _ _ _ h]; rfl

/-! ### The step and `act` -/

/-- A command answers a next state, with the effect on the parts, the writes applied and the queue kept. -/
theorem act_next (f : Box → Box) (s : State) :
    act f s = .next { box := { f s.box with ws := [] }, mem := Memory.applyWrites s.mem (f s.box).ws, pending := s.pending } := rfl

/-- On a queue with a front, a step is that command on the rest. -/
theorem step_cons (s : State) (c : Instr) (l : List Instr) :
    step { s with pending := c :: l } = exec c { s with pending := l } := rfl

end Sys2Proof.Machine
end

