-- ==== Sys2Proof/Laws/Commands.lean ====
section
/-!
SUPPORT. What the operations that every command goes through can do: the next state of a command, an answered register
write, a list of operations, and an error record that is raised.
-/
namespace Sys2Proof.Machine

/-- A command answers a next state, and what holds of it is what holds of its parts. -/
theorem nextWith_act (f : Box → Box) (s : State) (p : State → Prop) :
    nextWith (act f s) p ↔ p { s with box := { f s.box with ws := [] }, mem := Memory.applyWrites s.mem (f s.box).ws } := by
  constructor
  · rintro ⟨u, h, hp⟩
    cases h
    exact hp
  · exact fun h => ⟨_, rfl, h⟩

/-- A command that writes no memory changes the parts of the device alone. -/
theorem act_of_no_writes (f : Box → Box) (s : State) (h : (f s.box).ws = []) : act f s = .next (s.withBox (f s.box)) := by
  simp only [act, h, Memory.applyWrites, State.withBox, List.foldl_nil]
  congr 2
  rw [← h]

theorem regWrite_writer {b : Box} {src : Src} (h : writer b src) (f : Box → Nat × Box) :
    b.regWrite src f = (f b).2.reply src (f b).1 := by
  unfold Box.regWrite
  rcases h with h | h <;> simp [h]

theorem regWrite_other {b : Box} {src : Src} (h : ¬writer b src) (f : Box → Nat × Box) : b.regWrite src f = b.reply src 4 := by
  have h1 : isCore src.toNat = false := by
    cases hc : isCore src.toNat
    · rfl
    · exact absurd (.inl hc) h
  have h2 : b.isAgent src.toNat = false := by
    cases hc : b.isAgent src.toNat
    · rfl
    · exact absurd (.inr hc) h
  simp [Box.regWrite, h1, h2]

/-- What each operation of a list keeps, the list keeps. -/
theorem each_keeps {α : Type} (P : Box → Prop) (f : Box → α → Box) (h : ∀ b a, P b → P (f b a)) (l : List α) (b : Box) (hb : P b) :
    P (b.each l f) := by
  unfold Box.each
  induction l generalizing b with
  | nil => exact hb
  | cons a t ih => exact ih _ (h b a hb)

/-- A part that no operation of a list changes is as before. -/
theorem each_same {α β : Type} (g : Box → β) (f : Box → α → Box) (h : ∀ b a, g (f b a) = g b) (l : List α) (b : Box) :
    g (b.each l f) = g b := each_keeps (fun x => g x = g b) f (fun x a hx => (h x a).trans hx) l b rfl

end Sys2Proof.Machine
end

