-- ==== Sys2Proof/Laws/Errors.lean ====
section
/-!
SUPPORT. What raising an error record can do to the rest of the device: of the registers it writes those of `raiseRegs`, it
advances no time and writes no memory.
-/
namespace Sys2Proof.Machine

/-- Registers other than those that records write, unfinished memory writes, and time are as before. -/
def Box.quietTo (b u : Box) : Prop :=
  u.ws = b.ws ∧ u.now = b.now ∧ ∀ r, r ∉ raiseRegs → ∀ i j k, u.get r i j k = b.get r i j k

theorem Box.quietTo.refl (b : Box) : b.quietTo b := ⟨rfl, rfl, fun _ _ _ _ _ => rfl⟩

theorem Box.quietTo.trans {a b c : Box} (h : a.quietTo b) (h' : b.quietTo c) : a.quietTo c :=
  ⟨h'.1.trans h.1, h'.2.1.trans h.2.1, fun r hr i j k => (h'.2.2 r hr i j k).trans (h.2.2 r hr i j k)⟩

/-- Parts other than registers, writes and time do not count. -/
theorem Box.quietTo.of_regs {b u : Box} (h1 : u.ws = b.ws) (h2 : u.now = b.now) (h3 : u.regs = b.regs) : b.quietTo u :=
  ⟨h1, h2, fun r _ i j k => by unfold Box.get; rw [h3]⟩

theorem Box.quietTo.put {b u : Box} (h : b.quietTo u) {r : Reg} (hr : r ∈ raiseRegs) (v i j k : Nat) :
    b.quietTo (u.put r v i j k) :=
  h.trans ⟨rfl, rfl, fun p hp i' j' k' => Box.get_put_ne _ _ _ _ _ _ _ _ _ _ (by
    intro e
    injection e with e1
    exact hp (e1 ▸ hr))⟩

theorem Box.quietTo.bump {b u : Box} (h : b.quietTo u) {r : Reg} (hr : r ∈ raiseRegs) (i j k n : Nat) :
    b.quietTo (u.bump r i j k n) := by
  unfold Box.bump
  split
  · exact h.put hr _ _ _ _
  · exact (h.trans (Box.quietTo.of_regs rfl rfl rfl)).put hr _ _ _ _

theorem Box.logCopy_quiet (b : Box) (e : ErrRec) : b.quietTo (b.logCopy e) := Box.quietTo.of_regs rfl rfl rfl

theorem Box.ctlTake_quiet (b : Box) (m sev : Nat) : b.quietTo (b.ctlTake m sev) := by
  unfold Box.ctlTake
  repeat' split
  all_goals exact Box.quietTo.of_regs rfl rfl rfl

theorem Box.errPlace_quiet (b : Box) (m : Nat) (e : ErrRec) : b.quietTo (b.errPlace m e) := by
  unfold Box.errPlace
  exact (Box.quietTo.put (Box.quietTo.of_regs rfl rfl rfl) (by simp [raiseRegs]) _ _ _ _).trans (Box.ctlTake_quiet _ _ _)

theorem Box.irq_quiet (b : Box) (n : Nat) : b.quietTo (b.irq n) := by
  unfold Box.irq
  split
  all_goals exact Box.quietTo.of_regs rfl rfl rfl

theorem Box.setMar_quiet (b : Box) (m : MarSt) : b.quietTo { b with mar := m } := Box.quietTo.of_regs rfl rfl rfl

theorem Box.exportRec_quiet (b : Box) (p t : Nat) (l : List Byte) : b.quietTo (b.exportRec p t l) := by
  unfold Box.exportRec
  split
  · exact Box.quietTo.refl b
  · dsimp only
    repeat' split
    all_goals first
      | exact Box.quietTo.of_regs rfl rfl rfl
      | exact Box.quietTo.bump (Box.setMar_quiet b _) (r := .marEgrDrop) (by decide) _ _ _ _

theorem Box.storm_quiet (b : Box) (e : ErrRec) : b.quietTo (b.storm e) := by
  unfold Box.storm
  split
  · exact Box.setMar_quiet b _
  · split
    · exact (Box.setMar_quiet b _).trans (Box.logCopy_quiet _ _)
    · split
      · split
        · exact ((Box.quietTo.bump (Box.setMar_quiet b _) (r := .marStormLost) (by decide) _ _ _ _).trans
            (Box.errPlace_quiet _ _ _)).trans (Box.logCopy_quiet _ _)
        · exact Box.quietTo.bump (Box.quietTo.refl b) (r := .marStormLost) (by decide) _ _ _ _
      · exact Box.quietTo.bump (Box.quietTo.refl b) (r := .marStormLost) (by decide) _ _ _ _

/-- The storing half of a record's arrival. -/
theorem Box.raisePlace_quiet (d : Box) (e : ErrRec) : d.quietTo (if d.mar.stormOn then d.storm e
    else match d.errSlot with
      | some m => (d.errPlace m e).logCopy e
      | none => (({ d with mar := { d.mar with stormOn := true } }).put .marStorm 1).storm e) := by
  split
  · exact Box.storm_quiet _ _
  · split
    · exact (Box.errPlace_quiet _ _ _).trans (Box.logCopy_quiet _ _)
    · exact (Box.quietTo.put (Box.setMar_quiet d _) (r := .marStorm) (by decide) _ _ _ _).trans (Box.storm_quiet _ _)

theorem Box.raiseRec_quiet (b : Box) (e : ErrRec) : b.quietTo (b.raiseRec e) := by
  have h1 : b.quietTo (if e.sev = sevFatal then b.irq 1 else b) := by
    split
    · exact Box.irq_quiet _ _
    · exact Box.quietTo.refl _
  have h2 : ∀ c : Box, c.quietTo (if e.sev ≥ sevAlarm then c.exportRec 0 0x04 (leBytes 128 e.image) else c) := by
    intro c
    split
    · exact Box.exportRec_quiet _ _ _ _
    · exact Box.quietTo.refl _
  exact (h1.trans (h2 _)).trans (Box.raisePlace_quiet _ e)

/-- Raising a record leaves every register but those of `raiseRegs`, time and unfinished writes as they were. -/
theorem Box.raise_quiet (b : Box) (h : Nat) (r : Reg) (inst sev contain payload : Nat) :
    b.quietTo (b.raise h r inst sev contain payload) :=
  (Box.quietTo.of_regs rfl rfl rfl).trans (Box.raiseRec_quiet _ _)

@[simp] theorem Box.raise_ws (b : Box) (h : Nat) (r : Reg) (inst sev contain payload : Nat) :
    (b.raise h r inst sev contain payload).ws = b.ws := (b.raise_quiet h r inst sev contain payload).1

@[simp] theorem Box.raise_now (b : Box) (h : Nat) (r : Reg) (inst sev contain payload : Nat) :
    (b.raise h r inst sev contain payload).now = b.now := (b.raise_quiet h r inst sev contain payload).2.1

theorem Box.get_raise (b : Box) (h : Nat) (r p : Reg) (inst sev contain payload i j k : Nat) (hp : p ∉ raiseRegs) :
    (b.raise h r inst sev contain payload).get p i j k = b.get p i j k :=
  (b.raise_quiet h r inst sev contain payload).2.2 p hp i j k

end Sys2Proof.Machine
end

