-- ==== Sys2Proof/Laws/Memory.lean ====
section
/-!
SUPPORT. The memory keeps its canonical form under every operation, and a byte reads as it was last written.
-/
namespace Sys2Proof.Machine

/-- Addresses listed in `writeByte m a v` are those of `m` or `a`. -/
theorem Memory.mem_writeByte (m : Mem) (a : Nat) (v : Byte) (c : Host.Cell) (h : c ∈ Memory.writeByte m a v) :
    c ∈ m ∨ (c = (a, v) ∧ v ≠ 0) := by
  induction m with
  | nil =>
    unfold Memory.writeByte at h
    split at h
    · cases h
    · simp at h; exact .inr ⟨h, ‹_›⟩
  | cons d t ih =>
    unfold Memory.writeByte at h
    split at h
    · split at h
      · exact .inl h
      · rcases List.mem_cons.1 h with rfl | h
        · exact .inr ⟨rfl, ‹_›⟩
        · exact .inl h
    · split at h
      · split at h
        · exact .inl (List.mem_cons_of_mem _ h)
        · rcases List.mem_cons.1 h with rfl | h
          · exact .inr ⟨rfl, ‹_›⟩
          · exact .inl (List.mem_cons_of_mem _ h)
      · rcases List.mem_cons.1 h with rfl | h
        · exact .inl List.mem_cons_self
        · rcases ih h with h | h
          · exact .inl (List.mem_cons_of_mem _ h)
          · exact .inr h

/-- A byte write keeps the canonical form. -/
theorem Memory.wf_writeByte (m : Mem) (a : Nat) (v : Byte) (h : Memory.wf m) : Memory.wf (Memory.writeByte m a v) := by
  induction m with
  | nil =>
    unfold Memory.writeByte
    split
    · exact ⟨List.Pairwise.nil, by simp⟩
    · exact ⟨by simp, by simpa using ‹¬ v = 0›⟩
  | cons c t ih =>
    obtain ⟨hp, hz⟩ := h
    obtain ⟨hc, ht⟩ := List.pairwise_cons.1 hp
    have htz : ∀ c ∈ t, c.2 ≠ 0 := fun x hx => hz x (List.mem_cons_of_mem _ hx)
    unfold Memory.writeByte
    split
    · split
      · exact ⟨hp, hz⟩
      · next hlt hv =>
        refine ⟨List.pairwise_cons.2 ⟨?_, hp⟩, ?_⟩
        · intro x hx
          rcases List.mem_cons.1 hx with rfl | hx
          · exact hlt
          · exact Nat.lt_trans hlt (hc x hx)
        · intro x hx
          rcases List.mem_cons.1 hx with rfl | hx
          · exact hv
          · exact hz x hx
    · split
      · next heq =>
        split
        · exact ⟨ht, htz⟩
        · next hv =>
          refine ⟨List.pairwise_cons.2 ⟨fun x hx => heq ▸ hc x hx, ht⟩, ?_⟩
          intro x hx
          rcases List.mem_cons.1 hx with rfl | hx
          · exact hv
          · exact htz x hx
      · next hlt hne =>
        obtain ⟨ihp, ihz⟩ := ih ⟨ht, htz⟩
        refine ⟨List.pairwise_cons.2 ⟨?_, ihp⟩, ?_⟩
        · intro x hx
          rcases Memory.mem_writeByte t a v x hx with h | ⟨rfl, _⟩
          · exact hc x h
          · exact Nat.lt_of_le_of_ne (Nat.le_of_not_lt hlt) (fun e => hne e.symm)
        · intro x hx
          rcases List.mem_cons.1 hx with rfl | hx
          · exact hz _ List.mem_cons_self
          · exact ihz x hx

/-- A store keeps the canonical form. -/
theorem Memory.wf_store (m : Mem) (a : Nat) (vs : List Byte) (h : Memory.wf m) : Memory.wf (Memory.store m a vs) := by
  induction vs generalizing m a with
  | nil => exact h
  | cons v t ih => exact ih _ _ (Memory.wf_writeByte m a v h)

/-- Zeroing a range keeps the canonical form. -/
theorem Memory.wf_zero (m : Mem) (a len : Nat) (h : Memory.wf m) : Memory.wf (Memory.zero m a len) :=
  ⟨h.1.filter _, fun c hc => h.2 c (List.mem_filter.1 hc).1⟩

/-- Writes keep the canonical form. -/
theorem Memory.wf_applyWrites (m : Mem) (ws : List MemWrite) (h : Memory.wf m) : Memory.wf (Memory.applyWrites m ws) := by
  unfold Memory.applyWrites
  induction ws generalizing m with
  | nil => exact h
  | cons w t ih =>
    refine ih _ ?_
    cases w with
    | store a vs => exact Memory.wf_store m a vs h
    | zero a len => exact Memory.wf_zero m a len h

/-- In a canonical memory every address listed after the head is above it. -/
theorem Memory.readByte_lt (m : Mem) (a : Nat) (h : ∀ c ∈ m, a < c.1) : Memory.readByte m a = 0 := by
  induction m with
  | nil => rfl
  | cons c t ih =>
    have : a ≠ c.1 := Nat.ne_of_lt (h c List.mem_cons_self)
    simp [Memory.readByte, this]
    exact ih (fun x hx => h x (List.mem_cons_of_mem _ hx))

/-- A byte reads as it was written; every other byte reads as before. -/
theorem Memory.readByte_writeByte (m : Mem) (a p : Nat) (v : Byte) (h : Memory.wf m) :
    Memory.readByte (Memory.writeByte m a v) p = if p = a then v else Memory.readByte m p := by
  induction m with
  | nil =>
    by_cases hv : v = 0
    · subst hv; simp [Memory.writeByte, Memory.readByte]
    · rw [Memory.writeByte, if_neg hv]; simp [Memory.readByte]
  | cons c t ih =>
    obtain ⟨hp, hz⟩ := h
    obtain ⟨hc, ht⟩ := List.pairwise_cons.1 hp
    have iht := ih ⟨ht, fun x hx => hz x (List.mem_cons_of_mem _ hx)⟩
    unfold Memory.writeByte
    split
    · next hlt =>
      have hz0 : Memory.readByte (c :: t) a = 0 := by
        refine Memory.readByte_lt _ _ ?_
        intro x hx
        rcases List.mem_cons.1 hx with rfl | hx
        · exact hlt
        · exact Nat.lt_trans hlt (hc x hx)
      split
      · next hv =>
        by_cases h' : p = a
        · subst h'; rw [hz0]; simp [hv]
        · simp [h']
      · simp [Memory.readByte]
    · split
      · next heq =>
        subst heq
        split
        · next hv =>
          by_cases h' : p = c.1
          · subst h'; simp only [hv]; exact Memory.readByte_lt _ _ hc
          · simp [h', Memory.readByte]
        · by_cases h' : p = c.1 <;> simp [Memory.readByte, h']
      · next hlt hne =>
        by_cases h' : p = c.1
        · have : p ≠ a := fun e => hne (e ▸ h')
          subst h'; simp [Memory.readByte, this]
        · simp [Memory.readByte, h', iht]

end Sys2Proof.Machine
end

