-- ==== Sys2Proof/Laws/Store.lean ====
section
/-!
SUPPORT. Reading a sparse table after an entry was put or removed.
-/
namespace Sys2Proof.Machine

variable {α : Type}

@[simp] theorem Store.find_put_same (l : Store α) (k : Nat) (v : α) : (Store.put l k v).find k = some v := by
  induction l with
  | nil => simp [Store.put, Store.find]
  | cons e t ih =>
    obtain ⟨k', v'⟩ := e
    unfold Store.put
    by_cases h : k = k'
    · simp [h, Store.find]
    · by_cases h2 : k < k'
      · simp [h, h2, Store.find]
      · simp [h, h2, Store.find, ih]

theorem Store.find_put_ne (l : Store α) (k p : Nat) (v : α) (h : p ≠ k) : (Store.put l k v).find p = Store.find l p := by
  induction l with
  | nil => simp [Store.put, Store.find, h]
  | cons e t ih =>
    obtain ⟨k', v'⟩ := e
    unfold Store.put
    by_cases h1 : k = k'
    · subst h1; simp [Store.find, h]
    · by_cases h2 : k < k'
      · simp [h1, h2, Store.find, h]
      · simp [h1, h2, Store.find, ih]

@[simp] theorem Store.find_del_same (l : Store α) (k : Nat) : (Store.del l k).find k = none := by
  induction l with
  | nil => rfl
  | cons e t ih =>
    obtain ⟨k', v'⟩ := e
    unfold Store.del at *
    by_cases h : k' = k
    · simp [h, ih]
    · have : k ≠ k' := fun x => h x.symm
      simp [h, Store.find, this, ih]

theorem Store.find_del_ne (l : Store α) (k p : Nat) (h : p ≠ k) : (Store.del l k).find p = Store.find l p := by
  induction l with
  | nil => rfl
  | cons e t ih =>
    obtain ⟨k', v'⟩ := e
    unfold Store.del at *
    by_cases h1 : k' = k
    · subst h1; simp [Store.find, h, ih]
    · simp [h1, Store.find, ih]

@[simp] theorem Store.at_put_same (l : Store α) (k : Nat) (v d : α) : (Store.put l k v).at k d = v := by
  simp [Store.at]

theorem Store.at_put_ne (l : Store α) (k p : Nat) (v d : α) (h : p ≠ k) : (Store.put l k v).at p d = Store.at l p d := by
  simp [Store.at, Store.find_put_ne _ _ _ _ h]

@[simp] theorem Store.at_upd_same (l : Store α) (k : Nat) (d : α) (f : α → α) : (Store.upd l k d f).at k d = f (Store.at l k d) := by
  simp [Store.upd]

theorem Store.at_upd_ne (l : Store α) (k p : Nat) (d d' : α) (f : α → α) (h : p ≠ k) :
    (Store.upd l k d f).at p d' = Store.at l p d' := by
  simp [Store.upd, Store.at_put_ne _ _ _ _ _ h]

end Sys2Proof.Machine
end

