-- ==== Sys2Proof/WellFormed.lean ====
section
/-!
DEFINITION. Which commands the outside can give: the lengths that the interfaces fix for byte strings and lists. The
meanings are total and do not depend on it; it says which operands stand for something the outside can do.
-/
namespace Sys2Proof

/-- The byte string of a symbol error list names no symbol twice. -/
def SymErrs.wf (e : SymErrs) : Bool := (e.map (·.1)).Nodup

/-- The command's byte strings and lists have lengths that its interface allows. -/
def Instr.wf : Instr → Bool
  | .laneFrameReceive _ _ fr _ _ => decide (64 ≤ fr.length ∧ fr.length ≤ 16383)
  | .sprintContrib _ _ fr => decide (64 ≤ fr.length ∧ fr.length ≤ 16383)
  | .keepalive _ _ fr => decide (64 ≤ fr.length ∧ fr.length ≤ 16383)
  | .boardRelay _ _ fr => decide (64 ≤ fr.length ∧ fr.length ≤ 16383)
  | .guestWrite _ h d => decide (d.length = h.toNat / 2 ^ 116 % 256 + 1)
  | .guestPost _ _ d => decide (d.length = 64)
  | .flashProgram _ _ d _ => decide (1 ≤ d.length ∧ d.length ≤ 256)
  | .attestationReport _ _ n => decide (n.length = 32)
  | .combWarmed _ _ p => decide (p.length = 8)
  | .memTransaction _ _ w _ _ _ => match w with | none => true | some d => decide (1 ≤ d.length ∧ d.length ≤ 4096)
  | .patrolScrub _ e => e.wf
  | .bwInterval _ d => decide (d.length = 6)
  | _ => true

end Sys2Proof
end

