-- ==== Sys2Proof/Tests/Slice0.lean ====
section
/-!
SUPPORT. Tests: worked examples of the specification, well-formedness, and for each statement states and operands that meet
what its clauses suppose. A statement merged of several parts has a witness for each part, whose name stands in it.
-/
set_option maxRecDepth 100000
set_option linter.unusedVariables false
namespace Sys2Proof.Test
open Machine

/-! ### Helpers -/
/-- A result that is a value, and one that is an error, by comparison of what they hold. -/
theorem ok_of {ε α : Type} {x : Except ε α} {a : α} (h : x.toOption = some a) : x = .ok a := by
  cases x <;> simp_all [Except.toOption]
@[inherit_doc ok_of] theorem error_of {ε α : Type} {x : Except ε α} {c : ε}
    (h : (match x with | .error e => some e | .ok _ => none) = some c) : x = .error c := by
  cases x <;> simp_all
@[inherit_doc ok_of] theorem ok_pair {ε α β : Type} {x : Except ε α × β} {a : α} {b : β} (h : x.1.toOption = some a)
    (h' : x.2 = b) : x = (.ok a, b) := Prod.ext (ok_of h) h'
/-- A state with some register instances written after reset: field, three indices, value. -/
def with_ (s : State) (l : List (Reg × Nat × Nat × Nat × Nat)) : State :=
  s.withBox (l.foldl (fun b (e : Reg × Nat × Nat × Nat × Nat) => b.put e.1 e.2.2.2.2 e.2.1 e.2.2.1 e.2.2.2.1) s.box)
/-- The state with its parts changed. -/
def on (s : State) (f : Box → Box) : State := s.withBox (f s.box)
/-- The device after reset. -/
abbrev r0 : State := State.reset
/-- A device in which thread 0 of core 0 can issue; x1 to x3 hold values. -/
def thr0 (x : Nat) (y : Nat) : State :=
  on (with_ r0 [(.rlyState, 0, 0, 0, coreRun), (.rlyTState, 0, 0, 0, thReady), (.rlyTPc, 0, 0, 0, 8)])
    (fun b => b.setThr 0 (fun t => { t with x := [(1, x), (2, y)] }))
/-- A bundle placed on core 0, with an 8 KiB scratch area for its thread and a baton area on die 0. -/
def bundle0 : Bundle :=
  { id := 7, ver := 1, digest := 0, cores := 1, threads := 1, scratchThr := 8192, consts := [], code := [], baton := 4096,
    groups := [⟨0, 1, 0, 0⟩], windows := [], sr := false, placed := [(0, 0, 0)], batonAt := [(0, 64)] }
/-- The thread of `thr0`, which runs the bundle and holds these registers. -/
def thr1 (x : List (Nat × Nat)) (v : List (Nat × Nat)) (p : List (Nat × Nat)) : State :=
  on (thr0 0 0) (fun b =>
    ({ b with rly := { b.rly with bundles := [(0, bundle0)] } }).setThr 0 (fun t => { t with x := x, v := v, p := p, bundle := some 0 }))
/-- A frame of some bytes that the module holds. -/
def fr0 (bytes : List Byte) (rung lane : Nat) : Held := ⟨bytes, 0, rung, 0, lane, 0, 0, 0, []⟩
/-- The state whose half `h` holds the frame in its next free cells. -/
def holding (s : State) (h : Nat) (fr : Held) : State := on s (fun b => (b.build h fr 1 none).2)
/-- The descriptor of the first frame that a half holds after reset. -/
def desc0 (h : Nat) (fr : Held) : Desc := (r0.box.build h fr 1 none).1.getD ⟨0, 0, 0, 0⟩
/-- Requester 0 is the CTL core of the north half. -/
def ctl : Src := 0

/-- The device after reset at an instant of fabric time, ns. -/
def tset (ns : Nat) : Box := { r0.box with now := BitVec.ofNat 104 (ns * 2 ^ 40) }

/-- The state after a command. -/
def after (i : Instr) (s : State) : State := match exec i s with | .next u => u | _ => s

/-- Zero bytes, and the digits 1 to 9 in ASCII. -/
def zeros (n : Nat) : List Byte := List.replicate n 0
@[inherit_doc zeros] def digits : List Byte := (upTo 9).map (fun n => BitVec.ofNat 8 (49 + n))

/-! ### Worked examples of the specification -/

/-- Chapter 1, fibre 37 and colour 5: lanes and ports. -/
theorem test_lane_numbers : phys 37 5 = 375 ∧ laneOf 37 5 = 301 ∧ portOf 301 = 150 := by decide

/-- Chapter 3, finding the lap: T = 1000 s + 5,000,000 ns lies in lap 61,035,461, which began at 1,000,004,993,024 ns. -/
theorem test_lap : (tset 1000005000000).lap = 61035461 ∧ (tset 1000005000000).lapStart 61035461 = 1000004993024
    ∧ (tset 1000005000000).lapStart 61035525 = 1000006041600 := by decide +kernel

/-- Chapter 20, a write of a lap-aligned field 184 ns before a boundary is due at the boundary after it; 256 ns before, at the
next. -/
theorem test_due_lap : (tset (7 * 16384 + 16200)).dueLap = 9 ∧ (tset (7 * 16384 + 16128)).dueLap = 8 := by decide +kernel

/-- Chapter on formats, a partial KBP block: exponent 129, and the four elements. -/
theorem test_kbp_block :
    let blk := kbpBlock ([(.fin false 3 0, .near), (.fin true 3 (-2), .near), (decodeNum fFp32 0x3DCCCCCD, .near),
      (.fin false 1 (-20), .near)] ++ List.replicate 12 (.fin false 0 0, .near))
    blk / 2 ^ 384 = 0x81 ∧ blk % 2 ^ 24 = 0x600000 ∧ blk / 2 ^ 24 % 2 ^ 24 = 0xE80000 ∧ blk / 2 ^ 48 % 2 ^ 24 = 0x033333
      ∧ blk / 2 ^ 72 % 2 ^ 24 = 2 := by decide +kernel

/-- An MX block of E4M3 whose largest magnitude is 3.0: Z = 0x78, and the codes of 3.0, 0.01 and −0.05. -/
theorem test_mx_block :
    let r := mxBlock 3 ([(.fin false 3 0, .near), (decodeNum fFp32 0x3C23D70A, .near), (decodeNum fFp32 0xBD4CCCCD, .near)]
      ++ List.replicate 29 (.fin false 0 0, .near))
    r.1 = 0x78 ∧ r.2.take 3 = [0x7C, 0x3A, 0xCD] := by decide +kernel

/-- Four ranks, one BF16 element: 1.0 + 2^-8 ties to 1.0, 2^-8 − 1.0 is exact, and the root is 2^-8. -/
theorem test_four_ranks :
    let n (x y : Nat) : Nat := (encodeNum fBf16 .near ((decodeNum fBf16 x).add (decodeNum fBf16 y))).raw
    n 0x3F80 0x3B80 = 0x3F80 ∧ n 0x3B80 0xBF80 = 0xBF7F ∧ n (n 0x3F80 0x3B80) (n 0x3B80 0xBF80) = 0x3B80 := by decide +kernel

/-- A result of 4154 bytes takes 17 cells. -/
theorem test_cells : cellsOf 4154 = 17 ∧ cellsOf 256 = 1 ∧ cellsOf 257 = 2 := by decide

/-- A fading capacitor: 1900 µF at 51.2 V leave 0.955 J, enough for a sector erase (0.825 J). -/
theorem test_energy : eAvail 1900 51200 / 1000000 = 955 ∧ (825000000 : Int) ≤ eAvail 1900 51200 := by decide

/-- Where row 0x77_A001 of table 5 lies: half, local index and relay address. -/
theorem test_row_place :
    let b := (with_ r0 [(.embTblHalfBit, 5, 0, 0, 12), (.embTblCtrl, 5, 0, 0, 1), (.embTblFmt, 5, 0, 0, 3), (.embTblDim, 5, 0, 0, 130),
      (.embMapTable, 9, 0, 0, 5), (.embMapRowHi, 9, 0, 0, 2 ^ 24)]).box
    b.rowHalf 5 0x77A001 = 0 ∧ b.rowIdx 5 9 0x77A001 = 3919873 ∧ (b.tbl 5).slot = 140
      ∧ lpddrAddr + b.slotOff 5 9 0 3919873 = 0x800420B5C08C := by decide +kernel

/-- Colour 5 of fibre 37 behind a four-port router whose partner sits at position 1: position 3 is right, 2 is not. -/
theorem test_router :
    let b := (with_ r0 [(.prtCrouterN, 37, 0, 0, 2), (.prtCrouterPos, 37, 0, 0, 1)]).box
    b.routerOk 37 5 (2 * 2 ^ 40 + 3 * 2 ^ 42) = true ∧ b.routerOk 37 5 (2 * 2 ^ 40 + 2 * 2 ^ 42) = false := by decide +kernel

/-- The management addresses that the specification works out. -/
theorem test_addresses : Reg.addr .prtLaneLolDbm 37 5 = 0x0000110012A8 ∧ Reg.addr .prtLaneRplNakRx 37 5 = 0x000019004AA8
    ∧ Reg.addr .timCalLog 3 = 0x00110E000030 ∧ (locate 0x00110E000030).map (·.i) = some 3 := by decide +kernel

/-! ### Standard check values of the codes that the specification names -/

/-- CRC-32C of "123456789" is 0xE3069283; CRC-16 T10-DIF of it 0xD0DB. -/
theorem test_crc : crc32c digits = 0xE3069283 ∧ crc16 digits = 0xD0DB := by decide +kernel

/-! ### Commands, one step each -/

/-- A scalar addition wraps, and x0 stays 0. -/
theorem test_add_wraps : ((after (.add 0 3 1 2) (thr0 (2 ^ 64 - 1) 2)).box.thr 0).xr 3 = 1 := by decide +kernel

/-- A channel takes a message once: the second write answers 1. -/
theorem test_mailbox_full :
    let s := on r0 (fun b => { b with mbx := { b.mbx with domains := [0] } })
    (after (.mbxDataWrite 0 3 7) s).box.out = [.answer 0 0 0]
      ∧ (after (.mbxDataWrite 0 3 8) (after (.mbxDataWrite 0 3 7) s)).box.out = [.answer 0 1 0, .answer 0 0 0] := by decide +kernel

/-- A lock read twice: the second reader sees the owner. -/
theorem test_lock : (after (.mbxLockRead 4 5) (after (.mbxLockRead 3 5) r0)).box.out = [.answer 4 0 3, .answer 3 0 0] := by
  decide +kernel

/-- A calendar entry is armed only for a lap ahead. -/
theorem test_calendar :
    (after (.calArm 0 3 7) (with_ r0 [(.timCalLap, 3, 0, 0, 5), (.timCalArg, 3, 0, 0, 2)])).box.get .timCalState 3 = 1
    ∧ (after (.calArm 0 3 7) r0).box.out = [.answer 0 1 0] := by decide +kernel

/-- On an empty queue a tick passes: fabric time advances by the increment. -/
theorem test_tick : (match step r0 with | .next u => u.box.now.toNat | _ => 0) = 0xCCCCCCCCCD := by decide +kernel

/-- The front of the queue runs first, and the rest stays. -/
theorem test_queue : (match step { r0 with pending := [.mbxLockRead 3 5, .mbxLockRead 4 5] } with
    | .next u => (u.pending, u.box.out) | _ => ([], [])) = ([.mbxLockRead 4 5], [.answer 3 0 0]) := by decide +kernel

/-! ### Well-formedness refuses -/

/-- Frames shorter than 64 bytes; a string of a length that its interface does not have. One well-formed term beside each. -/
theorem test_wf_frames :
    Instr.wf (.laneFrameReceive 5 3 [0] none false) = false ∧ Instr.wf (.laneFrameReceive 5 3 (zeros 64) none false) = true
    ∧ Instr.wf (.sprintContrib 5 3 (zeros 63)) = false ∧ Instr.wf (.sprintContrib 5 3 (zeros 64)) = true
    ∧ Instr.wf (.keepalive 5 3 (zeros 63)) = false ∧ Instr.wf (.keepalive 5 3 (zeros 64)) = true
    ∧ Instr.wf (.boardRelay 5 3 (zeros 63)) = false ∧ Instr.wf (.boardRelay 5 3 (zeros 64)) = true := by decide +kernel

theorem test_wf_guest :
    Instr.wf (.guestWrite 0 (15 * 2 ^ 116) (zeros 15)) = false ∧ Instr.wf (.guestWrite 0 (15 * 2 ^ 116) (zeros 16)) = true
    ∧ Instr.wf (.guestPost 0 0 (zeros 63)) = false ∧ Instr.wf (.guestPost 0 0 (zeros 64)) = true := by decide +kernel

theorem test_wf_strings :
    Instr.wf (.flashProgram 1 0 [] 0) = false ∧ Instr.wf (.flashProgram 1 0 (zeros 257) 0) = false
    ∧ Instr.wf (.flashProgram 1 0 (zeros 256) 0) = true
    ∧ Instr.wf (.attestationReport 0 16 (zeros 31)) = false ∧ Instr.wf (.attestationReport 0 16 (zeros 32)) = true := by decide +kernel

theorem test_wf_lists :
    Instr.wf (.combWarmed 0 true [1]) = false ∧ Instr.wf (.combWarmed 0 true (List.replicate 8 1)) = true
    ∧ Instr.wf (.memTransaction 0 64 (some []) 0 0 []) = false ∧ Instr.wf (.memTransaction 0 64 none 0 0 []) = true
    ∧ Instr.wf (.patrolScrub 0 [(3, 1), (3, 2)]) = false ∧ Instr.wf (.patrolScrub 0 [(3, 1), (4, 2)]) = true
    ∧ Instr.wf (.bwInterval 0 [1]) = false ∧ Instr.wf (.bwInterval 0 (List.replicate 6 1)) = true := by decide +kernel

/-- No row of the table has bits: a word spells no command, and leaves the queue as it is. -/
theorem test_no_words : decodeTableWord 32 5 = none ∧ (State.withFetchWord r0 32 5).pending = [] := by decide +kernel

/-! ### States and operands that meet what the statements suppose -/

namespace P10
/-- What clause 1 of KriScalarRegister (KriScalars) supposes. -/
abbrev hyps_KriScalarRegister_0 (s : State) (t : Thr) (d a c : XReg) : Prop :=
  s.ok ∧ issues s.box t

/-- What clause 2 of KriScalarRegister (KriScalars) supposes. -/
abbrev hyps_KriScalarRegister_1 (s : State) (t : Thr) (d a c : XReg) : Prop :=
  s.ok ∧ issues s.box t

/-- What clause 3 of KriScalarRegister (KriScalars) supposes. -/
abbrev hyps_KriScalarRegister_2 (s : State) (t : Thr) (d a c : XReg) : Prop :=
  s.ok ∧ issues s.box t

/-- What clause 4 of KriScalarRegister (KriScalars) supposes. -/
abbrev hyps_KriScalarRegister_3 (s : State) (t : Thr) (d a c : XReg) : Prop :=
  s.ok ∧ issues s.box t

/-- What clause 5 of KriScalarRegister (KriScalars) supposes. -/
abbrev hyps_KriScalarRegister_4 (s : State) (t : Thr) (d a c : XReg) : Prop :=
  s.ok ∧ issues s.box t

/-- What clause 6 of KriScalarRegister (KriScalars) supposes. -/
abbrev hyps_KriScalarRegister_5 (s : State) (t : Thr) (d a c : XReg) : Prop :=
  s.ok ∧ issues s.box t

/-- What clause 7 of KriScalarRegister (KriScalars) supposes. -/
abbrev hyps_KriScalarRegister_6 (s : State) (t : Thr) (d a c : XReg) : Prop :=
  s.ok ∧ issues s.box t

/-- What clause 8 of KriScalarRegister (KriScalars) supposes. -/
abbrev hyps_KriScalarRegister_7 (s : State) (t : Thr) (d a c : XReg) : Prop :=
  s.ok ∧ issues s.box t

/-- What clause 9 of KriScalarRegister (KriScalars) supposes. -/
abbrev hyps_KriScalarRegister_8 (s : State) (t : Thr) (d a c : XReg) : Prop :=
  s.ok ∧ issues s.box t

/-- What clause 10 of KriScalarRegister (KriScalars) supposes. -/
abbrev hyps_KriScalarRegister_9 (s : State) (t : Thr) (d a c : XReg) : Prop :=
  s.ok ∧ issues s.box t

/-- What clause 11 of KriScalarRegister (KriScalars) supposes. -/
abbrev hyps_KriScalarRegister_10 (s : State) (t : Thr) (d a c : XReg) : Prop :=
  s.ok ∧ issues s.box t

/-- What clause 12 of KriScalarRegister (KriScalars) supposes. -/
abbrev hyps_KriScalarRegister_11 (s : State) (t : Thr) (d a c : XReg) : Prop :=
  s.ok ∧ issues s.box t

/-- What clause 13 of KriScalarRegister (KriScalars) supposes. -/
abbrev hyps_KriScalarRegister_12 (s : State) (t : Thr) (d a c : XReg) : Prop :=
  s.ok ∧ issues s.box t

/-- What clause 14 of KriScalarRegister (KriScalars) supposes. -/
abbrev hyps_KriScalarRegister_13 (s : State) (t : Thr) (d a c : XReg) : Prop :=
  s.ok ∧ issues s.box t

/-- What clause 1 of KriScalarImmediate (KriScalars) supposes. -/
abbrev hyps_KriScalarImmediate_0 (s : State) (t : Thr) (d a : XReg) (i : Imm) (w : BitVec 32) : Prop :=
  s.ok ∧ issues s.box t

/-- What clause 2 of KriScalarImmediate (KriScalars) supposes. -/
abbrev hyps_KriScalarImmediate_1 (s : State) (t : Thr) (d a : XReg) (i : Imm) (w : BitVec 32) : Prop :=
  s.ok ∧ issues s.box t

/-- What clause 3 of KriScalarImmediate (KriScalars) supposes. -/
abbrev hyps_KriScalarImmediate_2 (s : State) (t : Thr) (d a : XReg) (i : Imm) (w : BitVec 32) : Prop :=
  s.ok ∧ issues s.box t

/-- What clause 4 of KriScalarImmediate (KriScalars) supposes. -/
abbrev hyps_KriScalarImmediate_3 (s : State) (t : Thr) (d a : XReg) (i : Imm) (w : BitVec 32) : Prop :=
  s.ok ∧ issues s.box t

/-- What clause 5 of KriScalarImmediate (KriScalars) supposes. -/
abbrev hyps_KriScalarImmediate_4 (s : State) (t : Thr) (d a : XReg) (i : Imm) (w : BitVec 32) : Prop :=
  s.ok ∧ issues s.box t

/-- What clause 6 of KriScalarImmediate (KriScalars) supposes. -/
abbrev hyps_KriScalarImmediate_5 (s : State) (t : Thr) (d a : XReg) (i : Imm) (w : BitVec 32) : Prop :=
  s.ok ∧ issues s.box t

/-- What clause 7 of KriScalarImmediate (KriScalars) supposes. -/
abbrev hyps_KriScalarImmediate_6 (s : State) (t : Thr) (d a : XReg) (i : Imm) (w : BitVec 32) : Prop :=
  s.ok ∧ issues s.box t

/-- What clause 1 of KriBranches (KriBranchesAndControl) supposes. -/
abbrev hyps_KriBranches_0 (s : State) (t : Thr) (d a c : XReg) (off : Imm) : Prop :=
  s.ok ∧ issues s.box t

/-- What clause 2 of KriBranches (KriBranchesAndControl) supposes. -/
abbrev hyps_KriBranches_1 (s : State) (t : Thr) (d a c : XReg) (off : Imm) : Prop :=
  s.ok ∧ issues s.box t

/-- What clause 3 of KriBranches (KriBranchesAndControl) supposes. -/
abbrev hyps_KriBranches_2 (s : State) (t : Thr) (d a c : XReg) (off : Imm) : Prop :=
  s.ok ∧ issues s.box t

/-- What clause 4 of KriBranches (KriBranchesAndControl) supposes. -/
abbrev hyps_KriBranches_3 (s : State) (t : Thr) (d a c : XReg) (off : Imm) : Prop :=
  s.ok ∧ issues s.box t

/-- What clause 5 of KriBranches (KriBranchesAndControl) supposes. -/
abbrev hyps_KriBranches_4 (s : State) (t : Thr) (d a c : XReg) (off : Imm) : Prop :=
  s.ok ∧ issues s.box t

/-- What clause 6 of KriBranches (KriBranchesAndControl) supposes. -/
abbrev hyps_KriBranches_5 (s : State) (t : Thr) (d a c : XReg) (off : Imm) : Prop :=
  s.ok ∧ issues s.box t

/-- What clause 7 of KriBranches (KriBranchesAndControl) supposes. -/
abbrev hyps_KriBranches_6 (s : State) (t : Thr) (d a c : XReg) (off : Imm) : Prop :=
  s.ok ∧ issues s.box t

/-- What clause 8 of KriBranches (KriBranchesAndControl) supposes. -/
abbrev hyps_KriBranches_7 (s : State) (t : Thr) (d a c : XReg) (off : Imm) : Prop :=
  s.ok ∧ issues s.box t

/-- What clause 1 of KriControl (KriBranchesAndControl) supposes. -/
abbrev hyps_KriControl_0 (s : State) (t : Thr) (d a : XReg) (n : Fin 3) : Prop :=
  s.ok ∧ issues s.box t ∧ (s.box.thr t).slots = [] ∧ (s.box.bundleOf t).all (fun x => !x.stopping) = true

/-- What clause 2 of KriControl (KriBranchesAndControl) supposes. -/
abbrev hyps_KriControl_1 (s : State) (t : Thr) (d a : XReg) (n : Fin 3) : Prop :=
  s.ok ∧ issues s.box t ∧ (s.box.thr t).slots = [] ∧ (s.box.bundleOf t).all (fun x => !x.stopping) = true

/-- What clause 3 of KriControl (KriBranchesAndControl) supposes. -/
abbrev hyps_KriControl_2 (s : State) (t : Thr) (d a : XReg) (n : Fin 3) : Prop :=
  s.ok ∧ issues s.box t ∧ (s.box.thr t).slots = [] ∧ (s.box.bundleOf t).all (fun x => !x.stopping) = true

/-- What clause 4 of KriControl (KriBranchesAndControl) supposes. -/
abbrev hyps_KriControl_3 (s : State) (t : Thr) (d a : XReg) (n : Fin 3) : Prop :=
  s.ok ∧ issues s.box t ∧ (s.box.thr t).slots = [] ∧ (s.box.bundleOf t).all (fun x => !x.stopping) = true

/-- What clause 5 of KriControl (KriBranchesAndControl) supposes. -/
abbrev hyps_KriControl_4 (s : State) (t : Thr) (d a : XReg) (n : Fin 3) : Prop :=
  s.ok ∧ issues s.box t ∧ (s.box.thr t).slots = [] ∧ (s.box.bundleOf t).all (fun x => !x.stopping) = true

/-- What clause 6 of KriControl (KriBranchesAndControl) supposes. -/
abbrev hyps_KriControl_5 (s : State) (t : Thr) (d a : XReg) (n : Fin 3) : Prop :=
  s.ok ∧ issues s.box t ∧ (s.box.thr t).slots = [] ∧ (s.box.bundleOf t).all (fun x => !x.stopping) = true

/-- What clause 7 of KriControl (KriBranchesAndControl) supposes. -/
abbrev hyps_KriControl_6 (s : State) (t : Thr) (d a : XReg) (n : Fin 3) : Prop :=
  s.ok ∧ issues s.box t ∧ (s.box.thr t).slots = [] ∧ (s.box.bundleOf t).all (fun x => !x.stopping) = true

/-- What clause 8 of KriControl (KriBranchesAndControl) supposes. -/
abbrev hyps_KriControl_7 (s : State) (t : Thr) (d a : XReg) (n : Fin 3) : Prop :=
  s.ok ∧ issues s.box t ∧ (s.box.thr t).slots = [] ∧ (s.box.bundleOf t).all (fun x => !x.stopping) = true

/-- What clause 9 of KriControl (KriBranchesAndControl) supposes. -/
abbrev hyps_KriControl_8 (s : State) (t : Thr) (d a : XReg) (n : Fin 3) : Prop :=
  s.ok ∧ issues s.box t ∧ (s.box.thr t).slots = [] ∧ (s.box.bundleOf t).all (fun x => !x.stopping) = true

/-- What clause 10 of KriControl (KriBranchesAndControl) supposes. -/
abbrev hyps_KriControl_9 (s : State) (t : Thr) (d a : XReg) (n : Fin 3) : Prop :=
  s.ok ∧ issues s.box t ∧ (s.box.thr t).slots = [] ∧ (s.box.bundleOf t).all (fun x => !x.stopping) = true

/-- What clause 11 of KriControl (KriBranchesAndControl) supposes. -/
abbrev hyps_KriControl_10 (s : State) (t : Thr) (d a : XReg) (n : Fin 3) : Prop :=
  s.ok ∧ issues s.box t ∧ (s.box.thr t).slots = [] ∧ (s.box.bundleOf t).all (fun x => !x.stopping) = true



/-- States and operands that meet the hypotheses of KriScalarRegister, a part of KriScalars. -/
theorem witness_KriScalarRegister :
    (hyps_KriScalarRegister_0 (thr0 5 (2^64-3)) 0 3 1 2)
    ∧ (hyps_KriScalarRegister_1 (thr0 5 (2^64-3)) 0 3 1 2)
    ∧ (hyps_KriScalarRegister_2 (thr0 5 (2^64-3)) 0 3 1 2)
    ∧ (hyps_KriScalarRegister_3 (thr0 5 (2^64-3)) 0 3 1 2)
    ∧ (hyps_KriScalarRegister_4 (thr0 5 (2^64-3)) 0 3 1 2)
    ∧ (hyps_KriScalarRegister_5 (thr0 5 (2^64-3)) 0 3 1 2)
    ∧ (hyps_KriScalarRegister_6 (thr0 5 (2^64-3)) 0 3 1 2)
    ∧ (hyps_KriScalarRegister_7 (thr0 5 (2^64-3)) 0 3 1 2)
    ∧ (hyps_KriScalarRegister_8 (thr0 5 (2^64-3)) 0 3 1 2)
    ∧ (hyps_KriScalarRegister_9 (thr0 5 (2^64-3)) 0 3 1 2)
    ∧ (hyps_KriScalarRegister_10 (thr0 5 (2^64-3)) 0 3 1 2)
    ∧ (hyps_KriScalarRegister_11 (thr0 5 (2^64-3)) 0 3 1 2)
    ∧ (hyps_KriScalarRegister_12 (thr0 5 (2^64-3)) 0 3 1 2)
    ∧ (hyps_KriScalarRegister_13 (thr0 5 (2^64-3)) 0 3 1 2) := by
  refine ⟨?_, ?_, ?_, ?_, ?_, ?_, ?_, ?_, ?_, ?_, ?_, ?_, ?_, ?_⟩ <;>
    first
    | decide +kernel
    | (and_intros <;> first | decide +kernel | (refine ok_of ?_; decide +kernel) | (refine error_of ?_; decide +kernel) | (refine ok_pair ?_ rfl; decide +kernel) | rfl)

/-- States and operands that meet the hypotheses of KriScalarImmediate, a part of KriScalars. -/
theorem witness_KriScalarImmediate :
    (hyps_KriScalarImmediate_0 (thr0 5 (2^64-3)) 0 3 2 (.long (BitVec.ofInt _ (-9))) 0x70000000)
    ∧ (hyps_KriScalarImmediate_1 (thr0 5 (2^64-3)) 0 3 2 (.long (BitVec.ofInt _ (-9))) 0x70000000)
    ∧ (hyps_KriScalarImmediate_2 (thr0 5 (2^64-3)) 0 3 2 (.long (BitVec.ofInt _ (-9))) 0x70000000)
    ∧ (hyps_KriScalarImmediate_3 (thr0 5 (2^64-3)) 0 3 2 (.long (BitVec.ofInt _ (-9))) 0x70000000)
    ∧ (hyps_KriScalarImmediate_4 (thr0 5 (2^64-3)) 0 3 2 (.long (BitVec.ofInt _ (-9))) 0x70000000)
    ∧ (hyps_KriScalarImmediate_5 (thr0 5 (2^64-3)) 0 3 2 (.long (BitVec.ofInt _ (-9))) 0x70000000)
    ∧ (hyps_KriScalarImmediate_6 (thr0 5 (2^64-3)) 0 3 2 (.long (BitVec.ofInt _ (-9))) 0x70000000) := by
  refine ⟨?_, ?_, ?_, ?_, ?_, ?_, ?_⟩ <;>
    first
    | decide +kernel
    | (and_intros <;> first | decide +kernel | (refine ok_of ?_; decide +kernel) | (refine error_of ?_; decide +kernel) | (refine ok_pair ?_ rfl; decide +kernel) | rfl)

/-- States and operands that meet the hypotheses of KriBranches, a part of KriBranchesAndControl. -/
theorem witness_KriBranches :
    (hyps_KriBranches_0 (thr0 5 5) 0 0 1 2 (.short (BitVec.ofInt _ (19))))
    ∧ (hyps_KriBranches_1 (thr0 5 5) 0 0 1 2 (.short (BitVec.ofInt _ (19))))
    ∧ (hyps_KriBranches_2 (thr0 5 5) 0 0 1 2 (.short (BitVec.ofInt _ (19))))
    ∧ (hyps_KriBranches_3 (thr0 5 5) 0 0 1 2 (.short (BitVec.ofInt _ (19))))
    ∧ (hyps_KriBranches_4 (thr0 5 5) 0 0 1 2 (.short (BitVec.ofInt _ (19))))
    ∧ (hyps_KriBranches_5 (thr0 5 5) 0 0 1 2 (.short (BitVec.ofInt _ (19))))
    ∧ (hyps_KriBranches_6 (thr0 5 5) 0 0 1 2 (.short (BitVec.ofInt _ (19))))
    ∧ (hyps_KriBranches_7 (thr0 5 5) 0 0 1 2 (.short (BitVec.ofInt _ (19)))) := by
  refine ⟨?_, ?_, ?_, ?_, ?_, ?_, ?_, ?_⟩ <;>
    first
    | decide +kernel
    | (and_intros <;> first | decide +kernel | (refine ok_of ?_; decide +kernel) | (refine error_of ?_; decide +kernel) | (refine ok_pair ?_ rfl; decide +kernel) | rfl)

/-- States and operands that meet the hypotheses of KriControl, a part of KriBranchesAndControl. -/
theorem witness_KriControl :
    (hyps_KriControl_0 (thr0 (2^64-5) 5) 0 1 1 2)
    ∧ (hyps_KriControl_1 (thr0 (2^64-5) 5) 0 1 1 2)
    ∧ (hyps_KriControl_2 (thr0 (2^64-5) 5) 0 1 1 2)
    ∧ (hyps_KriControl_3 (thr0 (2^64-5) 5) 0 1 1 2)
    ∧ (hyps_KriControl_4 (thr0 (2^64-5) 5) 0 1 1 2)
    ∧ (hyps_KriControl_5 (thr0 (2^64-5) 5) 0 1 1 2)
    ∧ (hyps_KriControl_6 (thr0 (2^64-5) 5) 0 1 1 2)
    ∧ (hyps_KriControl_7 (thr0 (2^64-5) 5) 0 1 1 2)
    ∧ (hyps_KriControl_8 (thr0 (2^64-5) 5) 0 1 1 2)
    ∧ (hyps_KriControl_9 (thr0 (2^64-5) 5) 0 1 1 2)
    ∧ (hyps_KriControl_10 (thr0 (2^64-5) 5) 0 1 1 2) := by
  refine ⟨?_, ?_, ?_, ?_, ?_, ?_, ?_, ?_, ?_, ?_, ?_⟩ <;>
    first
    | decide +kernel
    | (and_intros <;> first | decide +kernel | (refine ok_of ?_; decide +kernel) | (refine error_of ?_; decide +kernel) | (refine ok_pair ?_ rfl; decide +kernel) | rfl)
end P10

namespace P11
/-- What clause 1 of KriLoadsIssue (KriLoads) supposes. -/
abbrev hyps_KriLoadsIssue_0 (s : State) (t : Thr) (d a c : XReg) (m : MAddr) (i : Imm) (size : Fin 4) (p : PReg) (f : Fmt) (st : Site)
    (l : List Site) : Prop :=
  s.ok ∧ issues s.box t ∧ s.box.coreOut (coreOf t) < 64 ∧ (let x := s.box.thr t; let at1 := maddr x a m; s.box.site t at1 (2 ^ size.val) (2 ^ size.val) .read = .ok st)

/-- What clause 2 of KriLoadsIssue (KriLoads) supposes. -/
abbrev hyps_KriLoadsIssue_1 (s : State) (t : Thr) (d a c : XReg) (m : MAddr) (i : Imm) (size : Fin 4) (p : PReg) (f : Fmt) (st : Site)
    (l : List Site) : Prop :=
  s.ok ∧ issues s.box t ∧ s.box.coreOut (coreOf t) < 64 ∧ (let x := s.box.thr t; let at2 := ofSigned 64 ((x.xr a : Int) + immVal i); s.box.site t at2 64 64 .read = .ok st)

/-- What clause 3 of KriLoadsIssue (KriLoads) supposes. -/
abbrev hyps_KriLoadsIssue_2 (s : State) (t : Thr) (d a c : XReg) (m : MAddr) (i : Imm) (size : Fin 4) (p : PReg) (f : Fmt) (st : Site)
    (l : List Site) : Prop :=
  s.ok ∧ issues s.box t ∧ s.box.coreOut (coreOf t) < 64 ∧ (let x := s.box.thr t; let lanes := maskLanes (x.pr p) (fmtLanes f); let strided := lanes.map (fun j => (x.xr a + x.xr c * j) % 2 ^ 64); fmtOk f = true ∧ lanes ≠ [] ∧ s.box.sites t (elemBytes f) (elemBytes f) .read strided = .ok (st :: l))

/-- What clause 4 of KriLoadsIssue (KriLoads) supposes. -/
abbrev hyps_KriLoadsIssue_3 (s : State) (t : Thr) (d a c : XReg) (m : MAddr) (i : Imm) (size : Fin 4) (p : PReg) (f : Fmt) (st : Site)
    (l : List Site) : Prop :=
  s.ok ∧ issues s.box t ∧ s.box.coreOut (coreOf t) < 64 ∧ (let x := s.box.thr t; let lanes := maskLanes (x.pr p) (fmtLanes f); let indexed := lanes.map (fun j => (x.xr a + lane_ (laneBits f) (x.vr c) j) % 2 ^ 64); fmtOk f = true ∧ lanes ≠ [] ∧ s.box.sites t (elemBytes f) (elemBytes f) .read indexed = .ok (st :: l))

/-- What clause 1 of KriStoresScratch (KriStoresAndAtomics) supposes. -/
abbrev hyps_KriStoresScratch_0 (s : State) (t : Thr) (d a c : XReg) (m : MAddr) (i : Imm) (size : Fin 4) (p : PReg) (f : Fmt) (key j : Nat) : Prop :=
  s.ok ∧ issues s.box t ∧ (let x := s.box.thr t; let at1 := maddr x a m; s.box.site t at1 (2 ^ size.val) (2 ^ size.val) .write = .ok (.scratch key))

/-- What clause 2 of KriStoresScratch (KriStoresAndAtomics) supposes. -/
abbrev hyps_KriStoresScratch_1 (s : State) (t : Thr) (d a c : XReg) (m : MAddr) (i : Imm) (size : Fin 4) (p : PReg) (f : Fmt) (key j : Nat) : Prop :=
  s.ok ∧ issues s.box t ∧ (let x := s.box.thr t; let at2 := ofSigned 64 ((x.xr a : Int) + immVal i); s.box.site t at2 64 64 .write = .ok (.scratch key))

/-- What clause 3 of KriStoresScratch (KriStoresAndAtomics) supposes. -/
abbrev hyps_KriStoresScratch_2 (s : State) (t : Thr) (d a c : XReg) (m : MAddr) (i : Imm) (size : Fin 4) (p : PReg) (f : Fmt) (key j : Nat) : Prop :=
  s.ok ∧ issues s.box t ∧ (let x := s.box.thr t; let n := elemBytes f; f.val ∈ [0, 1, 2, 3, 4, 8, 9] ∧ maskLanes (x.pr p) (fmtLanes f) = [j] ∧ s.box.site t ((x.xr a + x.xr c * j) % 2 ^ 64) n n .write = .ok (.scratch key))

/-- What clause 4 of KriStoresScratch (KriStoresAndAtomics) supposes. -/
abbrev hyps_KriStoresScratch_3 (s : State) (t : Thr) (d a c : XReg) (m : MAddr) (i : Imm) (size : Fin 4) (p : PReg) (f : Fmt) (key j : Nat) : Prop :=
  s.ok ∧ issues s.box t ∧ (let x := s.box.thr t; let n := elemBytes f; f.val ∈ [0, 1, 2, 3, 4, 8, 9] ∧ maskLanes (x.pr p) (fmtLanes f) = [j] ∧ s.box.site t ((x.xr a + lane_ (laneBits f) (x.vr c) j) % 2 ^ 64) n n .write = .ok (.scratch key))

/-- What clause 5 of KriStoresScratch (KriStoresAndAtomics) supposes. -/
abbrev hyps_KriStoresScratch_4 (s : State) (t : Thr) (d a c : XReg) (m : MAddr) (i : Imm) (size : Fin 4) (p : PReg) (f : Fmt) (key j : Nat) : Prop :=
  s.ok ∧ issues s.box t ∧ (let x := s.box.thr t; fmtOk f = true ∧ maskLanes (x.pr p) (fmtLanes f) = [])

/-- What clause 1 of KriAtomicsIssue (KriStoresAndAtomics) supposes. -/
abbrev hyps_KriAtomicsIssue_0 (s : State) (t : Thr) (op : AmoOp) (d a c : XReg) (p : PReg) (i : Imm) (acq rel : Bool) (w : Fin 4) (slot : Fin 4)
    (h : HeldSlot) (fr : Held) (st : Site) (l : List Nat) : Prop :=
  s.ok ∧ issues s.box t ∧ s.box.coreOut (coreOf t) < 64 ∧ (let x := s.box.thr t; let off := ofSigned 64 ((x.xr a : Int) + immVal i); x.slots.find slot = some h ∧ s.box.frameOf h.desc = some fr ∧ off < fr.bytes.length)

/-- What clause 2 of KriAtomicsIssue (KriStoresAndAtomics) supposes. -/
abbrev hyps_KriAtomicsIssue_1 (s : State) (t : Thr) (op : AmoOp) (d a c : XReg) (p : PReg) (i : Imm) (acq rel : Bool) (w : Fin 4) (slot : Fin 4)
    (h : HeldSlot) (fr : Held) (st : Site) (l : List Nat) : Prop :=
  s.ok ∧ issues s.box t ∧ s.box.coreOut (coreOf t) < 64 ∧ (let x := s.box.thr t; let n := 4 * (w.val + 1); w.val < 2 ∧ s.box.site t (x.xr a) n n .atomic = .ok st)

/-- What clause 3 of KriAtomicsIssue (KriStoresAndAtomics) supposes. -/
abbrev hyps_KriAtomicsIssue_2 (s : State) (t : Thr) (op : AmoOp) (d a c : XReg) (p : PReg) (i : Imm) (acq rel : Bool) (w : Fin 4) (slot : Fin 4)
    (h : HeldSlot) (fr : Held) (st : Site) (l : List Nat) : Prop :=
  s.ok ∧ issues s.box t ∧ s.box.coreOut (coreOf t) < 64 ∧ (let x := s.box.thr t; w.val = 3 ∧ op ∈ [AmoOp.add, .and, .or, .xor, .min, .max] ∧ x.xr a % 64 = 0 ∧ maskLanes (x.pr p) 16 ≠ [] ∧ s.box.sites t 4 4 .atomic ((maskLanes (x.pr p) 16).map (fun j => (x.xr a + 4 * j) % 2 ^ 64)) = .ok (l.map .baton))

/-- What clause 1 of MemoryAccessDoneLoad (KriLoads) supposes. -/
abbrev hyps_MemoryAccessDoneLoad_0 (s : State) (t : Thr) (n addr key tag : Nat) (d : XReg) : Prop :=
  s.ok ∧ n ∈ [1, 2, 4, 8] ∧ (s.box.thr t).out = [⟨.load n, d, [addr], 0, tag, false, false⟩] ∧ s.box.tst t = thWait ∧ (s.box.thr t).waits = .access ∧ s.box.site t addr n 1 .read = .ok (.scratch key)

def sA : State := thr1 [(1, 128), (2, 64), (3, 1)] [(4, 7 + 2^32*16)] [(2, 3), (3, 0), (4, 1),(5,2^2),(6,8+4)]
def f64 : List Byte := (List.range 70).map (fun n => BitVec.ofNat 8 n)
def sB : State := on (holding (thr1 [(1, 69)] [(4, 5)] [(2, 1)]) 0 (fr0 f64 1 3)) (fun b => b.setThr 0 (fun t => { t with slots := [(2, ⟨desc0 0 (fr0 f64 1 3), 0⟩)] }))
def sC : State := thr1 [(1, batonAddr+128), (2, 64), (3, 1)] [(4, 7 + 2^32*16)] [(2, 3), (3, 0), (4, 1),(5,2^2),(6,8+4)]
def sD (d n : Nat) : State := { on (thr1 [(1, 128)] [] []) (fun b => (b.setThr 0 (fun t => { t with out := [⟨.load n, d, [136], 0, 0, false, false⟩] })).setWait 0 thWait .access) with mem := Memory.store [] 136 [1,2,3,4] }

/-- States and operands that meet the hypotheses of KriLoadsIssue, a part of KriLoads. -/
theorem witness_KriLoadsIssue :
    (hyps_KriLoadsIssue_0 sA 0 5 1 4 (.imm (.short 0)) (.short 0) 0 6 3 (.scratch 128) [.scratch 128])
    ∧ (hyps_KriLoadsIssue_1 sA 0 5 1 4 (.imm (.short 0)) (.short 0) 0 6 3 (.scratch 128) [.scratch 128])
    ∧ (hyps_KriLoadsIssue_2 sA 0 5 1 4 (.imm (.short 0)) (.short 0) 0 6 3 (.scratch 128) [.scratch 128])
    ∧ (hyps_KriLoadsIssue_3 sA 0 5 1 4 (.imm (.short 0)) (.short 0) 0 6 3 (.scratch 128) [.scratch 128]) := by
  refine ⟨?_, ?_, ?_, ?_⟩ <;>
    first
    | decide +kernel
    | (and_intros <;> first | decide +kernel | (refine ok_of ?_; decide +kernel) | (refine error_of ?_; decide +kernel) | (refine ok_pair ?_ rfl; decide +kernel) | rfl)

/-- States and operands that meet the hypotheses of KriStoresScratch, a part of KriStoresAndAtomics. -/
theorem witness_KriStoresScratch :
    (hyps_KriStoresScratch_0 sA 0 4 1 3 (.imm (.short 0)) (.short 0) 3 4 3 128 0)
    ∧ (hyps_KriStoresScratch_1 sA 0 4 1 3 (.imm (.short 0)) (.short 0) 3 4 3 128 0)
    ∧ (hyps_KriStoresScratch_2 sA 0 4 1 3 (.imm (.short 0)) (.short 0) 3 4 3 128 0)
    ∧ (hyps_KriStoresScratch_3 sA 0 4 1 3 (.imm (.short 0)) (.short 0) 3 4 3 128 0)
    ∧ (hyps_KriStoresScratch_4 sA 0 4 1 4 (.imm (.short 0)) (.short 0) 3 3 3 128 2) := by
  refine ⟨?_, ?_, ?_, ?_, ?_⟩ <;>
    first
    | decide +kernel
    | (and_intros <;> first | decide +kernel | (refine ok_of ?_; decide +kernel) | (refine error_of ?_; decide +kernel) | (refine ok_pair ?_ rfl; decide +kernel) | rfl)

/-- States and operands that meet the hypotheses of KriAtomicsIssue, a part of KriStoresAndAtomics. -/
theorem witness_KriAtomicsIssue :
    (hyps_KriAtomicsIssue_0 sB 0 .add 5 1 2 0 (.short 0) true false 1 2 ⟨desc0 0 (fr0 f64 1 3), 0⟩ (fr0 f64 1 3) (.scratch 0) [])
    ∧ (hyps_KriAtomicsIssue_1 sA 0 .cas 5 1 2 0 (.short 0) true false 1 2 ⟨desc0 0 (fr0 f64 1 3), 0⟩ (fr0 f64 1 3) (.scratch 128) [])
    ∧ (hyps_KriAtomicsIssue_2 sC 0 .max 5 1 4 0 (.short 0) true true 3 2 ⟨desc0 0 (fr0 f64 1 3), 0⟩ (fr0 f64 1 3) (.baton (batonAddr+128)) ((List.range 16).map (fun n => batonAddr+128+4*n))) := by
  refine ⟨?_, ?_, ?_⟩ <;>
    first
    | decide +kernel
    | (and_intros <;> first | decide +kernel | (refine ok_of ?_; decide +kernel) | (refine error_of ?_; decide +kernel) | (refine ok_pair ?_ rfl; decide +kernel) | rfl)

/-- States and operands that meet the hypotheses of MemoryAccessDoneLoad, a part of KriLoads. -/
theorem witness_MemoryAccessDoneLoad :
    (hyps_MemoryAccessDoneLoad_0 (sD 5 4) 0 4 136 136 0 5) := by
  first
    | decide +kernel
    | (and_intros <;> first | decide +kernel | (refine ok_of ?_; decide +kernel) | (refine error_of ?_; decide +kernel) | (refine ok_pair ?_ rfl; decide +kernel) | rfl)
end P11

namespace P12
/-- What clause 1 of KriQueues (KriQueuesAndWaits) supposes. -/
abbrev hyps_KriQueues_0 (s : State) (t : Thr) (d a c : XReg) (q : Fin 8) (w : Work) (rest : List Work) (slot : Fin 4) (h : HeldSlot) : Prop :=
  s.ok ∧ issues s.box t ∧ (let x := s.box.thr t; let core := coreOf t; (s.box.bundleOf t).all (fun y => !y.stopping) = true ∧ x.slots.length < 4 ∧ s.box.boundTo core q = x.bundle ∧ s.box.wq core q = w :: rest ∧ w.desc = none)

/-- What clause 2 of KriQueues (KriQueuesAndWaits) supposes. -/
abbrev hyps_KriQueues_1 (s : State) (t : Thr) (d a c : XReg) (q : Fin 8) (w : Work) (rest : List Work) (slot : Fin 4) (h : HeldSlot) : Prop :=
  s.ok ∧ issues s.box t ∧ (let x := s.box.thr t; let core := coreOf t; (s.box.bundleOf t).all (fun y => !y.stopping) = true ∧ x.slots.length < 4 ∧ s.box.wq core q = [])

/-- What clause 3 of KriQueues (KriQueuesAndWaits) supposes. -/
abbrev hyps_KriQueues_2 (s : State) (t : Thr) (d a c : XReg) (q : Fin 8) (w : Work) (rest : List Work) (slot : Fin 4) (h : HeldSlot) : Prop :=
  s.ok ∧ issues s.box t ∧ (let x := s.box.thr t; x.slots.find slot = some h)

/-- What clause 4 of KriQueues (KriQueuesAndWaits) supposes. -/
abbrev hyps_KriQueues_3 (s : State) (t : Thr) (d a c : XReg) (q : Fin 8) (w : Work) (rest : List Work) (slot : Fin 4) (h : HeldSlot) : Prop :=
  s.ok ∧ issues s.box t ∧ (let x := s.box.thr t; let dest := x.xr c % 128; let dq := x.xr c / 128 % 8; (s.box.wq dest dq).length < 64 ∧ (s.box.boundTo dest dq).isSome = true ∧ s.box.waiters dest dq = [])

/-- What clause 5 of KriQueues (KriQueuesAndWaits) supposes. -/
abbrev hyps_KriQueues_4 (s : State) (t : Thr) (d a c : XReg) (q : Fin 8) (w : Work) (rest : List Work) (slot : Fin 4) (h : HeldSlot) : Prop :=
  s.ok ∧ issues s.box t ∧ (let x := s.box.thr t; let core := coreOf t; let dest := x.xr c % 128; let dq := x.xr c / 128 % 8; let img := setBits (setBits (x.vr a) 240 240 1) 507 506 x.workRung; (s.box.wq dest dq).length < 64 ∧ (s.box.boundTo dest dq).isSome = true ∧ s.box.waiters dest dq = [] ∧ halfOfCore dest = halfOfCore core ∧ x.slots.find (bits img 503 502) = some h)

/-- What clause 6 of KriQueues (KriQueuesAndWaits) supposes. -/
abbrev hyps_KriQueues_5 (s : State) (t : Thr) (d a c : XReg) (q : Fin 8) (w : Work) (rest : List Work) (slot : Fin 4) (h : HeldSlot) : Prop :=
  s.ok ∧ issues s.box t ∧ (let x := s.box.thr t; let dest := x.xr c % 128; let dq := x.xr c / 128 % 8; 64 ≤ (s.box.wq dest dq).length)

/-- What clause 1 of KriSends (KriSending) supposes. -/
abbrev hyps_KriSends_0 (s : State) (t : Thr) (d a c : XReg) (w : BitVec 32) (key cell : Nat) (tail : List Nat) (y : HalfBuf) : Prop :=
  s.ok ∧ issues s.box t ∧ (s.box.thr t).slots = [] ∧ (let x := s.box.thr t; let h := halfOfCore (coreOf t); let len := x.xr c; let r := w.toNat % 4; let l := x.xr d % 1024; w.toNat < 4 ∧ 2 ≤ r ∧ x.workRung < r ∧ 60 ≤ len ∧ len ≤ 9212 ∧ s.box.site t (x.xr a) len 1 .read = .ok (.scratch key) ∧ s.box.bpmHeld h = false ∧ HalfBuf.takeN (cellsOf (len + 4)) (s.box.hb h) = some (cell :: tail, y) ∧ cell < cellCount ∧ (cell :: tail).Nodup ∧ halfOf l = h ∧ s.box.eligible l r none = true ∧ s.box.egrAdmits l r (cellsOf (len + 4)) = true)

/-- What clause 2 of KriSends (KriSending) supposes. -/
abbrev hyps_KriSends_1 (s : State) (t : Thr) (d a c : XReg) (w : BitVec 32) (key cell : Nat) (tail : List Nat) (y : HalfBuf) : Prop :=
  s.ok ∧ issues s.box t ∧ (s.box.thr t).slots = [] ∧ (let x := s.box.thr t; let len := x.xr c; let r := w.toNat % 4; w.toNat < 4 ∧ 2 ≤ r ∧ x.workRung < r ∧ 60 ≤ len ∧ len ≤ 9216 ∧ s.box.site t (x.xr a) len 1 .read = .ok (.scratch key) ∧ s.box.mcastPorts (x.xr d % 16384) = [])

/-- What clause 3 of KriSends (KriSending) supposes. -/
abbrev hyps_KriSends_2 (s : State) (t : Thr) (d a c : XReg) (w : BitVec 32) (key cell : Nat) (tail : List Nat) (y : HalfBuf) : Prop :=
  s.ok ∧ issues s.box t ∧ (s.box.thr t).slots = [] ∧ (let x := s.box.thr t; let h := halfOfCore (coreOf t); let len := x.xr c; let r := w.toNat % 4; let bytes := Memory.readBytes s.mem key len; w.toNat < 4 ∧ 2 ≤ r ∧ x.workRung < r ∧ 60 ≤ len ∧ len ≤ 9212 ∧ s.box.site t (x.xr a) len 1 .read = .ok (.scratch key) ∧ s.box.bpmHeld h = false ∧ HalfBuf.takeN (cellsOf (len + 4)) (s.box.hb h) = some (cell :: tail, y) ∧ cell < cellCount ∧ (cell :: tail).Nodup ∧ (s.box.parse (bytes ++ fcs bytes)).bad = none ∧ (s.box.parse (bytes ++ fcs bytes)).ctl = true ∧ 9216 ≤ s.box.get .fwdMtu)

/-- What clause 1 of KriSendAdmitted (KriSending) supposes. -/
abbrev hyps_KriSendAdmitted_0 (s : State) (t : Thr) (l : Fin 1024) (r cell : Nat) (bytes : List Byte) (tail : List Nat) (y : HalfBuf) : Prop :=
  s.ok ∧ r ∈ [2, 3] ∧ (s.box.thr t).waits = .send (some l) none r bytes ∧ bytes ≠ [] ∧ (let h := halfOfCore (coreOf t); s.box.bpmHeld h = true)

/-- What clause 2 of KriSendAdmitted (KriSending) supposes. -/
abbrev hyps_KriSendAdmitted_1 (s : State) (t : Thr) (l : Fin 1024) (r cell : Nat) (bytes : List Byte) (tail : List Nat) (y : HalfBuf) : Prop :=
  s.ok ∧ r ∈ [2, 3] ∧ (s.box.thr t).waits = .send (some l) none r bytes ∧ bytes ≠ [] ∧ (let h := halfOfCore (coreOf t); let n := cellsOf (bytes.length + 4); s.box.bpmHeld h = false ∧ HalfBuf.takeN n (s.box.hb h) = some (cell :: tail, y) ∧ cell < cellCount ∧ (cell :: tail).Nodup ∧ halfOf l = h ∧ s.box.eligible l r none = true ∧ s.box.egrAdmits l r n = true)

/-- What clause 1 of KriWaita (KriQueuesAndWaits) supposes. -/
abbrev hyps_KriWaita_0 (s : State) (t : Thr) (a c : XReg) (line : Nat) : Prop :=
  s.ok ∧ (let x := s.box.thr t; issues s.box t ∧ s.box.site t (x.xr a) 64 64 .read = .ok (.baton line))

/-- What clause 2 of KriWaita (KriQueuesAndWaits) supposes. -/
abbrev hyps_KriWaita_1 (s : State) (t : Thr) (a c : XReg) (line : Nat) : Prop :=
  s.ok ∧ (let x := s.box.thr t; x.waits = .line line)

def sA : State := thr1 [(1, 0), (2, 60), (3, 24),(4,128*0+5),(5,128*2+5)] [(4, 7 + 2^32*16),(5,2^502*2 + 2^507*3),(1,2^502*1 + 2^507*3)] [(2, 3), (3, 0)]
-- queues
def f64 : List Byte := (List.range 70).map (fun n => BitVec.ofNat 8 n)
def h0 : HeldSlot := ⟨desc0 0 (fr0 f64 1 3), 0⟩
def sQ : State := on (holding (with_ sA [(.rlyWqBundle,0,1,0,0),(.rlyWqBundle,5,2,0,0),(.rlyWqBundle,5,0,0,0)]) 0 (fr0 f64 1 3)) (fun b => (b.setWq 0 1 [⟨5 + 2^507*2, none⟩, ⟨3, none⟩]).setThr 0 (fun t => { t with status := 1, slots := [(2, h0)] }))
def sQ2 : State := on sQ (fun b => b.setWq 5 2 ((List.range 64).map (fun n => ⟨n, none⟩)))
-- sends
def up (f s : Nat) (st : State) : State := with_ st [(.prtLaneState,f,s,0,lnUp)]
def cellsAt (s : State) (n : Nat) (h : Nat) : Nat × List Nat × HalfBuf := match HalfBuf.takeN n (s.box.hb h) with | some (c::t,y) => (c,t,y) | _ => (0,[],{})
def k1 := cellsAt sA 1 0
def sS : State := { up 3 0 sA with mem := Memory.store [] 0 [1,0x80,0xC2,0,0,0xE,1,2,3,4,5,6,0x88,0xB5] }
def k2 := cellsAt sA 36 0
def sS2 := on sS (fun b => b.setThr 0 (fun t => {t with x := [(1,0),(2,8192),(3,24)]}))
def sW : State := on (up 3 0 sA) (fun b => b.setWait 0 thWait (.send (some 24) none 3 f64))
-- waita
def sV (l : List (Nat × Bool)) : State := on (thr1 [(1, batonAddr+128)] [] []) (fun b => b.setThr 0 (fun t => {t with lines := l}))

/-- States and operands that meet the hypotheses of KriQueues, a part of KriQueuesAndWaits. -/
theorem witness_KriQueues :
    (hyps_KriQueues_1 sQ 0 5 5 5 0 ⟨5 + 2^507*2, none⟩ [⟨3, none⟩] 2 h0)
    ∧ (hyps_KriQueues_2 sQ 0 5 5 5 0 ⟨5 + 2^507*2, none⟩ [⟨3, none⟩] 2 h0)
    ∧ (hyps_KriQueues_3 sQ 0 5 5 5 0 ⟨5 + 2^507*2, none⟩ [⟨3, none⟩] 2 h0)
    ∧ (hyps_KriQueues_4 sQ 0 5 5 5 0 ⟨5 + 2^507*2, none⟩ [⟨3, none⟩] 2 h0)
    ∧ (hyps_KriQueues_0 sQ 0 5 1 4 1 ⟨5 + 2^507*2, none⟩ [⟨3, none⟩] 2 h0)
    ∧ (hyps_KriQueues_5 sQ2 0 5 1 5 7 ⟨5 + 2^507*2, none⟩ [⟨3, none⟩] 3 h0) := by
  refine ⟨?_, ?_, ?_, ?_, ?_, ?_⟩ <;>
    first
    | decide +kernel
    | (and_intros <;> first | decide +kernel | (refine ok_of ?_; decide +kernel) | (refine error_of ?_; decide +kernel) | (refine ok_pair ?_ rfl; decide +kernel) | rfl)

/-- States and operands that meet the hypotheses of KriSends, a part of KriSending. -/
theorem witness_KriSends :
    (hyps_KriSends_0 sS 0 3 1 2 2 0 k1.1 k1.2.1 k1.2.2)
    ∧ (hyps_KriSends_1 sS 0 3 1 2 2 0 k1.1 k1.2.1 k1.2.2)
    ∧ (hyps_KriSends_2 sS 0 3 1 2 2 0 k1.1 k1.2.1 k1.2.2) := by
  refine ⟨?_, ?_, ?_⟩ <;>
    first
    | decide +kernel
    | (and_intros <;> first | decide +kernel | (refine ok_of ?_; decide +kernel) | (refine error_of ?_; decide +kernel) | (refine ok_pair ?_ rfl; decide +kernel) | rfl)

/-- States and operands that meet the hypotheses of KriSendAdmitted, a part of KriSending. -/
theorem witness_KriSendAdmitted :
    (hyps_KriSendAdmitted_1 sW 0 24 3 k1.1 f64 k1.2.1 k1.2.2)
    ∧ (hyps_KriSendAdmitted_0 (on sW (fun b => {b with mar := {b.mar with resets := [⟨4,0,0,0,0,[]⟩]}})) 0 24 3 k1.1 f64 k1.2.1 k1.2.2) := by
  refine ⟨?_, ?_⟩ <;>
    first
    | decide +kernel
    | (and_intros <;> first | decide +kernel | (refine ok_of ?_; decide +kernel) | (refine error_of ?_; decide +kernel) | (refine ok_pair ?_ rfl; decide +kernel) | rfl)

/-- States and operands that meet the hypotheses of KriWaita, a part of KriQueuesAndWaits. -/
theorem witness_KriWaita :
    (hyps_KriWaita_0 (sV []) 0 1 2 (batonAddr+128))
    ∧ (hyps_KriWaita_1 (on (sV [(batonAddr+128,false)]) (fun b => b.setWait 0 thIdle (.line (batonAddr+128)))) 0 1 2 (batonAddr+128)) := by
  refine ⟨?_, ?_⟩ <;>
    first
    | decide +kernel
    | (and_intros <;> first | decide +kernel | (refine ok_of ?_; decide +kernel) | (refine error_of ?_; decide +kernel) | (refine ok_pair ?_ rfl; decide +kernel) | rfl)
end P12

namespace P13c
/-- What clause 1 of KriVectorArithmetic (KriVectorElements) supposes. -/
abbrev hyps_KriVectorArithmetic_0 (s : State) (t : Thr) (d a c : XReg) (p : PReg) (f : Fmt) : Prop :=
  s.ok ∧ issues s.box t ∧ f.val < 10

/-- What clause 2 of KriVectorArithmetic (KriVectorElements) supposes. -/
abbrev hyps_KriVectorArithmetic_1 (s : State) (t : Thr) (d a c : XReg) (p : PReg) (f : Fmt) : Prop :=
  s.ok ∧ issues s.box t ∧ f.val < 10

/-- What clause 3 of KriVectorArithmetic (KriVectorElements) supposes. -/
abbrev hyps_KriVectorArithmetic_2 (s : State) (t : Thr) (d a c : XReg) (p : PReg) (f : Fmt) : Prop :=
  s.ok ∧ issues s.box t ∧ f.val < 10

/-- What clause 4 of KriVectorArithmetic (KriVectorElements) supposes. -/
abbrev hyps_KriVectorArithmetic_3 (s : State) (t : Thr) (d a c : XReg) (p : PReg) (f : Fmt) : Prop :=
  s.ok ∧ issues s.box t ∧ f.val < 10

/-- What clause 5 of KriVectorArithmetic (KriVectorElements) supposes. -/
abbrev hyps_KriVectorArithmetic_4 (s : State) (t : Thr) (d a c : XReg) (p : PReg) (f : Fmt) : Prop :=
  s.ok ∧ issues s.box t ∧ f.val < 10

/-- What clause 6 of KriVectorArithmetic (KriVectorElements) supposes. -/
abbrev hyps_KriVectorArithmetic_5 (s : State) (t : Thr) (d a c : XReg) (p : PReg) (f : Fmt) : Prop :=
  s.ok ∧ issues s.box t ∧ f.val < 10 ∧ (let isInt : Prop := f.val = 8 ∨ f.val = 9; ¬ isInt)

/-- What clause 7 of KriVectorArithmetic (KriVectorElements) supposes. -/
abbrev hyps_KriVectorArithmetic_6 (s : State) (t : Thr) (d a c : XReg) (p : PReg) (f : Fmt) : Prop :=
  s.ok ∧ issues s.box t ∧ f.val < 10 ∧ (let isInt : Prop := f.val = 8 ∨ f.val = 9; ¬ isInt)

/-- What clause 1 of KriVectorBits (KriVectorElements) supposes. -/
abbrev hyps_KriVectorBits_0 (s : State) (t : Thr) (d a c : XReg) (p : PReg) (f : Fmt) : Prop :=
  s.ok ∧ issues s.box t ∧ f.val < 10

/-- What clause 2 of KriVectorBits (KriVectorElements) supposes. -/
abbrev hyps_KriVectorBits_1 (s : State) (t : Thr) (d a c : XReg) (p : PReg) (f : Fmt) : Prop :=
  s.ok ∧ issues s.box t ∧ f.val < 10

/-- What clause 3 of KriVectorBits (KriVectorElements) supposes. -/
abbrev hyps_KriVectorBits_2 (s : State) (t : Thr) (d a c : XReg) (p : PReg) (f : Fmt) : Prop :=
  s.ok ∧ issues s.box t ∧ f.val < 10

/-- What clause 4 of KriVectorBits (KriVectorElements) supposes. -/
abbrev hyps_KriVectorBits_3 (s : State) (t : Thr) (d a c : XReg) (p : PReg) (f : Fmt) : Prop :=
  s.ok ∧ issues s.box t ∧ f.val < 10 ∧ (f.val = 8 ∨ f.val = 9)

/-- What clause 5 of KriVectorBits (KriVectorElements) supposes. -/
abbrev hyps_KriVectorBits_4 (s : State) (t : Thr) (d a c : XReg) (p : PReg) (f : Fmt) : Prop :=
  s.ok ∧ issues s.box t ∧ f.val < 10 ∧ (let x := s.box.thr t; let w := laneBits f; let raw (r i : Nat) : Nat := lane_ w (x.vr r) i; (∀ i < fmtLanes f, raw c i < w))

/-- What clause 6 of KriVectorBits (KriVectorElements) supposes. -/
abbrev hyps_KriVectorBits_5 (s : State) (t : Thr) (d a c : XReg) (p : PReg) (f : Fmt) : Prop :=
  s.ok ∧ issues s.box t ∧ f.val < 10

/-- What clause 7 of KriVectorBits (KriVectorElements) supposes. -/
abbrev hyps_KriVectorBits_6 (s : State) (t : Thr) (d a c : XReg) (p : PReg) (f : Fmt) : Prop :=
  s.ok ∧ issues s.box t ∧ f.val < 10

/-- What clause 8 of KriVectorBits (KriVectorElements) supposes. -/
abbrev hyps_KriVectorBits_7 (s : State) (t : Thr) (d a c : XReg) (p : PReg) (f : Fmt) : Prop :=
  s.ok ∧ issues s.box t ∧ f.val < 10 ∧ (let x := s.box.thr t; let w := laneBits f; let raw (r i : Nat) : Nat := lane_ w (x.vr r) i; (∀ i < fmtLanes f, raw c i < fmtLanes f))

/-- What clause 1 of KriVectorCompare (KriVectorReductions) supposes. -/
abbrev hyps_KriVectorCompare_0 (s : State) (t : Thr) (r : CmpRel) (d : PReg) (a c : XReg) (p : PReg) : Prop :=
  s.ok ∧ issues s.box t

/-- What clause 1 of KriVectorWide (KriVectorReductions) supposes. -/
abbrev hyps_KriVectorWide_0 (s : State) (t : Thr) (d a c : XReg) (p : PReg) (f g : Fmt) (k : BitVec 32) : Prop :=
  s.ok ∧ issues s.box t ∧ f.val < 10 ∧ g.val < 10 ∧ fmtLanes f = fmtLanes g ∧ vxCtl k.toNat = ⟨f, 0, 0, false, false, true⟩ ∧ f.val ≠ 8

/-- What clause 2 of KriVectorWide (KriVectorReductions) supposes. -/
abbrev hyps_KriVectorWide_1 (s : State) (t : Thr) (d a c : XReg) (p : PReg) (f g : Fmt) (k : BitVec 32) : Prop :=
  s.ok ∧ issues s.box t ∧ f.val < 10 ∧ g.val < 10 ∧ fmtLanes f = fmtLanes g ∧ vxCtl k.toNat = ⟨g, 0, 0, false, false, true⟩

/-- What clause 1 of KriVectorPairs (KriVectorReductions) supposes. -/
abbrev hyps_KriVectorPairs_0 (s : State) (t : Thr) (d a c : XReg) (p : PReg) (f : Fmt) (k : BitVec 32) : Prop :=
  s.ok ∧ issues s.box t ∧ f.val < 10 ∧ (vxCtl k.toNat).clean = true ∧ bits k.toNat 25 22 = 0

/-- What clause 2 of KriVectorPairs (KriVectorReductions) supposes. -/
abbrev hyps_KriVectorPairs_1 (s : State) (t : Thr) (d a c : XReg) (p : PReg) (f : Fmt) (k : BitVec 32) : Prop :=
  s.ok ∧ issues s.box t ∧ f.val < 10 ∧ (vxCtl k.toNat).clean = true ∧ bits k.toNat 25 22 = 0

def rnd (n : Nat) : Nat := ((List.range 8).foldl (fun a i => a * 2^64 + ((n*8+i+1) * 0x9E3779B97F4A7C15 % 2^64 ^^^ ((n*8+i+7) * 0xBF58476D1CE4E5B9 / 2^20 % 2^64))) 0)
def sV (n : Nat) : State := thr1 [(1, 0x40490fdb), (2, rnd 9)] [(1, rnd n), (2, rnd (n+31)), (3, rnd (n+77)), (4, if n%2=0 then 0x0302010003020100 else 0x000100020003000F)] [(1, rnd n % 2^128), (2, 2^128-1), (3, 0)]

/-- States and operands that meet the hypotheses of KriVectorArithmetic, a part of KriVectorElements. -/
theorem witness_KriVectorArithmetic :
    (hyps_KriVectorArithmetic_0 (sV 0) 0 1 1 1 (Fin.ofNat 8 (0)) (Fin.ofNat 16 (0 % 10)))
    ∧ (hyps_KriVectorArithmetic_1 (sV 0) 0 1 1 1 (Fin.ofNat 8 (0)) (Fin.ofNat 16 (0 % 10)))
    ∧ (hyps_KriVectorArithmetic_2 (sV 0) 0 1 1 1 (Fin.ofNat 8 (0)) (Fin.ofNat 16 (0 % 10)))
    ∧ (hyps_KriVectorArithmetic_3 (sV 0) 0 1 1 1 (Fin.ofNat 8 (0)) (Fin.ofNat 16 (0 % 10)))
    ∧ (hyps_KriVectorArithmetic_4 (sV 0) 0 1 1 1 (Fin.ofNat 8 (0)) (Fin.ofNat 16 (0 % 10)))
    ∧ (hyps_KriVectorArithmetic_5 (sV 0) 0 1 1 1 (Fin.ofNat 8 (0)) (Fin.ofNat 16 (0 % 10)))
    ∧ (hyps_KriVectorArithmetic_6 (sV 0) 0 1 1 1 (Fin.ofNat 8 (0)) (Fin.ofNat 16 (0 % 10))) := by
  refine ⟨?_, ?_, ?_, ?_, ?_, ?_, ?_⟩ <;>
    first
    | decide +kernel
    | (and_intros <;> first | decide +kernel | (refine ok_of ?_; decide +kernel) | (refine error_of ?_; decide +kernel) | (refine ok_pair ?_ rfl; decide +kernel) | rfl)

/-- States and operands that meet the hypotheses of KriVectorBits, a part of KriVectorElements. -/
theorem witness_KriVectorBits :
    (hyps_KriVectorBits_0 (sV 8) 0 1 1 4 (Fin.ofNat 8 (0)) (Fin.ofNat 16 (8 % 10)))
    ∧ (hyps_KriVectorBits_1 (sV 8) 0 1 1 4 (Fin.ofNat 8 (0)) (Fin.ofNat 16 (8 % 10)))
    ∧ (hyps_KriVectorBits_2 (sV 8) 0 1 1 4 (Fin.ofNat 8 (0)) (Fin.ofNat 16 (8 % 10)))
    ∧ (hyps_KriVectorBits_3 (sV 8) 0 1 1 4 (Fin.ofNat 8 (0)) (Fin.ofNat 16 (8 % 10)))
    ∧ (hyps_KriVectorBits_4 (sV 8) 0 1 1 4 (Fin.ofNat 8 (0)) (Fin.ofNat 16 (8 % 10)))
    ∧ (hyps_KriVectorBits_5 (sV 8) 0 1 1 4 (Fin.ofNat 8 (0)) (Fin.ofNat 16 (8 % 10)))
    ∧ (hyps_KriVectorBits_6 (sV 8) 0 1 1 4 (Fin.ofNat 8 (0)) (Fin.ofNat 16 (8 % 10)))
    ∧ (hyps_KriVectorBits_7 (sV 8) 0 1 1 4 (Fin.ofNat 8 (0)) (Fin.ofNat 16 (8 % 10))) := by
  refine ⟨?_, ?_, ?_, ?_, ?_, ?_, ?_, ?_⟩ <;>
    first
    | decide +kernel
    | (and_intros <;> first | decide +kernel | (refine ok_of ?_; decide +kernel) | (refine error_of ?_; decide +kernel) | (refine ok_pair ?_ rfl; decide +kernel) | rfl)

/-- States and operands that meet the hypotheses of KriVectorCompare, a part of KriVectorReductions. -/
theorem witness_KriVectorCompare :
    (hyps_KriVectorCompare_0 (sV 0) 0 (if 0%4=0 then .eq else if 0%4=1 then .ne else if 0%4=2 then .lt else .ge) (Fin.ofNat 8 (0 % 3)) 1 (if 0%5=0 then 1 else 2) (Fin.ofNat 8 (0 % 4))) := by
  first
    | decide +kernel
    | (and_intros <;> first | decide +kernel | (refine ok_of ?_; decide +kernel) | (refine error_of ?_; decide +kernel) | (refine ok_pair ?_ rfl; decide +kernel) | rfl)

/-- States and operands that meet the hypotheses of KriVectorWide, a part of KriVectorReductions. -/
theorem witness_KriVectorWide :
    (hyps_KriVectorWide_0 (sV 0) 0 3 1 2 (Fin.ofNat 8 (1 + 0 % 3)) (Fin.ofNat 16 (0 % 10)) (Fin.ofNat 16 (0 % 10)) (BitVec.ofNat 32 ((0%10) * 2^28)))
    ∧ (hyps_KriVectorWide_1 (sV 0) 0 3 1 2 (Fin.ofNat 8 (1 + 0 % 3)) (Fin.ofNat 16 (0 % 10)) (Fin.ofNat 16 (0 % 10)) (BitVec.ofNat 32 ((0%10) * 2^28))) := by
  refine ⟨?_, ?_⟩ <;>
    first
    | decide +kernel
    | (and_intros <;> first | decide +kernel | (refine ok_of ?_; decide +kernel) | (refine error_of ?_; decide +kernel) | (refine ok_pair ?_ rfl; decide +kernel) | rfl)

/-- States and operands that meet the hypotheses of KriVectorPairs, a part of KriVectorReductions. -/
theorem witness_KriVectorPairs :
    (hyps_KriVectorPairs_0 (sV 0) 0 1 1 2 (Fin.ofNat 8 (0)) (Fin.ofNat 16 (0 % 10)) (BitVec.ofNat 32 ((0%10) * 2^28)))
    ∧ (hyps_KriVectorPairs_1 (sV 0) 0 1 1 2 (Fin.ofNat 8 (0)) (Fin.ofNat 16 (0 % 10)) (BitVec.ofNat 32 ((0%10) * 2^28))) := by
  refine ⟨?_, ?_⟩ <;>
    first
    | decide +kernel
    | (and_intros <;> first | decide +kernel | (refine ok_of ?_; decide +kernel) | (refine error_of ?_; decide +kernel) | (refine ok_pair ?_ rfl; decide +kernel) | rfl)
end P13c

namespace P14
/-- What clause 1 of TimeWrites (FabricTimeWrites) supposes. -/
abbrev hyps_TimeWrites_0 (s : State) (src : Src) (n : Fin 64) (act : BitVec 4) (v40 : BitVec 40) (v48 : BitVec 48) (v64 : BitVec 64) : Prop :=
  s.ok ∧ writer s.box src ∧ (let b := s.box; b.get .timCalState n = 0 ∧ act ≠ 0 ∧ b.lap < b.get .timCalLap n ∧ b.mayArm src.toNat act.toNat (b.get .timCalArg n) = true)

/-- What clause 2 of TimeWrites (FabricTimeWrites) supposes. -/
abbrev hyps_TimeWrites_1 (s : State) (src : Src) (n : Fin 64) (act : BitVec 4) (v40 : BitVec 40) (v48 : BitVec 48) (v64 : BitVec 64) : Prop :=
  s.ok ∧ writer s.box src ∧ (let b := s.box; b.get .timCalState n = 1 ∧ b.mayArm src.toNat (b.get .timCalAction n) (b.get .timCalArg n) = true)

/-- What clause 3 of TimeWrites (FabricTimeWrites) supposes. -/
abbrev hyps_TimeWrites_2 (s : State) (src : Src) (n : Fin 64) (act : BitVec 4) (v40 : BitVec 40) (v48 : BitVec 48) (v64 : BitVec 64) : Prop :=
  s.ok ∧ writer s.box src ∧ 7996 * 2 ^ 40 ≤ v40.toNat * 10000 ∧ v40.toNat * 10000 ≤ 8004 * 2 ^ 40

/-- What clause 4 of TimeWrites (FabricTimeWrites) supposes. -/
abbrev hyps_TimeWrites_3 (s : State) (src : Src) (n : Fin 64) (act : BitVec 4) (v40 : BitVec 40) (v48 : BitVec 48) (v64 : BitVec 64) : Prop :=
  s.ok ∧ writer s.box src ∧ (let b := s.box; (∀ g < 16, b.cgState g ∉ [cgSealed, cgVoted, cgInDoubt]))

/-- What clause 5 of TimeWrites (FabricTimeWrites) supposes. -/
abbrev hyps_TimeWrites_4 (s : State) (src : Src) (n : Fin 64) (act : BitVec 4) (v40 : BitVec 40) (v48 : BitVec 48) (v64 : BitVec 64) : Prop :=
  s.ok ∧ writer s.box src ∧ (let b := s.box; b.acquired = false)

/-- What clause 6 of TimeWrites (FabricTimeWrites) supposes. -/
abbrev hyps_TimeWrites_5 (s : State) (src : Src) (n : Fin 64) (act : BitVec 4) (v40 : BitVec 40) (v48 : BitVec 48) (v64 : BitVec 64) : Prop :=
  s.ok ∧ writer s.box src

/-- What clause 7 of TimeWrites (FabricTimeWrites) supposes. -/
abbrev hyps_TimeWrites_6 (s : State) (src : Src) (n : Fin 64) (act : BitVec 4) (v40 : BitVec 40) (v48 : BitVec 48) (v64 : BitVec 64) : Prop :=
  s.ok ∧ writer s.box src ∧ (let b := s.box; (∀ g < 16, b.cgState g = cgFree))

/-- What clause 1 of TimeWritesRefused (FabricTimeWrites) supposes. -/
abbrev hyps_TimeWritesRefused_0 (s : State) (src : Src) (n : Fin 64) (act : BitVec 4) (v40 : BitVec 40) (v48 : BitVec 48) (v64 : BitVec 64) (g : Fin 16) : Prop :=
  s.ok ∧ writer s.box src ∧ (let b := s.box; act ≠ 0 ∧ b.get .timCalState n = 1)

/-- What clause 2 of TimeWritesRefused (FabricTimeWrites) supposes. -/
abbrev hyps_TimeWritesRefused_1 (s : State) (src : Src) (n : Fin 64) (act : BitVec 4) (v40 : BitVec 40) (v48 : BitVec 48) (v64 : BitVec 64) (g : Fin 16) : Prop :=
  s.ok ∧ writer s.box src ∧ (let b := s.box; act ≠ 0 ∧ b.get .timCalLap n ≤ b.lap)

/-- What clause 3 of TimeWritesRefused (FabricTimeWrites) supposes. -/
abbrev hyps_TimeWritesRefused_2 (s : State) (src : Src) (n : Fin 64) (act : BitVec 4) (v40 : BitVec 40) (v48 : BitVec 48) (v64 : BitVec 64) (g : Fin 16) : Prop :=
  s.ok ∧ writer s.box src ∧ (v40.toNat * 10000 < 7996 * 2 ^ 40 ∨ 8004 * 2 ^ 40 < v40.toNat * 10000)

/-- What clause 4 of TimeWritesRefused (FabricTimeWrites) supposes. -/
abbrev hyps_TimeWritesRefused_3 (s : State) (src : Src) (n : Fin 64) (act : BitVec 4) (v40 : BitVec 40) (v48 : BitVec 48) (v64 : BitVec 64) (g : Fin 16) : Prop :=
  s.ok ∧ writer s.box src ∧ (let b := s.box; b.cgState g ∈ [cgSealed, cgVoted, cgInDoubt])

/-- What clause 5 of TimeWritesRefused (FabricTimeWrites) supposes. -/
abbrev hyps_TimeWritesRefused_4 (s : State) (src : Src) (n : Fin 64) (act : BitVec 4) (v40 : BitVec 40) (v48 : BitVec 48) (v64 : BitVec 64) (g : Fin 16) : Prop :=
  s.ok ∧ writer s.box src ∧ (let b := s.box; b.acquired = true)

/-- What clause 6 of TimeWritesRefused (FabricTimeWrites) supposes. -/
abbrev hyps_TimeWritesRefused_5 (s : State) (src : Src) (n : Fin 64) (act : BitVec 4) (v40 : BitVec 40) (v48 : BitVec 48) (v64 : BitVec 64) (g : Fin 16) : Prop :=
  s.ok ∧ writer s.box src ∧ (let b := s.box; b.acquired = true ∧ b.cgState g ≠ cgFree)

/-- What clause 1 of TimePulse (FabricTimeWrites) supposes. -/
abbrev hyps_TimePulse_0 (s : State) (w : BitVec 32) : Prop :=
  s.ok ∧ (let b := s.box; let far : Prop := ∀ t, b.tim.pulseAt = some t → t + 1000000 * 65536 ≤ b.stamp; let good : Prop := 100 ≤ w.toNat ∧ w.toNat ≤ 10000 ∧ far; good ∧ b.get .timPulseCnt < 2 ^ 32 - 1)

/-- What clause 2 of TimePulse (FabricTimeWrites) supposes. -/
abbrev hyps_TimePulse_1 (s : State) (w : BitVec 32) : Prop :=
  s.ok ∧ (let b := s.box; let far : Prop := ∀ t, b.tim.pulseAt = some t → t + 1000000 * 65536 ≤ b.stamp; let good : Prop := 100 ≤ w.toNat ∧ w.toNat ≤ 10000 ∧ far; ¬good ∧ b.get .timPulseBad < 2 ^ 32 - 1)

def s0 := r0
def sP (p : Option Nat) : State := on r0 (fun b => {b with tim := {b.tim with pulseAt := p}})

/-- States and operands that meet the hypotheses of TimeWrites, a part of FabricTimeWrites. -/
theorem witness_TimeWrites :
    (hyps_TimeWrites_0 (with_ r0 [(.timCalLap,3,0,0,5),(.timCalArg,3,0,0,2)]) 0 3 7 0xCCCCCCCCCD 5 77)
    ∧ (hyps_TimeWrites_2 (with_ r0 [(.timCalLap,3,0,0,5),(.timCalArg,3,0,0,2)]) 0 3 7 0xCCCCCCCCCD 5 77)
    ∧ (hyps_TimeWrites_3 (with_ r0 [(.timCalLap,3,0,0,5),(.timCalArg,3,0,0,2)]) 0 3 7 0xCCCCCCCCCD 5 77)
    ∧ (hyps_TimeWrites_4 (with_ r0 [(.timCalLap,3,0,0,5),(.timCalArg,3,0,0,2)]) 0 3 7 0xCCCCCCCCCD 5 77)
    ∧ (hyps_TimeWrites_5 (with_ r0 [(.timCalLap,3,0,0,5),(.timCalArg,3,0,0,2)]) 0 3 7 0xCCCCCCCCCD 5 77)
    ∧ (hyps_TimeWrites_6 (with_ r0 [(.timCalLap,3,0,0,5),(.timCalArg,3,0,0,2)]) 0 3 7 0xCCCCCCCCCD 5 77)
    ∧ (hyps_TimeWrites_1 (with_ r0 [(.timCalLap,3,0,0,5),(.timCalArg,3,0,0,2),(.timCalAction,3,0,0,7),(.timCalState,3,0,0,1)]) 0 3 7 (BitVec.ofNat 40 (7996 * 2 ^ 40 / 10000+1)) (-5) 77) := by
  refine ⟨?_, ?_, ?_, ?_, ?_, ?_, ?_⟩ <;>
    first
    | decide +kernel
    | (and_intros <;> first | decide +kernel | (refine ok_of ?_; decide +kernel) | (refine error_of ?_; decide +kernel) | (refine ok_pair ?_ rfl; decide +kernel) | rfl)

/-- States and operands that meet the hypotheses of TimeWritesRefused, a part of FabricTimeWrites. -/
theorem witness_TimeWritesRefused :
    (hyps_TimeWritesRefused_0 (with_ r0 [(.timCalState,3,0,0,1),(.timCgState,2,0,0,cgSealed),(.timCtrlAcquired,0,0,0,1)]) 0 3 7 (BitVec.ofNat 40 (8004 * 2 ^ 40 / 10000 + 1)) (-5) 77 2)
    ∧ (hyps_TimeWritesRefused_1 (with_ r0 [(.timCalState,3,0,0,1),(.timCgState,2,0,0,cgSealed),(.timCtrlAcquired,0,0,0,1)]) 0 3 7 (BitVec.ofNat 40 (8004 * 2 ^ 40 / 10000 + 1)) (-5) 77 2)
    ∧ (hyps_TimeWritesRefused_2 (with_ r0 [(.timCalState,3,0,0,1),(.timCgState,2,0,0,cgSealed),(.timCtrlAcquired,0,0,0,1)]) 0 3 7 (BitVec.ofNat 40 (8004 * 2 ^ 40 / 10000 + 1)) (-5) 77 2)
    ∧ (hyps_TimeWritesRefused_3 (with_ r0 [(.timCalState,3,0,0,1),(.timCgState,2,0,0,cgSealed),(.timCtrlAcquired,0,0,0,1)]) 0 3 7 (BitVec.ofNat 40 (8004 * 2 ^ 40 / 10000 + 1)) (-5) 77 2)
    ∧ (hyps_TimeWritesRefused_4 (with_ r0 [(.timCalState,3,0,0,1),(.timCgState,2,0,0,cgSealed),(.timCtrlAcquired,0,0,0,1)]) 0 3 7 (BitVec.ofNat 40 (8004 * 2 ^ 40 / 10000 + 1)) (-5) 77 2)
    ∧ (hyps_TimeWritesRefused_5 (with_ r0 [(.timCalState,3,0,0,1),(.timCgState,2,0,0,cgSealed),(.timCtrlAcquired,0,0,0,1)]) 0 3 7 (BitVec.ofNat 40 (8004 * 2 ^ 40 / 10000 + 1)) (-5) 77 2) := by
  refine ⟨?_, ?_, ?_, ?_, ?_, ?_⟩ <;>
    first
    | decide +kernel
    | (and_intros <;> first | decide +kernel | (refine ok_of ?_; decide +kernel) | (refine error_of ?_; decide +kernel) | (refine ok_pair ?_ rfl; decide +kernel) | rfl)

/-- States and operands that meet the hypotheses of TimePulse, a part of FabricTimeWrites. -/
theorem witness_TimePulse :
    (hyps_TimePulse_0 (sP none) 100)
    ∧ (hyps_TimePulse_1 (sP none) 10001) := by
  refine ⟨?_, ?_⟩ <;>
    first
    | decide +kernel
    | (and_intros <;> first | decide +kernel | (refine ok_of ?_; decide +kernel) | (refine error_of ?_; decide +kernel) | (refine ok_pair ?_ rfl; decide +kernel) | rfl)
end P14

namespace P15
/-- What clause 1 of DirectTableRecords (ForwardingTables) supposes. -/
abbrev hyps_DirectTableRecords_0 (s : State) (src : Src) (w0 w1 w2 w3 : BitVec 64) (e : LpmEntry) : Prop :=
  s.ok ∧ writer s.box src ∧ s.box.get .fwdCtrlDirectEn = 1 ∧ (let r := Record.ofWords w0.toNat w1.toNat w2.toNat w3.toNat; let b := s.box; r.bad = false ∧ r.table = 1 ∧ r.op = 1 ∧ b.lpmEntry r.typ r.len r.key = none ∧ lpmUsed b.fwd.lpm + 2 ≤ 131072)

/-- What clause 2 of DirectTableRecords (ForwardingTables) supposes. -/
abbrev hyps_DirectTableRecords_1 (s : State) (src : Src) (w0 w1 w2 w3 : BitVec 64) (e : LpmEntry) : Prop :=
  s.ok ∧ writer s.box src ∧ s.box.get .fwdCtrlDirectEn = 1 ∧ (let r := Record.ofWords w0.toNat w1.toNat w2.toNat w3.toNat; let b := s.box; r.bad = false ∧ r.table = 1 ∧ r.op = 2 ∧ b.lpmEntry r.typ r.len r.key = some e)

/-- What clause 3 of DirectTableRecords (ForwardingTables) supposes. -/
abbrev hyps_DirectTableRecords_2 (s : State) (src : Src) (w0 w1 w2 w3 : BitVec 64) (e : LpmEntry) : Prop :=
  s.ok ∧ writer s.box src ∧ s.box.get .fwdCtrlDirectEn = 1 ∧ (let r := Record.ofWords w0.toNat w1.toNat w2.toNat w3.toNat; let b := s.box; r.bad = false ∧ r.table = 1 ∧ r.op = 3 ∧ b.lpmEntry r.typ r.len r.key = some e)

/-- What clause 4 of DirectTableRecords (ForwardingTables) supposes. -/
abbrev hyps_DirectTableRecords_3 (s : State) (src : Src) (w0 w1 w2 w3 : BitVec 64) (e : LpmEntry) : Prop :=
  s.ok ∧ writer s.box src ∧ s.box.get .fwdCtrlDirectEn = 1 ∧ (let r := Record.ofWords w0.toNat w1.toNat w2.toNat w3.toNat; r.bad = false ∧ r.table = 3 ∧ r.op = 4)

/-- What clause 5 of DirectTableRecords (ForwardingTables) supposes. -/
abbrev hyps_DirectTableRecords_4 (s : State) (src : Src) (w0 w1 w2 w3 : BitVec 64) (e : LpmEntry) : Prop :=
  s.ok ∧ writer s.box src ∧ s.box.get .fwdCtrlDirectEn = 1 ∧ (let r := Record.ofWords w0.toNat w1.toNat w2.toNat w3.toNat; r.bad = false ∧ r.table = 3 ∧ r.op = 5)

/-- What clause 6 of DirectTableRecords (ForwardingTables) supposes. -/
abbrev hyps_DirectTableRecords_5 (s : State) (src : Src) (w0 w1 w2 w3 : BitVec 64) (e : LpmEntry) : Prop :=
  s.ok ∧ writer s.box src ∧ s.box.get .fwdCtrlDirectEn = 1 ∧ (let r := Record.ofWords w0.toNat w1.toNat w2.toNat w3.toNat; let b := s.box; r.bad = false ∧ r.table = 1 ∧ r.op = 1 ∧ b.lpmEntry r.typ r.len r.key = some e)

/-- What clause 7 of DirectTableRecords (ForwardingTables) supposes. -/
abbrev hyps_DirectTableRecords_6 (s : State) (src : Src) (w0 w1 w2 w3 : BitVec 64) (e : LpmEntry) : Prop :=
  s.ok ∧ writer s.box src ∧ s.box.get .fwdCtrlDirectEn = 1 ∧ (let r := Record.ofWords w0.toNat w1.toNat w2.toNat w3.toNat; let b := s.box; r.bad = false ∧ r.table = 1 ∧ r.op = 2 ∧ b.lpmEntry r.typ r.len r.key = none)

/-- What clause 8 of DirectTableRecords (ForwardingTables) supposes. -/
abbrev hyps_DirectTableRecords_7 (s : State) (src : Src) (w0 w1 w2 w3 : BitVec 64) (e : LpmEntry) : Prop :=
  s.ok ∧ writer s.box src ∧ s.box.get .fwdCtrlDirectEn = 1 ∧ (let r := Record.ofWords w0.toNat w1.toNat w2.toNat w3.toNat; let b := s.box; r.bad = false ∧ r.table = 1 ∧ r.op = 3 ∧ b.lpmEntry r.typ r.len r.key = none)

/-- What clause 1 of SweepAndCompare (ForwardingTables) supposes. -/
abbrev hyps_SweepAndCompare_0 (s : State) (p : Pipeline) (t : Fin 3) (m : BitVec 32) : Prop :=
  s.ok ∧ (let b := s.box; let n := b.ns / (b.get .fwdSweepUs * 1000); b.fwd.pass = some n)

/-- What clause 2 of SweepAndCompare (ForwardingTables) supposes. -/
abbrev hyps_SweepAndCompare_1 (s : State) (p : Pipeline) (t : Fin 3) (m : BitVec 32) : Prop :=
  s.ok ∧ (let b := s.box; let n := b.ns / (b.get .fwdSweepUs * 1000); b.fwd.pass ≠ some n ∧ (b.fwd.pipes.map (·.1)).Nodup)

/-- What clause 3 of SweepAndCompare (ForwardingTables) supposes. -/
abbrev hyps_SweepAndCompare_2 (s : State) (p : Pipeline) (t : Fin 3) (m : BitVec 32) : Prop :=
  s.ok ∧ (let b := s.box; m.toNat = b.get .fwdWdig p t ∧ (∀ q < 16, b.get .fwdWdig q t = b.get .fwdWdig p t))

/-- What clause 4 of SweepAndCompare (ForwardingTables) supposes. -/
abbrev hyps_SweepAndCompare_3 (s : State) (p : Pipeline) (t : Fin 3) (m : BitVec 32) : Prop :=
  s.ok ∧ (let b := s.box; m.toNat ≠ b.get .fwdWdig p t ∧ b.get .fwdCmpStat p < 8)

def sT (l : List LpmEntry) : State := on (with_ r0 [(.fwdCtrlDirectEn,0,0,0,1)]) (fun b => {b with fwd := {b.fwd with lpm := l}})
def w0 (op table typ len low : Nat) : BitVec 64 := BitVec.ofNat 64 (op * 2^60 + table * 2^56 + typ*2^48 + len * 2^40 + low)
def rw (op table typ len set_ mem : Nat) : BitVec 64 := BitVec.ofNat 64 (op * 2^56 + table * 2^48 + typ*2^45 + len * 2^36 + set_ * 2^24 + mem * 2^20)
def e0 : LpmEntry := ⟨2, 24, 0x0A000000, 9, false, false⟩
def em1 : EmEntry := ⟨1, false, true, false, false, false, 77, 3, 4, 0⟩
def sSw (n : Option Nat) : State := on (with_ r0 [(.fwdAgePass,1,0,0,1),(.fwdAgePass,2,0,0,2)]) (fun b => {b with now := 2000000 * 2^40, fwd := {b.fwd with pass := n, pipes := [(0, {em := [(4, ⟨[some em1, none, some {em1 with typ := 2,hit:=false}, none], 1⟩),(9, ⟨[some {em1 with hit := false,aged:=true}, some {em1 with prog:=true}, none, none], 0⟩)]}),(3,{em := [(4, ⟨[some em1, none, some {em1 with typ := 2}, none], 1⟩)]})]}})

/-- States and operands that meet the hypotheses of DirectTableRecords, a part of ForwardingTables. -/
theorem witness_DirectTableRecords :
    (hyps_DirectTableRecords_7 (sT []) 0 (rw 3 1 4 0 0 0) 0 0x0A000005 (BitVec.ofNat 64 (0x1e07)) e0)
    ∧ (hyps_DirectTableRecords_0 (sT []) 0 (rw 1 1 2 24 0 0) 0 0x0A000005 (BitVec.ofNat 64 (9*2^44)) e0)
    ∧ (hyps_DirectTableRecords_6 (sT []) 0 (rw 2 1 2 24 0 0) 0 0x0A000005 (BitVec.ofNat 64 (0x1e07)) e0)
    ∧ (hyps_DirectTableRecords_1 (sT [e0]) 0 (rw 2 1 2 24 0 0) 0 0x0A000005 (BitVec.ofNat 64 (9*2^44)) e0)
    ∧ (hyps_DirectTableRecords_3 (sT [e0]) 0 (rw 4 3 0 0 7 15) 0 0x0A000005 (BitVec.ofNat 64 (0x1e05)) e0)
    ∧ (hyps_DirectTableRecords_4 (sT [e0]) 0 (rw 5 3 0 0 7 15) 0 0x0A000005 (BitVec.ofNat 64 (0x1e06)) e0)
    ∧ (hyps_DirectTableRecords_5 (sT [e0]) 0 (rw 1 1 2 24 0 0) 0 0x0A000005 (BitVec.ofNat 64 (0x1e07)) e0)
    ∧ (hyps_DirectTableRecords_2 (sT [{e0 with nhs:=5,staged:=true},e0,{e0 with nhs:=4}]) 0 (rw 3 1 2 24 0 0) 0 0x0A000005 (BitVec.ofNat 64 (10*2^44)) e0) := by
  refine ⟨?_, ?_, ?_, ?_, ?_, ?_, ?_, ?_⟩ <;>
    first
    | decide +kernel
    | (and_intros <;> first | decide +kernel | (refine ok_of ?_; decide +kernel) | (refine error_of ?_; decide +kernel) | (refine ok_pair ?_ rfl; decide +kernel) | rfl)

/-- States and operands that meet the hypotheses of SweepAndCompare, a part of ForwardingTables. -/
theorem witness_SweepAndCompare :
    (hyps_SweepAndCompare_1 (sSw none) 0 1 0)
    ∧ (hyps_SweepAndCompare_2 (sSw none) 0 1 0)
    ∧ (hyps_SweepAndCompare_0 (sSw (some (2000000/(1000*(r0.box.get .fwdSweepUs))))) 0 1 5)
    ∧ (hyps_SweepAndCompare_3 (sSw (some (2000000/(1000*(r0.box.get .fwdSweepUs))))) 0 1 5) := by
  refine ⟨?_, ?_, ?_, ?_⟩ <;>
    first
    | decide +kernel
    | (and_intros <;> first | decide +kernel | (refine ok_of ?_; decide +kernel) | (refine error_of ?_; decide +kernel) | (refine ok_pair ?_ rfl; decide +kernel) | rfl)
end P15

namespace P16
/-- What clause 1 of LaneConfiguration supposes. -/
abbrev hyps_LaneConfiguration_0 (s : State) (src : Src) (f : Fibre) (h : Half) (sl : Slot) (v : BitVec 2) (v1 : BitVec 1) : Prop :=
  s.ok ∧ writer s.box src ∧ (let b := s.box; let n := b.get .prtCrouterN f; v.toNat < 2 ∧ b.get .prtWidth f 0 ≠ 2 ∧ b.halfRunning f h = false ∧ widthFits n v.toNat = true ∧ (b.put .prtWidth v.toNat f h).stripedHalves ≤ 4)

/-- What clause 2 of LaneConfiguration supposes. -/
abbrev hyps_LaneConfiguration_1 (s : State) (src : Src) (f : Fibre) (h : Half) (sl : Slot) (v : BitVec 2) (v1 : BitVec 1) : Prop :=
  s.ok ∧ writer s.box src ∧ (let b := s.box; b.get .prtWidth f 0 ≠ 2 ∧ b.halfRunning f h = false ∧ (b.put .prtBond v1.toNat f h).stripedHalves ≤ 4)

/-- What clause 3 of LaneConfiguration supposes. -/
abbrev hyps_LaneConfiguration_2 (s : State) (src : Src) (f : Fibre) (h : Half) (sl : Slot) (v : BitVec 2) (v1 : BitVec 1) : Prop :=
  s.ok ∧ writer s.box src ∧ (let b := s.box; v.toNat ≤ 2 ∧ b.fibreRunning f = false ∧ widthFits v.toNat (b.get .prtWidth f 0) = true ∧ widthFits v.toNat (b.get .prtWidth f 1) = true)

/-- What clause 4 of LaneConfiguration supposes. -/
abbrev hyps_LaneConfiguration_3 (s : State) (src : Src) (f : Fibre) (h : Half) (sl : Slot) (v : BitVec 2) (v1 : BitVec 1) : Prop :=
  s.ok ∧ writer s.box src ∧ (let b := s.box; v.toNat ≤ 2 ∧ (b.lnState f sl = lnDark ∨ b.lnState f sl = lnFault))

/-- What clause 5 of LaneConfiguration supposes. -/
abbrev hyps_LaneConfiguration_4 (s : State) (src : Src) (f : Fibre) (h : Half) (sl : Slot) (v : BitVec 2) (v1 : BitVec 1) : Prop :=
  s.ok ∧ writer s.box src ∧ (let b := s.box; b.halfRunning f h = true)

/-- What clause 6 of LaneConfiguration supposes. -/
abbrev hyps_LaneConfiguration_5 (s : State) (src : Src) (f : Fibre) (h : Half) (sl : Slot) (v : BitVec 2) (v1 : BitVec 1) : Prop :=
  s.ok ∧ writer s.box src ∧ (let b := s.box; b.fibreRunning f = true)

/-- What clause 7 of LaneConfiguration supposes. -/
abbrev hyps_LaneConfiguration_6 (s : State) (src : Src) (f : Fibre) (h : Half) (sl : Slot) (v : BitVec 2) (v1 : BitVec 1) : Prop :=
  s.ok ∧ writer s.box src ∧ (let b := s.box; b.lnState f sl ≠ lnDark ∧ b.lnState f sl ≠ lnFault)

/-- What clause 1 of LaneCommands (LaneCommandsAndTraining) supposes. -/
abbrev hyps_LaneCommands_0 (s : State) (src : Src) (f : Fibre) (sl : Slot) : Prop :=
  s.ok ∧ (let b := s.box; writer b src ∧ b.lnState f sl = lnDark ∧ b.laneMay f sl = true)

/-- What clause 2 of LaneCommands (LaneCommandsAndTraining) supposes. -/
abbrev hyps_LaneCommands_1 (s : State) (src : Src) (f : Fibre) (sl : Slot) : Prop :=
  s.ok ∧ (let b := s.box; writer b src ∧ b.lnState f sl = lnUp)

/-- What clause 3 of LaneCommands (LaneCommandsAndTraining) supposes. -/
abbrev hyps_LaneCommands_2 (s : State) (src : Src) (f : Fibre) (sl : Slot) : Prop :=
  s.ok ∧ (let b := s.box; b.lnState f sl = lnDraining ∧ sl.val < 8)

/-- What clause 1 of LaneTraining (LaneCommandsAndTraining) supposes. -/
abbrev hyps_LaneTraining_0 (s : State) (f : Fibre) (sl : Slot) (msg : BitVec 64) : Prop :=
  s.ok ∧ (let b := s.box; b.lnState f sl = lnDetect ∧ (b.lane f sl).retryWait = false)

/-- What clause 2 of LaneTraining (LaneCommandsAndTraining) supposes. -/
abbrev hyps_LaneTraining_1 (s : State) (f : Fibre) (sl : Slot) (msg : BitVec 64) : Prop :=
  s.ok ∧ (let b := s.box; b.lnState f sl = lnEq)

/-- What clause 3 of LaneTraining (LaneCommandsAndTraining) supposes. -/
abbrev hyps_LaneTraining_2 (s : State) (f : Fibre) (sl : Slot) (msg : BitVec 64) : Prop :=
  s.ok ∧ (let b := s.box; let m := msg.toNat; let kl := b.klOwn f sl && bitAt m 33; b.lnState f sl = lnCap ∧ capCrc m = m / 2 ^ 56 ∧ b.routerOk f sl m = true ∧ b.sec.board ≠ [] ∧ (kl = true ∨ b.get .prtLaneFecReq f sl ≠ 2))

/-- What clause 4 of LaneTraining (LaneCommandsAndTraining) supposes. -/
abbrev hyps_LaneTraining_3 (s : State) (f : Fibre) (sl : Slot) (msg : BitVec 64) : Prop :=
  s.ok ∧ (let b := s.box; b.lnState f sl = lnQual ∧ (∀ l ∈ (b.portSpan (portOf (laneOf f (b.slotColour f sl)))).flatMap portLanes, b.peerPlid f (b.rxSlot f (colourOf l)) ∈ [0, b.peerPlid f sl]))

/-- What clause 5 of LaneTraining (LaneCommandsAndTraining) supposes. -/
abbrev hyps_LaneTraining_4 (s : State) (f : Fibre) (sl : Slot) (msg : BitVec 64) : Prop :=
  s.ok ∧ (let b := s.box; b.lnState f sl = lnQual ∧ b.get .prtLaneFecMode f sl % 2 = 1 ∧ b.get .prtLaneFecReq f sl ≠ 2)

/-- What clause 6 of LaneTraining (LaneCommandsAndTraining) supposes. -/
abbrev hyps_LaneTraining_5 (s : State) (f : Fibre) (sl : Slot) (msg : BitVec 64) : Prop :=
  s.ok ∧ (let b := s.box; b.lnState f sl = lnUp ∧ b.get .prtLaneFecMode f sl % 2 = 1)

/-- What clause 7 of LaneTraining (LaneCommandsAndTraining) supposes. -/
abbrev hyps_LaneTraining_6 (s : State) (f : Fibre) (sl : Slot) (msg : BitVec 64) : Prop :=
  s.ok ∧ (let b := s.box; b.lnState f sl ∈ [lnDetect, lnEq, lnCap] ∧ (b.lane f sl).fails < 2)

/-- What clause 8 of LaneTraining (LaneCommandsAndTraining) supposes. -/
abbrev hyps_LaneTraining_7 (s : State) (f : Fibre) (sl : Slot) (msg : BitVec 64) : Prop :=
  s.ok ∧ (let b := s.box; b.lnState f sl ∈ [lnDetect, lnEq, lnCap] ∧ (b.lane f sl).fails = 2)

/-- What clause 9 of LaneTraining (LaneCommandsAndTraining) supposes. -/
abbrev hyps_LaneTraining_8 (s : State) (f : Fibre) (sl : Slot) (msg : BitVec 64) : Prop :=
  s.ok ∧ (let b := s.box; (b.lane f sl).retryWait = true)

/-- What clause 1 of LaneLightAndSets supposes. -/
abbrev hyps_LaneLightAndSets_0 (s : State) (f : Fibre) (sl dark : Slot) (index : BitVec 4) (arg : BitVec 16) : Prop :=
  s.ok ∧ (let b := s.box; b.lnState f sl = lnUp ∧ sl.val < 8 ∧ (b.lane f sl).drained = false ∧ b.ripRecent f sl = false ∧ (b.lane f sl).holdDark = false)

/-- What clause 2 of LaneLightAndSets supposes. -/
abbrev hyps_LaneLightAndSets_1 (s : State) (f : Fibre) (sl dark : Slot) (index : BitVec 4) (arg : BitVec 16) : Prop :=
  s.ok ∧ (let b := s.box; b.lnState f sl = lnDark ∧ (b.lane f sl).relight = true ∧ (b.lane f sl).holdDark = false ∧ b.laneMay f sl = true)

/-- What clause 3 of LaneLightAndSets supposes. -/
abbrev hyps_LaneLightAndSets_2 (s : State) (f : Fibre) (sl dark : Slot) (index : BitVec 4) (arg : BitVec 16) : Prop :=
  s.ok ∧ (let b := s.box; b.opt.spareTx.find (2 * f) = none ∧ b.opt.spareTx.find (2 * f + 1) = none ∧ b.opt.spareRx.find (2 * f) = none ∧ b.opt.spareRx.find (2 * f + 1) = none)

/-- What clause 4 of LaneLightAndSets supposes. -/
abbrev hyps_LaneLightAndSets_3 (s : State) (f : Fibre) (sl dark : Slot) (index : BitVec 4) (arg : BitVec 16) : Prop :=
  s.ok ∧ (let b := s.box; 1 ≤ (b.lane f sl).rip ∧ (b.lane f sl).rip ≤ 4 ∧ b.laneUp f sl = true ∧ b.get .prtLaneRplEn f sl = 1)

/-- What clause 5 of LaneLightAndSets supposes. -/
abbrev hyps_LaneLightAndSets_4 (s : State) (f : Fibre) (sl dark : Slot) (index : BitVec 4) (arg : BitVec 16) : Prop :=
  s.ok ∧ (let b := s.box; b.laneIdle f dark = false)

/-- What clause 1 of SpareExchange (SpareColours) supposes. -/
abbrev hyps_SpareExchange_0 (s : State) (f : Fibre) (sl : Slot) (w : Colour) (a : BitVec 16) (sp : Spare) (b' : Box) : Prop :=
  s.ok ∧ (let b := s.box; let key := spareKey f w; let al := aliasSlot w; a.toNat = al ∧ b.bypassIn f w = false ∧ b.opt.spareRx.find key = none)

/-- What clause 2 of SpareExchange (SpareColours) supposes. -/
abbrev hyps_SpareExchange_1 (s : State) (f : Fibre) (sl : Slot) (w : Colour) (a : BitVec 16) (sp : Spare) (b' : Box) : Prop :=
  s.ok ∧ (let b := s.box; let key := spareKey f w; let al := aliasSlot w; b.opt.spareTx.find key = some ⟨w, .prep, sp.why, sp.laser⟩ ∧ (b.osRx f sl 4 w a.toNat).calArm (b.lap + 9) 3 (phys f al) = some b')

/-- What clause 3 of SpareExchange (SpareColours) supposes. -/
abbrev hyps_SpareExchange_2 (s : State) (f : Fibre) (sl : Slot) (w : Colour) (a : BitVec 16) (sp : Spare) (b' : Box) : Prop :=
  s.ok ∧ (let b := s.box; let key := spareKey f w; b.opt.spareTx.find key = some ⟨w, .retReady, sp.why, sp.laser⟩)

/-- What clause 4 of SpareExchange (SpareColours) supposes. -/
abbrev hyps_SpareExchange_3 (s : State) (f : Fibre) (sl : Slot) (w : Colour) (a : BitVec 16) (sp : Spare) (b' : Box) : Prop :=
  s.ok ∧ (let b := s.box; let key := spareKey f w; let lap := b.namedLap a.toNat; b.lap + 2 ≤ lap ∧ b.opt.spareRx.find key = some ⟨w, .ready, sp.why, sp.laser⟩)

/-- What clause 5 of SpareExchange (SpareColours) supposes. -/
abbrev hyps_SpareExchange_4 (s : State) (f : Fibre) (sl : Slot) (w : Colour) (a : BitVec 16) (sp : Spare) (b' : Box) : Prop :=
  s.ok ∧ (let b := s.box; let key := spareKey f w; let lap := b.namedLap a.toNat; b.lap + 2 ≤ lap ∧ b.opt.spareRx.find key = some ⟨w, .retReady, sp.why, sp.laser⟩)

/-- What clause 6 of SpareExchange (SpareColours) supposes. -/
abbrev hyps_SpareExchange_5 (s : State) (f : Fibre) (sl : Slot) (w : Colour) (a : BitVec 16) (sp : Spare) (b' : Box) : Prop :=
  s.ok ∧ (let b := s.box; let lap := b.namedLap a.toNat; lap < b.lap + 2)

def W (l : List (Reg × Nat × Nat × Nat × Nat)) : State := with_ r0 l
def L (st : Nat) (s : Nat) (g : LaneSt → LaneSt) (l : List (Reg × Nat × Nat × Nat × Nat)) : State := on (W ((.prtLaneState,5,s,0,st)::l)) (fun b => ({b with sec := {b.sec with board := [1]}}).setLane 5 s g)
def cap : Nat := let m := 7 + 2^32 + 2^33; m + capCrc m * 2^56
def cap2 : Nat := let m := 7 + 2^32 + 2^34*7 ; m + capCrc m * 2^56
def O (g : OptSt → OptSt) : State := on (W []) (fun b => {b with opt := g b.opt})
def capB (w lap : Nat) (s : State) : Box := ((s.box.osRx 5 3 4 w 8).calArm (s.box.lap + 9) 3 (phys 5 (aliasSlot w))).getD {}
def sp0 : Spare := ⟨6, .ready, .calibration, 3⟩

/-- States and operands that meet the hypotheses of LaneConfiguration. -/
theorem witness_LaneConfiguration :
    (hyps_LaneConfiguration_0 (W []) 0 5 1 3 0 1)
    ∧ (hyps_LaneConfiguration_1 (W []) 0 5 1 3 0 1)
    ∧ (hyps_LaneConfiguration_2 (W []) 0 5 1 3 0 1)
    ∧ (hyps_LaneConfiguration_3 (W []) 0 5 1 3 0 1)
    ∧ (hyps_LaneConfiguration_4 (W [(.prtLaneState,5,4,0,5),(.prtLaneState,5,3,0,1)]) 0 5 0 3 2 1)
    ∧ (hyps_LaneConfiguration_5 (W [(.prtLaneState,5,4,0,5),(.prtLaneState,5,3,0,1)]) 0 5 0 3 2 1)
    ∧ (hyps_LaneConfiguration_6 (W [(.prtLaneState,5,4,0,5),(.prtLaneState,5,3,0,1)]) 0 5 0 3 2 1) := by
  refine ⟨?_, ?_, ?_, ?_, ?_, ?_, ?_⟩ <;>
    first
    | decide +kernel
    | (and_intros <;> first | decide +kernel | (refine ok_of ?_; decide +kernel) | (refine error_of ?_; decide +kernel) | (refine ok_pair ?_ rfl; decide +kernel) | rfl)

/-- States and operands that meet the hypotheses of LaneCommands, a part of LaneCommandsAndTraining. -/
theorem witness_LaneCommands :
    (hyps_LaneCommands_0 (W []) 0 5 3)
    ∧ (hyps_LaneCommands_1 (W [(.prtLaneState,5,3,0,lnUp)]) 0 5 3)
    ∧ (hyps_LaneCommands_2 (W [(.prtLaneState,5,3,0,lnDraining)]) 0 5 3) := by
  refine ⟨?_, ?_, ?_⟩ <;>
    first
    | decide +kernel
    | (and_intros <;> first | decide +kernel | (refine ok_of ?_; decide +kernel) | (refine error_of ?_; decide +kernel) | (refine ok_pair ?_ rfl; decide +kernel) | rfl)

/-- States and operands that meet the hypotheses of LaneTraining, a part of LaneCommandsAndTraining. -/
theorem witness_LaneTraining :
    (hyps_LaneTraining_1 (L lnEq 3 id []) 5 3 0)
    ∧ (hyps_LaneTraining_6 (L lnEq 3 id []) 5 3 0)
    ∧ (hyps_LaneTraining_3 (L lnQual 3 (fun x => {x with fails := 2}) [(.prtLaneFecMode,5,3,0,1),(.prtLaneFecReq,5,3,0,1)]) 5 3 (BitVec.ofNat 64 cap))
    ∧ (hyps_LaneTraining_4 (L lnQual 3 (fun x => {x with fails := 2}) [(.prtLaneFecMode,5,3,0,1),(.prtLaneFecReq,5,3,0,1)]) 5 3 (BitVec.ofNat 64 cap))
    ∧ (hyps_LaneTraining_0 (L lnDetect 3 (fun x => {x with fails := 2}) [(.prtLaneFecMode,5,3,0,1),(.prtLaneFecReq,5,3,0,1)]) 5 3 (BitVec.ofNat 64 cap))
    ∧ (hyps_LaneTraining_7 (L lnDetect 3 (fun x => {x with fails := 2}) [(.prtLaneFecMode,5,3,0,1),(.prtLaneFecReq,5,3,0,1)]) 5 3 (BitVec.ofNat 64 cap))
    ∧ (hyps_LaneTraining_2 (L lnCap 3 id []) 5 3 (BitVec.ofNat 64 cap))
    ∧ (hyps_LaneTraining_5 (L lnUp 3 (fun x => {x with fails := 2}) [(.prtLaneFecMode,5,3,0,1),(.prtLaneFecReq,5,3,0,1)]) 5 3 (BitVec.ofNat 64 cap))
    ∧ (hyps_LaneTraining_8 (L lnDetect 9 (fun x => {x with retryWait := true}) [(.prtLaneFecMode,5,3,0,1),(.prtLaneFecReq,5,3,0,1)]) 5 9 (BitVec.ofNat 64 0)) := by
  refine ⟨?_, ?_, ?_, ?_, ?_, ?_, ?_, ?_, ?_⟩ <;>
    first
    | decide +kernel
    | (and_intros <;> first | decide +kernel | (refine ok_of ?_; decide +kernel) | (refine error_of ?_; decide +kernel) | (refine ok_pair ?_ rfl; decide +kernel) | rfl)

/-- States and operands that meet the hypotheses of LaneLightAndSets. -/
theorem witness_LaneLightAndSets :
    (hyps_LaneLightAndSets_0 (L lnUp 3 (fun x => {x with rip := 4}) [(.prtLaneRplEn,5,3,0,1),(.prtLaneState,5,9,0,5)]) 5 3 9 5 9)
    ∧ (hyps_LaneLightAndSets_2 (L lnUp 3 (fun x => {x with rip := 4}) [(.prtLaneRplEn,5,3,0,1),(.prtLaneState,5,9,0,5)]) 5 3 9 5 9)
    ∧ (hyps_LaneLightAndSets_3 (L lnUp 3 (fun x => {x with rip := 4}) [(.prtLaneRplEn,5,3,0,1),(.prtLaneState,5,9,0,5)]) 5 3 9 5 9)
    ∧ (hyps_LaneLightAndSets_4 (L lnUp 3 (fun x => {x with rip := 4}) [(.prtLaneRplEn,5,3,0,1),(.prtLaneState,5,9,0,5)]) 5 3 9 5 9)
    ∧ (hyps_LaneLightAndSets_1 (L lnDark 3 (fun x => {x with relight := true}) []) 5 3 3 2 9) := by
  refine ⟨?_, ?_, ?_, ?_, ?_⟩ <;>
    first
    | decide +kernel
    | (and_intros <;> first | decide +kernel | (refine ok_of ?_; decide +kernel) | (refine error_of ?_; decide +kernel) | (refine ok_pair ?_ rfl; decide +kernel) | rfl)

/-- States and operands that meet the hypotheses of SpareExchange, a part of SpareColours. -/
theorem witness_SpareExchange :
    (hyps_SpareExchange_0 (O (fun o => {o with spareTx := [(10,⟨6, .retReady, .calibration, 3⟩)]})) 5 3 6 8 sp0 {})
    ∧ (hyps_SpareExchange_2 (O (fun o => {o with spareTx := [(10,⟨6, .retReady, .calibration, 3⟩)]})) 5 3 6 8 sp0 {})
    ∧ (hyps_SpareExchange_3 (O (fun o => {o with spareRx := [(10,⟨6, .ready, .calibration, 3⟩)]})) 5 3 6 8 sp0 {})
    ∧ (hyps_SpareExchange_4 (O (fun o => {o with spareRx := [(10,⟨6, .retReady, .calibration, 3⟩)]})) 5 3 6 2 sp0 {})
    ∧ (hyps_SpareExchange_5 (O (fun o => {o with spareRx := [(10,⟨6, .retReady, .calibration, 3⟩)]})) 5 3 6 1 sp0 {})
    ∧ (hyps_SpareExchange_1 (O (fun o => {o with spareTx := [(10,⟨6, .prep, .calibration, 3⟩)]})) 5 3 6 8 sp0 (capB 6 9 (O (fun o => {o with spareTx := [(10,⟨6, .prep, .calibration, 3⟩)]})))) := by
  refine ⟨?_, ?_, ?_, ?_, ?_, ?_⟩ <;>
    first
    | decide +kernel
    | (and_intros <;> first | decide +kernel | (refine ok_of ?_; decide +kernel) | (refine error_of ?_; decide +kernel) | (refine ok_pair ?_ rfl; decide +kernel) | rfl)
end P16

namespace P17
/-- What clause 1 of RingLock supposes. -/
abbrev hyps_RingLock_0 (s : State) (f : Fibre) (j : Ring) (sl : Slot) (h : Half) (r : Fin 64) (bin : Fin 16) (err oma : BitVec 8)
    (want coeff : BitVec 16) (detune : BitVec 10) (tm tg : BitVec 12) (sp : Spare) : Prop :=
  s.ok ∧ (let b := s.box; let st := b.get .lckRingState f j; st = rgLocked ∧ want.toNat ≤ b.get .grdEnvRingMw * 100 ∧ want.toNat ≤ b.get .lckRingHeat f j)

/-- What clause 2 of RingLock supposes. -/
abbrev hyps_RingLock_1 (s : State) (f : Fibre) (j : Ring) (sl : Slot) (h : Half) (r : Fin 64) (bin : Fin 16) (err oma : BitVec 8)
    (want coeff : BitVec 16) (detune : BitVec 10) (tm tg : BitVec 12) (sp : Spare) : Prop :=
  s.ok ∧ (let b := s.box; let st := b.get .lckRingState f j; st = rgLocked)

/-- What clause 3 of RingLock supposes. -/
abbrev hyps_RingLock_2 (s : State) (f : Fibre) (j : Ring) (sl : Slot) (h : Half) (r : Fin 64) (bin : Fin 16) (err oma : BitVec 8)
    (want coeff : BitVec 16) (detune : BitVec 10) (tm tg : BitVec 12) (sp : Spare) : Prop :=
  s.ok ∧ (let b := s.box; let st := b.get .lckRingState f j; st ∈ [rgSweep, rgHold, rgUnlocked])

/-- What clause 4 of RingLock supposes. -/
abbrev hyps_RingLock_3 (s : State) (f : Fibre) (j : Ring) (sl : Slot) (h : Half) (r : Fin 64) (bin : Fin 16) (err oma : BitVec 8)
    (want coeff : BitVec 16) (detune : BitVec 10) (tm tg : BitVec 12) (sp : Spare) : Prop :=
  s.ok ∧ (let b := s.box; let st := b.get .lckRingState f j; st = rgUnlocked ∧ j.val < 10 ∧ calm b)

/-- What clause 5 of RingLock supposes. -/
abbrev hyps_RingLock_4 (s : State) (f : Fibre) (j : Ring) (sl : Slot) (h : Half) (r : Fin 64) (bin : Fin 16) (err oma : BitVec 8)
    (want coeff : BitVec 16) (detune : BitVec 10) (tm tg : BitVec 12) (sp : Spare) : Prop :=
  s.ok ∧ (let b := s.box; b.optRuns h = true)

/-- What clause 6 of RingLock supposes. -/
abbrev hyps_RingLock_5 (s : State) (f : Fibre) (j : Ring) (sl : Slot) (h : Half) (r : Fin 64) (bin : Fin 16) (err oma : BitVec 8)
    (want coeff : BitVec 16) (detune : BitVec 10) (tm tg : BitVec 12) (sp : Spare) : Prop :=
  s.ok ∧ (let b := s.box; b.opt.cal.find (f / 16) = some (f.val, sl.val, .sweeping) ∧ b.getS .optSpareOmaDbm ≤ toSigned 8 oma.toNat ∧ b.opt.spareTx.find (spareKey f sl) = some { sp with w := sl, phase := .active })

/-- What clause 1 of SpareStart (SpareColours) supposes. -/
abbrev hyps_SpareStart_0 (s : State) (f : Fibre) (sl : Slot) (j x : Nat) : Prop :=
  s.ok ∧ (let b := s.box; let key := spareKey f sl; sl.val < 8 ∧ b.optRuns (halfOf sl) = true ∧ b.bypassOut f sl = false ∧ b.opt.spareTx.find key = none ∧ b.freeLaser (f / 16) (sl % 2) = some j ∧ b.anyUp f = some x)

/-- What clause 2 of SpareStart (SpareColours) supposes. -/
abbrev hyps_SpareStart_1 (s : State) (f : Fibre) (sl : Slot) (j x : Nat) : Prop :=
  s.ok ∧ (let b := s.box; let key := spareKey f sl; sl.val < 8 ∧ b.optRuns (halfOf sl) = true ∧ b.bypassOut f sl = false ∧ b.opt.spareTx.find key = none ∧ b.freeLaser (f / 16) (sl % 2) = some j ∧ b.anyUp f = some x)

/-- What clause 3 of SpareStart (SpareColours) supposes. -/
abbrev hyps_SpareStart_2 (s : State) (f : Fibre) (sl : Slot) (j x : Nat) : Prop :=
  s.ok ∧ (let b := s.box; let key := spareKey f sl; sl.val < 8 ∧ b.optRuns (halfOf sl) = true ∧ b.bypassOut f sl = false ∧ b.opt.spareTx.find key = none ∧ b.freeLaser (f / 16) (sl % 2) = some j ∧ b.anyUp f = some x ∧ b.get .optCtrlAutoCal = 1 ∧ b.opt.cal.find (f / 16) = none)

/-- What clause 1 of CombSwitch (CombsAndCartridges) supposes. -/
abbrev hyps_CombSwitch_0 (s : State) (src : Src) (g : Group) (bay : BitVec 4) (c : Fin 10) (w : Colour) (pwr : BitVec 16) (worst : List (Fin 16))
    (old n : Nat) : Prop :=
  s.ok ∧ (let b := s.box; let v := bay.toNat; writer b src ∧ (v = g ∨ v = 8 ∨ v = 9) ∧ b.bay v = bayHot ∧ b.fedBy v = none)

/-- What clause 2 of CombSwitch (CombsAndCartridges) supposes. -/
abbrev hyps_CombSwitch_1 (s : State) (src : Src) (g : Group) (bay : BitVec 4) (c : Fin 10) (w : Colour) (pwr : BitVec 16) (worst : List (Fin 16))
    (old n : Nat) : Prop :=
  s.ok ∧ (let b := s.box; let v := bay.toNat; writer b src ∧ b.bay v ≠ bayHot)

/-- What clause 3 of CombSwitch (CombsAndCartridges) supposes. -/
abbrev hyps_CombSwitch_2 (s : State) (src : Src) (g : Group) (bay : BitVec 4) (c : Fin 10) (w : Colour) (pwr : BitVec 16) (worst : List (Fin 16))
    (old n : Nat) : Prop :=
  s.ok ∧ (let b := s.box; let sel := b.get .optSelSrc g; b.opt.bench.find g = some (old, false) ∧ sel < 10)

/-- What clause 4 of CombSwitch (CombsAndCartridges) supposes. -/
abbrev hyps_CombSwitch_3 (s : State) (src : Src) (g : Group) (bay : BitVec 4) (c : Fin 10) (w : Colour) (pwr : BitVec 16) (worst : List (Fin 16))
    (old n : Nat) : Prop :=
  s.ok ∧ (let b := s.box; b.opt.bench.find g = some (old, true) ∧ old < 10 ∧ b.bay old = bayActive ∧ b.fedBy old = none)

/-- What clause 5 of CombSwitch (CombsAndCartridges) supposes. -/
abbrev hyps_CombSwitch_4 (s : State) (src : Src) (g : Group) (bay : BitVec 4) (c : Fin 10) (w : Colour) (pwr : BitVec 16) (worst : List (Fin 16))
    (old n : Nat) : Prop :=
  s.ok ∧ (let b := s.box; b.optRuns 0 = true ∧ calm b)

/-- What clause 6 of CombSwitch (CombsAndCartridges) supposes. -/
abbrev hyps_CombSwitch_5 (s : State) (src : Src) (g : Group) (bay : BitVec 4) (c : Fin 10) (w : Colour) (pwr : BitVec 16) (worst : List (Fin 16))
    (old n : Nat) : Prop :=
  s.ok ∧ (let b := s.box; b.optRuns 0 = true ∧ b.get .optCtrlAutoBench = 1 ∧ b.fedBy c = some g ∧ (b.hotFor g).isSome = true ∧ b.opt.plan.find g = none)

/-- What clause 7 of CombSwitch (CombsAndCartridges) supposes. -/
abbrev hyps_CombSwitch_6 (s : State) (src : Src) (g : Group) (bay : BitVec 4) (c : Fin 10) (w : Colour) (pwr : BitVec 16) (worst : List (Fin 16))
    (old n : Nat) : Prop :=
  s.ok ∧ (let b := s.box; b.optRuns 0 = true ∧ b.fedBy c = some g ∧ (b.hotFor g).isSome = true)

/-- What clause 8 of CombSwitch (CombsAndCartridges) supposes. -/
abbrev hyps_CombSwitch_7 (s : State) (src : Src) (g : Group) (bay : BitVec 4) (c : Fin 10) (w : Colour) (pwr : BitVec 16) (worst : List (Fin 16))
    (old n : Nat) : Prop :=
  s.ok ∧ (let b := s.box; b.optRuns 0 = true ∧ b.fedBy c = some g ∧ b.hotFor g = some n ∧ b.opt.bench.find g = none)

/-- What clause 1 of Cartridges (CombsAndCartridges) supposes. -/
abbrev hyps_Cartridges_0 (s : State) (n : Fin 18) (c : Fin 10) (g : Group) (j : Fin 4) (f o : Nat) (sp : Spare) (id : BitVec 64)
    (pwr : BitVec 16) (pwrs : List (BitVec 16)) : Prop :=
  s.ok ∧ (let kind := decide (n.val < 10); Config.kindIsComb (id.toNat / 2 ^ 56) = kind)

/-- What clause 2 of Cartridges (CombsAndCartridges) supposes. -/
abbrev hyps_Cartridges_1 (s : State) (n : Fin 18) (c : Fin 10) (g : Group) (j : Fin 4) (f o : Nat) (sp : Spare) (id : BitVec 64)
    (pwr : BitVec 16) (pwrs : List (BitVec 16)) : Prop :=
  s.ok ∧ (let b := s.box; calm b)

/-- What clause 3 of Cartridges (CombsAndCartridges) supposes. -/
abbrev hyps_Cartridges_2 (s : State) (n : Fin 18) (c : Fin 10) (g : Group) (j : Fin 4) (f o : Nat) (sp : Spare) (id : BitVec 64)
    (pwr : BitVec 16) (pwrs : List (BitVec 16)) : Prop :=
  s.ok ∧ (let b := s.box; b.bit .optBayPres n = true ∧ b.bay n = bayCold ∧ b.warming = [])

/-- What clause 4 of Cartridges (CombsAndCartridges) supposes. -/
abbrev hyps_Cartridges_3 (s : State) (n : Fin 18) (c : Fin 10) (g : Group) (j : Fin 4) (f o : Nat) (sp : Spare) (id : BitVec 64)
    (pwr : BitVec 16) (pwrs : List (BitVec 16)) : Prop :=
  s.ok ∧ (let b := s.box; b.bay c = bayWarming)

/-- What clause 5 of Cartridges (CombsAndCartridges) supposes. -/
abbrev hyps_Cartridges_4 (s : State) (n : Fin 18) (c : Fin 10) (g : Group) (j : Fin 4) (f o : Nat) (sp : Spare) (id : BitVec 64)
    (pwr : BitVec 16) (pwrs : List (BitVec 16)) : Prop :=
  s.ok ∧ (let b := s.box; b.bay (10 + g) = bayWarming)

/-- What clause 6 of Cartridges (CombsAndCartridges) supposes. -/
abbrev hyps_Cartridges_5 (s : State) (n : Fin 18) (c : Fin 10) (g : Group) (j : Fin 4) (f o : Nat) (sp : Spare) (id : BitVec 64)
    (pwr : BitVec 16) (pwrs : List (BitVec 16)) : Prop :=
  s.ok ∧ (let b := s.box; n.val < 10 ∧ b.bay n = bayHot)

/-- What clause 7 of Cartridges (CombsAndCartridges) supposes. -/
abbrev hyps_Cartridges_6 (s : State) (n : Fin 18) (c : Fin 10) (g : Group) (j : Fin 4) (f o : Nat) (sp : Spare) (id : BitVec 64)
    (pwr : BitVec 16) (pwrs : List (BitVec 16)) : Prop :=
  s.ok ∧ (let b := s.box; b.optRuns (j / 2) = true ∧ b.laserFibre g j = some f ∧ b.opt.spareTx.find (2 * f + j / 2) = some sp ∧ sp.w < 8 ∧ o = (if j.val % 2 = 0 then j.val + 1 else j.val - 1) ∧ b.get .optTuneLaserCh g o = 15)

/-- What clause 1 of FibrePower supposes. -/
abbrev hyps_FibrePower_0 (s : State) (f : Fibre) (w : Colour) (k : Fin 16) (a : Nat) (hit : Hit) : Prop :=
  s.ok

/-- What clause 2 of FibrePower supposes. -/
abbrev hyps_FibrePower_1 (s : State) (f : Fibre) (w : Colour) (k : Fin 16) (a : Nat) (hit : Hit) : Prop :=
  s.ok ∧ (let b := s.box; b.opt.dark.find f = some false ∧ b.bypassOut f w = true)

/-- What clause 3 of FibrePower supposes. -/
abbrev hyps_FibrePower_2 (s : State) (f : Fibre) (w : Colour) (k : Fin 16) (a : Nat) (hit : Hit) : Prop :=
  s.ok ∧ (let b := s.box; b.cgState k = cgVoted ∧ (b.tim.cg.at k {}).staged = [.reg a (2 ^ w.val)] ∧ locate a = some hit ∧ hit.regs.head? = some .optBypPass ∧ hit.i < 8 ∧ hit.j < 16 ∧ b.bit .optBypPass w hit.i hit.j = false ∧ (let out := 16 * hit.i + (hit.j + w + 1) % 16; b.laneIdle out w = false))

def W (l : List (Reg × Nat × Nat × Nat × Nat)) : State := with_ r0 l
def sp0 : Spare := ⟨6, .ready, .calibration, 3⟩
def K (l : List (Reg × Nat × Nat × Nat × Nat)) (j st : Nat) : State := W ((.lckRingState,5,j,0,st)::(.fwmCoreState,3,0,0,2)::(.fwmCoreState,8,0,0,2)::l)
def SS (l : List (Reg × Nat × Nat × Nat × Nat)) : State := on (K ([(.prtLaneState,5,2,0,lnUp),(.optTuneLaserCh,0,0,0,15),(.optTuneLaserCh,0,1,0,15),(.optTuneLaserCh,0,2,0,15)] ++ l) 3 2) (fun b => {b with opt := {b.opt with tune := [(0,4)]}})
def B (l : List (Reg × Nat × Nat × Nat × Nat)) (g : OptSt → OptSt) : State := on (K l 3 2) (fun b => {b with opt := g b.opt})
def hitOf (a : Nat) : Hit := (locate a).getD ⟨[],0,0,0,0⟩
def aB := Reg.addr .optBypPass 0 2

/-- States and operands that meet the hypotheses of RingLock. -/
theorem witness_RingLock :
    (hyps_RingLock_2 (on (K [(.optSpareOmaDbm,0,0,0,200)] 3 rgUnlocked) (fun b => {b with opt := {b.opt with cal := [(0,(5,6,.sweeping))], spareTx := [(10,{sp0 with w:=6,phase:=.active})]}})) 5 3 6 1 7 3 9 9 0 77 5 1 2 sp0)
    ∧ (hyps_RingLock_3 (on (K [(.optSpareOmaDbm,0,0,0,200)] 3 rgUnlocked) (fun b => {b with opt := {b.opt with cal := [(0,(5,6,.sweeping))], spareTx := [(10,{sp0 with w:=6,phase:=.active})]}})) 5 3 6 1 7 3 9 9 0 77 5 1 2 sp0)
    ∧ (hyps_RingLock_4 (on (K [(.optSpareOmaDbm,0,0,0,200)] 3 rgUnlocked) (fun b => {b with opt := {b.opt with cal := [(0,(5,6,.sweeping))], spareTx := [(10,{sp0 with w:=6,phase:=.active})]}})) 5 3 6 1 7 3 9 9 0 77 5 1 2 sp0)
    ∧ (hyps_RingLock_5 (on (K [(.optSpareOmaDbm,0,0,0,200)] 3 rgUnlocked) (fun b => {b with opt := {b.opt with cal := [(0,(5,6,.sweeping))], spareTx := [(10,{sp0 with w:=6,phase:=.active})]}})) 5 3 6 1 7 3 9 9 0 77 5 1 2 sp0)
    ∧ (hyps_RingLock_0 (K [(.lckRingHeat,5,3,0,900)] 3 rgLocked) 5 3 6 0 7 3 9 9 900 77 5 1 2 sp0)
    ∧ (hyps_RingLock_1 (K [(.lckRingHeat,5,3,0,900)] 3 rgLocked) 5 3 6 0 7 3 9 9 900 77 5 1 2 sp0) := by
  refine ⟨?_, ?_, ?_, ?_, ?_, ?_⟩ <;>
    first
    | decide +kernel
    | (and_intros <;> first | decide +kernel | (refine ok_of ?_; decide +kernel) | (refine error_of ?_; decide +kernel) | (refine ok_pair ?_ rfl; decide +kernel) | rfl)

/-- States and operands that meet the hypotheses of SpareStart, a part of SpareColours. -/
theorem witness_SpareStart :
    (hyps_SpareStart_0 (SS []) 5 6 0 2)
    ∧ (hyps_SpareStart_1 (SS []) 5 6 0 2)
    ∧ (hyps_SpareStart_2 (SS []) 5 6 0 2) := by
  refine ⟨?_, ?_, ?_⟩ <;>
    first
    | decide +kernel
    | (and_intros <;> first | decide +kernel | (refine ok_of ?_; decide +kernel) | (refine error_of ?_; decide +kernel) | (refine ok_pair ?_ rfl; decide +kernel) | rfl)

/-- States and operands that meet the hypotheses of CombSwitch, a part of CombsAndCartridges. -/
theorem witness_CombSwitch :
    (hyps_CombSwitch_0 (B [(.optCombState,8,0,0,bayHot)] id) 0 3 8 3 2 77 [] 0 8)
    ∧ (hyps_CombSwitch_4 (B [(.optCombState,8,0,0,bayHot)] id) 0 3 8 3 2 77 [] 0 8)
    ∧ (hyps_CombSwitch_5 (B [(.optCombState,8,0,0,bayHot)] id) 0 3 8 3 2 77 [] 0 8)
    ∧ (hyps_CombSwitch_6 (B [(.optCombState,8,0,0,bayHot)] id) 0 3 8 3 2 77 [] 0 8)
    ∧ (hyps_CombSwitch_7 (B [(.optCombState,8,0,0,bayHot)] id) 0 3 8 3 2 77 [] 0 8)
    ∧ (hyps_CombSwitch_1 (B [(.optCombState,3,0,0,bayHot),(.optCombLinePwr,3,2,0,500)] (fun o => {o with bench := [(3,(8,false))], refs := [27]})) 0 3 9 3 2 77 [3,7] 8 8)
    ∧ (hyps_CombSwitch_2 (B [(.optCombState,3,0,0,bayHot),(.optCombLinePwr,3,2,0,500)] (fun o => {o with bench := [(3,(8,false))], refs := [27]})) 0 3 9 3 2 77 [3,7] 8 8)
    ∧ (hyps_CombSwitch_3 (B [(.optCombState,8,0,0,bayActive),(.optCombState,9,0,0,bayCold),(.optCombLinePwr,3,2,0,500)] (fun o => {o with bench := [(3,(8,true))], refs := [27]})) 0 3 9 3 2 77 [3,7] 8 8) := by
  refine ⟨?_, ?_, ?_, ?_, ?_, ?_, ?_, ?_⟩ <;>
    first
    | decide +kernel
    | (and_intros <;> first | decide +kernel | (refine ok_of ?_; decide +kernel) | (refine error_of ?_; decide +kernel) | (refine ok_pair ?_ rfl; decide +kernel) | rfl)

/-- States and operands that meet the hypotheses of Cartridges, a part of CombsAndCartridges. -/
theorem witness_Cartridges :
    (hyps_Cartridges_1 (B [(.optBayPres,0,0,0,2^3),(.optCombState,3,0,0,bayHot)] (fun o => {o with tune := [(2,bayWarming)]})) 3 7 2 1 0 0 sp0 5 77 [4,5])
    ∧ (hyps_Cartridges_4 (B [(.optBayPres,0,0,0,2^3),(.optCombState,3,0,0,bayHot)] (fun o => {o with tune := [(2,bayWarming)]})) 3 7 2 1 0 0 sp0 5 77 [4,5])
    ∧ (hyps_Cartridges_5 (B [(.optBayPres,0,0,0,2^3),(.optCombState,3,0,0,bayHot)] (fun o => {o with tune := [(2,bayWarming)]})) 3 7 2 1 0 0 sp0 5 77 [4,5])
    ∧ (hyps_Cartridges_2 (B [(.optBayPres,0,0,0,2^10)] (fun o => {o with tune := [(0,bayCold)]})) 10 7 2 1 0 0 sp0 5 77 [4,5])
    ∧ (hyps_Cartridges_3 (B [(.optBayPres,0,0,0,2^10),(.optCombState,7,0,0,bayWarming)] (fun o => {o with tune := [(0,bayCold)]})) 9 7 2 1 0 0 sp0 5 77 [4,5])
    ∧ (hyps_Cartridges_6 (B [(.optTuneLaserCh,0,2,0,14),(.optTuneLaserCh,0,3,0,15)] (fun o => {o with spareTx := [(11,{sp0 with w:=5,laser:=2,phase:=.active})]})) 3 7 0 2 5 3 {sp0 with w:=5,laser:=2,phase:=.active} 5 77 [4,5]) := by
  refine ⟨?_, ?_, ?_, ?_, ?_, ?_⟩ <;>
    first
    | decide +kernel
    | (and_intros <;> first | decide +kernel | (refine ok_of ?_; decide +kernel) | (refine error_of ?_; decide +kernel) | (refine ok_pair ?_ rfl; decide +kernel) | rfl)

/-- States and operands that meet the hypotheses of FibrePower. -/
theorem witness_FibrePower :
    (hyps_FibrePower_0 (B [(.optBypPass,0,2,0,4)] (fun o => {o with dark := [(5,false)]})) 5 2 3 0 ⟨[],0,0,0,0⟩)
    ∧ (hyps_FibrePower_1 (B [(.optBypPass,0,2,0,4)] (fun o => {o with dark := [(5,false)]})) 5 2 3 0 ⟨[],0,0,0,0⟩)
    ∧ (hyps_FibrePower_2 (on (B [(.timCgState,3,0,0,cgVoted),(.prtLaneState,5,2,0,lnUp)] id) (fun b => {b with tim := {b.tim with cg := [(3,{ staged := [.reg aB 4]})]}})) 5 2 3 aB (hitOf aB)) := by
  refine ⟨?_, ?_, ?_⟩ <;>
    first
    | decide +kernel
    | (and_intros <;> first | decide +kernel | (refine ok_of ?_; decide +kernel) | (refine error_of ?_; decide +kernel) | (refine ok_pair ?_ rfl; decide +kernel) | rfl)

/-- The cartridge that reports a comb's kind, or another, whichever the kind byte names. -/
theorem witness_Cartridges_kind :
    hyps_Cartridges_0 r0 (if Config.kindIsComb 5 = true then 0 else 10) 0 0 0 0 0 sp0 (5 * 2 ^ 56) 0 [] := by
  refine ⟨by decide +kernel, ?_⟩
  show Config.kindIsComb 5 = _
  by_cases h : Config.kindIsComb 5 = true
  · simp only [h, if_true]; rfl
  · simp only [if_neg h, Bool.not_eq_true] at *; rw [h]; rfl
end P17

namespace P18
/-- What clause 1 of FencedCells (CellsAndEgressQueues) supposes. -/
abbrev hyps_FencedCells_0 (s : State) (src : Src) (h : Half) (ptr : BitVec 28) (c : Nat) : Prop :=
  s.ok ∧ (let b := s.box; let old := (b.hb h).cell c; writer b src ∧ b.buf.test.find h = none ∧ ptr.toNat = 256 * c ∧ c < cellCount ∧ old.fence = true)

/-- What clause 2 of FencedCells (CellsAndEgressQueues) supposes. -/
abbrev hyps_FencedCells_1 (s : State) (src : Src) (h : Half) (ptr : BitVec 28) (c : Nat) : Prop :=
  s.ok ∧ (let b := s.box; writer b src ∧ (b.buf.test.find h).isSome = true)

/-- What clause 3 of FencedCells (CellsAndEgressQueues) supposes. -/
abbrev hyps_FencedCells_2 (s : State) (src : Src) (h : Half) (ptr : BitVec 28) (c : Nat) : Prop :=
  s.ok ∧ (let b := s.box; b.buf.test.find h = some c)

/-- What clause 1 of LinkRetry supposes. -/
abbrev hyps_LinkRetry_0 (s : State) (f : Fibre) (sl : Slot) (seq : BitVec 12) (e : Nat × Nat × Option Desc) (t : List (Nat × Nat × Option Desc)) : Prop :=
  s.ok

/-- What clause 2 of LinkRetry supposes. -/
abbrev hyps_LinkRetry_1 (s : State) (f : Fibre) (sl : Slot) (seq : BitVec 12) (e : Nat × Nat × Option Desc) (t : List (Nat × Nat × Option Desc)) : Prop :=
  s.ok ∧ (let b := s.box; let x := b.rty f sl; let n := seq.toNat; let from_ (m : Nat) : List Nat := (x.unacked.map (·.1)).filter (fun k => decide ((k + 4096 - m) % 4096 < 2048)); from_ n ≠ [] ∧ x.replays < b.get .prtLaneRplMax f sl)

/-- What clause 3 of LinkRetry supposes. -/
abbrev hyps_LinkRetry_2 (s : State) (f : Fibre) (sl : Slot) (seq : BitVec 12) (e : Nat × Nat × Option Desc) (t : List (Nat × Nat × Option Desc)) : Prop :=
  s.ok ∧ (let b := s.box; let x := b.rty f sl; x.unacked = e :: t ∧ b.ripHolds f sl = false ∧ x.replays < b.get .prtLaneRplMax f sl)

/-- What clause 4 of LinkRetry supposes. -/
abbrev hyps_LinkRetry_3 (s : State) (f : Fibre) (sl : Slot) (seq : BitVec 12) (e : Nat × Nat × Option Desc) (t : List (Nat × Nat × Option Desc)) : Prop :=
  s.ok ∧ (let b := s.box; let x := b.rty f sl; x.unacked = e :: t ∧ b.ripHolds f sl = false ∧ b.get .prtLaneRplMax f sl ≤ x.replays)

/-- What clause 5 of LinkRetry supposes. -/
abbrev hyps_LinkRetry_4 (s : State) (f : Fibre) (sl : Slot) (seq : BitVec 12) (e : Nat × Nat × Option Desc) (t : List (Nat × Nat × Option Desc)) : Prop :=
  s.ok ∧ (let b := s.box; let x := b.rty f sl; x.rxSince ≠ 0)

/-- What clause 1 of PausesAndSamples (PausesAndPipelines) supposes. -/
abbrev hyps_PausesAndSamples_0 (s : State) (src : Src) (l : Lane) (r : Fin 8) (g : Rung) (n : Port) : Prop :=
  s.ok ∧ (let b := s.box; r.val < 4 ∧ b.striped (portOf l) = false ∧ b.buf.paused.find (lr l r) = none)

/-- What clause 2 of PausesAndSamples (PausesAndPipelines) supposes. -/
abbrev hyps_PausesAndSamples_1 (s : State) (src : Src) (l : Lane) (r : Fin 8) (g : Rung) (n : Port) : Prop :=
  s.ok ∧ (let b := s.box; r.val < 4 ∧ b.striped (portOf l) = false ∧ (b.buf.paused.find (lr l r)).isSome = true)

/-- What clause 3 of PausesAndSamples (PausesAndPipelines) supposes. -/
abbrev hyps_PausesAndSamples_2 (s : State) (src : Src) (l : Lane) (r : Fin 8) (g : Rung) (n : Port) : Prop :=
  s.ok ∧ 4 ≤ r.val

/-- What clause 4 of PausesAndSamples (PausesAndPipelines) supposes. -/
abbrev hyps_PausesAndSamples_3 (s : State) (src : Src) (l : Lane) (r : Fin 8) (g : Rung) (n : Port) : Prop :=
  s.ok ∧ (let b := s.box; g.val ≠ 0 ∧ b.paused l g = true ∧ b.buf.wdAt.find (portOf l) = none ∧ calm b)

/-- What clause 5 of PausesAndSamples (PausesAndPipelines) supposes. -/
abbrev hyps_PausesAndSamples_4 (s : State) (src : Src) (l : Lane) (r : Fin 8) (g : Rung) (n : Port) : Prop :=
  s.ok ∧ (let b := s.box; writer b src)

/-- What clause 6 of PausesAndSamples (PausesAndPipelines) supposes. -/
abbrev hyps_PausesAndSamples_5 (s : State) (src : Src) (l : Lane) (r : Fin 8) (g : Rung) (n : Port) : Prop :=
  s.ok

/-- What clause 1 of EgressQueues (CellsAndEgressQueues) supposes. -/
abbrev hyps_EgressQueues_0 (s : State) (l : Lane) (r : Rung) (d : Desc) (t : List Desc) (fr : Held) (x : Sending) (y : Spilled) (b1 b2 : Box)
    (c : CellMeta) (lane : Nat) : Prop :=
  s.ok ∧ (let b := s.box; let f := fibreOf l; let key := b.ptKey l; let now := b.pacNow l; b.pac.sending.find l = none ∧ b.laneUp f (b.slotOf l) = true ∧ b.retryOn f (b.slotOf l) = false ∧ (b.rty f (b.slotOf l)).replay = [] ∧ b.eq l r = d :: t ∧ (∀ r' < 4, r' ≠ r.val → b.eq l r' = []) ∧ b.frameOf d = some fr ∧ b.tooOld fr = false ∧ b.paused l r = false ∧ now.permits (lr l r) = true ∧ now.permits (lnKey l) = true ∧ now.permits key = true)

/-- What clause 2 of EgressQueues (CellsAndEgressQueues) supposes. -/
abbrev hyps_EgressQueues_1 (s : State) (l : Lane) (r : Rung) (d : Desc) (t : List Desc) (fr : Held) (x : Sending) (y : Spilled) (b1 b2 : Box)
    (c : CellMeta) (lane : Nat) : Prop :=
  s.ok ∧ (let b := s.box; b.pac.sending.find l = some x ∧ x.tagged = false ∧ b.frameOf x.desc = some fr ∧ (b.hb x.desc.half).cells.find (x.desc.ptr / 256) = some c ∧ c.next = none ∧ c.refs = 1 ∧ c.fence = false)

/-- What clause 3 of EgressQueues (CellsAndEgressQueues) supposes. -/
abbrev hyps_EgressQueues_2 (s : State) (l : Lane) (r : Rung) (d : Desc) (t : List Desc) (fr : Held) (x : Sending) (y : Spilled) (b1 b2 : Box)
    (c : CellMeta) (lane : Nat) : Prop :=
  s.ok ∧ (let b := s.box; b.pac.sending.find l = some x ∧ x.tagged = true)

/-- What clause 4 of EgressQueues (CellsAndEgressQueues) supposes. -/
abbrev hyps_EgressQueues_3 (s : State) (l : Lane) (r : Rung) (d : Desc) (t : List Desc) (fr : Held) (x : Sending) (y : Spilled) (b1 b2 : Box)
    (c : CellMeta) (lane : Nat) : Prop :=
  s.ok ∧ (let b := s.box; b.paused l 0 = false ∧ b.buf.spill.find l = some [y] ∧ b.egrAdmits l 0 (cellsOf y.frame.bytes.length) = true ∧ b.spillGrant (halfOf l) 1 y.frame.bytes.length = some b1 ∧ b1.allocFrame (halfOf l) { y.frame with alloc := alSpill, egr := [l] } 1 = some (d, b2))

def W (l : List (Reg × Nat × Nat × Nat × Nat)) : State := with_ r0 l
def oc : CellMeta := ⟨some 9, 77, 3, true, true⟩
def sF (tst : Store Nat) : State := on (W []) (fun b => {(b.setHb 1 (fun x => {x with cells := [(4,oc),(5,oc)], fresh := 6})) with buf := {(b.setHb 1 (fun x => {x with cells := [(4,oc),(5,oc)], fresh := 6})).buf with test := tst}})
def sR (x : RetrySt) : State := on (W [(.prtLaneState,5,3,0,lnUp),(.prtLaneRplMax,5,3,0,3),(.prtLaneRplEn,5,3,0,1)]) (fun b => {b with retry := [(53, x)]})
def un (l : List Nat) : List (Nat × Nat × Option Desc) := l.map (fun n => (n, 1, none))
def bytes0 : List Byte := (List.range 70).map (fun n => BitVec.ofNat 8 n)
def frE : Held := ⟨bytes0, 0, 1, 0, 1024, 0, 0, 0, [43]⟩
def sQ : State := on (holding (W [(.prtLaneState,5,3,0,lnUp),(.bufEqDepth,43,1,0,1)]) 1 frE) (fun b => b.setEq 43 1 [desc0 1 frE])
def sP : State := on sQ (fun b => {b with now := 5000000 * 2^40, buf := {b.buf with paused := [(43*4+1, 5)]}})
def sn : Sending := ⟨desc0 1 frE, 1, 5, true, false⟩
def spl : Spilled := ⟨{frE with rung := 0,lane := 7}, 1, 4⟩
abbrev dumE (k : State → Lane → Rung → Desc → (List Desc) → Held → Sending → Spilled → Box → Box → CellMeta → Nat → Prop) (s : State) (x : Sending) (y : Spilled) (b1 b2 : Box) (d : Desc) (t : List Desc) (fr : Held) (c : CellMeta) (lane : Nat) := k s 43 1 d t fr x y b1 b2 c lane
def sSend (tg : Bool) : State := on (holding (W [(.prtLaneState,5,3,0,lnUp),(.bufEqDepth,43,1,0,1)]) 1 frE) (fun b => {b with pac := {b.pac with sending := [(43,{sn with tagged := tg})]}})
def sSp : State := on (W [(.prtLaneState,5,3,0,lnUp),(.bufEqState,43,0,0,1),(.memState,0,0,0,1),(.memState,1,0,0,1)]) (fun b => {b with buf := {b.buf with spill := [(43,[spl])]}})
def g1 : Box := (sSp.box.spillGrant 1 1 70).getD {}
def g2 : Desc × Box := (g1.allocFrame 1 { spl.frame with alloc := alSpill, egr := [43] } 1).getD (⟨0,0,0,0⟩,{})

/-- States and operands that meet the hypotheses of FencedCells, a part of CellsAndEgressQueues. -/
theorem witness_FencedCells :
    (hyps_FencedCells_1 (sF [(1,4)]) 0 1 1024 4)
    ∧ (hyps_FencedCells_2 (sF [(1,4)]) 0 1 1024 4)
    ∧ (hyps_FencedCells_0 (sF []) 0 1 1024 4) := by
  refine ⟨?_, ?_, ?_⟩ <;>
    first
    | decide +kernel
    | (and_intros <;> first | decide +kernel | (refine ok_of ?_; decide +kernel) | (refine error_of ?_; decide +kernel) | (refine ok_pair ?_ rfl; decide +kernel) | rfl)

/-- States and operands that meet the hypotheses of LinkRetry. -/
theorem witness_LinkRetry :
    (hyps_LinkRetry_0 (sR { unacked := un [4094,4095,0,1], txSeq := 2, replays := 2, replay := [0,1], rxSince := 3, rxExp := 0 }) 5 3 4095 (4094,1,none) (un [4095,0,1]))
    ∧ (hyps_LinkRetry_1 (sR { unacked := un [4094,4095,0,1], txSeq := 2, replays := 2, replay := [0,1], rxSince := 3, rxExp := 0 }) 5 3 4095 (4094,1,none) (un [4095,0,1]))
    ∧ (hyps_LinkRetry_2 (sR { unacked := un [4094,4095,0,1], txSeq := 2, replays := 2, replay := [0,1], rxSince := 3, rxExp := 0 }) 5 3 4095 (4094,1,none) (un [4095,0,1]))
    ∧ (hyps_LinkRetry_4 (sR { unacked := un [4094,4095,0,1], txSeq := 2, replays := 2, replay := [0,1], rxSince := 3, rxExp := 0 }) 5 3 4095 (4094,1,none) (un [4095,0,1]))
    ∧ (hyps_LinkRetry_3 (sR { unacked := un [4094,4095,0,1], txSeq := 2, replays := 3 }) 5 3 2 (4094,1,none) (un [4095,0,1])) := by
  refine ⟨?_, ?_, ?_, ?_, ?_⟩ <;>
    first
    | decide +kernel
    | (and_intros <;> first | decide +kernel | (refine ok_of ?_; decide +kernel) | (refine error_of ?_; decide +kernel) | (refine ok_pair ?_ rfl; decide +kernel) | rfl)

/-- States and operands that meet the hypotheses of PausesAndSamples, a part of PausesAndPipelines. -/
theorem witness_PausesAndSamples :
    (hyps_PausesAndSamples_1 sP 0 43 1 1 3)
    ∧ (hyps_PausesAndSamples_3 sP 0 43 1 1 3)
    ∧ (hyps_PausesAndSamples_4 sP 0 43 1 1 3)
    ∧ (hyps_PausesAndSamples_5 sP 0 43 1 1 3)
    ∧ (hyps_PausesAndSamples_0 sQ 0 43 1 1 3)
    ∧ (hyps_PausesAndSamples_2 sQ 0 43 5 1 3) := by
  refine ⟨?_, ?_, ?_, ?_, ?_, ?_⟩ <;>
    first
    | decide +kernel
    | (and_intros <;> first | decide +kernel | (refine ok_of ?_; decide +kernel) | (refine error_of ?_; decide +kernel) | (refine ok_pair ?_ rfl; decide +kernel) | rfl)

/-- States and operands that meet the hypotheses of EgressQueues, a part of CellsAndEgressQueues. -/
theorem witness_EgressQueues :
    (dumE hyps_EgressQueues_3 sSp sn spl g1 g2.2 g2.1 [] frE oc 0)
    ∧ (dumE hyps_EgressQueues_0 sQ sn spl sQ.box sQ.box (desc0 1 frE) [] frE oc 0)
    ∧ (dumE hyps_EgressQueues_1 (sSend false) sn spl sQ.box sQ.box (desc0 1 frE) [] frE (((sSend false).box.hb 1).cell 0) 0)
    ∧ (dumE hyps_EgressQueues_2 (sSend true) {sn with tagged := true} spl sQ.box sQ.box (desc0 1 frE) [] frE (((sSend false).box.hb 1).cell 0) 0) := by
  refine ⟨?_, ?_, ?_, ?_⟩ <;>
    first
    | decide +kernel
    | (and_intros <;> first | decide +kernel | (refine ok_of ?_; decide +kernel) | (refine error_of ?_; decide +kernel) | (refine ok_pair ?_ rfl; decide +kernel) | rfl)
end P18

namespace P18b
/-- What clause 5 of EgressQueues (CellsAndEgressQueues) supposes. -/
abbrev hyps_EgressQueues_4 (s : State) (l : Lane) (r : Rung) (d : Desc) (t : List Desc) (fr : Held) (x : Sending) (y : Spilled) (b1 b2 : Box)
    (c : CellMeta) (lane : Nat) : Prop :=
  s.ok ∧ (let b := s.box; b.get .pacCmExportLaps ≠ 0 ∧ b.get .pacCmDstIp6 ≠ 0 ∧ (let h := b.ctlHalf; let k := beBytes 16 (kfhOf 3 opCtrl 0 (b.get .pacCmLap) 0 (b.get .pacCmDstFeid) 15 0); let frame (n : Nat) : List Byte := udp6 0 (b.get .fwdModMac) (b.get .fwdModIp6) (b.get .pacCmDstIp6) (b.get .fwdKfhUdp) n (k ++ b.cmPayload); let z := frame 0 ++ [0, 0, 0, 0]; b.decide_ b (8 * h) ⟨z, b.stamp, 3, h, laneSelf, alMgmt, 0, 0, []⟩ { b.parse z with ttl := 255 } 0 = (.lane lane, b1) ∧ (let (n, b1) := b1.fresh; let bytes := putAt (frame n) 0 (beBytes 6 (b1.get .fwdPortPeerMac (portOf lane))); b1.build h ⟨bytes ++ fcs bytes, b1.stamp, 3, h, laneSelf, alMgmt, 0, 0, []⟩ 1 none = (some d, b2) ∧ b2.ws = [] ∧ b2.get .pacCmExportCnt < 2 ^ 32 - 1)))

/-- What clause 1 of Pipelines (PausesAndPipelines) supposes. -/
abbrev hyps_Pipelines_0 (s : State) (p : Pipeline) (l : Lane) (r : Rung) (d : Desc) (t : List Desc) (fr : Held) (lane : Nat) (b1 b2 : Box) : Prop :=
  s.ok ∧ (let b := s.box; let pre := (b.setAdm l r t).setPipe p (fun x => { x with rr := x.rr.put r l }); let v := pre.asOf fr.stamp; let q := v.parse fr.bytes; b.nextFrame p = some (r.val, l.val) ∧ b.adm l r = d :: t ∧ b.frameOf d = some fr ∧ q.bad = none ∧ v.get .fwdPortLearnNhs (portOf fr.lane) = 0xFFF ∧ pre.precheck v fr q = some .ctl)

/-- What clause 2 of Pipelines (PausesAndPipelines) supposes. -/
abbrev hyps_Pipelines_1 (s : State) (p : Pipeline) (l : Lane) (r : Rung) (d : Desc) (t : List Desc) (fr : Held) (lane : Nat) (b1 b2 : Box) : Prop :=
  s.ok ∧ (let b := s.box; let pre := (b.setAdm l r t).setPipe p (fun x => { x with rr := x.rr.put r l }); let v := pre.asOf fr.stamp; let q := v.parse fr.bytes; b.nextFrame p = some (r.val, l.val) ∧ b.adm l r = d :: t ∧ b.frameOf d = some fr ∧ q.bad = none ∧ v.get .fwdPortLearnNhs (portOf fr.lane) = 0xFFF ∧ pre.precheck v fr q = some .relay ∧ b.expelledSelf = false)

/-- What clause 3 of Pipelines (PausesAndPipelines) supposes. -/
abbrev hyps_Pipelines_2 (s : State) (p : Pipeline) (l : Lane) (r : Rung) (d : Desc) (t : List Desc) (fr : Held) (lane : Nat) (b1 b2 : Box) : Prop :=
  s.ok ∧ (let b := s.box; let pre := (b.setAdm l r t).setPipe p (fun x => { x with rr := x.rr.put r l }); let v := pre.asOf fr.stamp; let q := v.parse fr.bytes; b.nextFrame p = some (r.val, l.val) ∧ b.adm l r = d :: t ∧ b.frameOf d = some fr ∧ q.bad = none ∧ v.get .fwdPortLearnNhs (portOf fr.lane) = 0xFFF ∧ pre.precheck v fr q = none ∧ fr.lane = laneSelf ∧ pre.decide_ v p fr q 0 = (.lane lane, b1) ∧ b1.place d lane = (true, b2) ∧ b2.ws = [])

/-- What clause 4 of Pipelines (PausesAndPipelines) supposes. -/
abbrev hyps_Pipelines_3 (s : State) (p : Pipeline) (l : Lane) (r : Rung) (d : Desc) (t : List Desc) (fr : Held) (lane : Nat) (b1 b2 : Box) : Prop :=
  s.ok ∧ (let b := s.box; b.fwd.wait.find (lr l r) = some lane ∧ b.adm l r = d :: t ∧ b.place d lane = (true, b1) ∧ b1.buf.copies = [] ∧ b1.ws = [])

/-- What clause 1 of LaneReceive supposes. -/
abbrev hyps_LaneReceive_0 (s : State) (f : Fibre) (sl : Slot) (bytes : List Byte) (w cell : Nat) (tail : List Nat) (x : HalfBuf) (r : Fin 4) : Prop :=
  s.ok ∧ (let b := s.box; let l := laneOf f w; let p := b.parse bytes; let n := cellsOf bytes.length; b.laneUp f sl = true ∧ b.rxColour f sl = some w ∧ b.striped (portOf l) = false ∧ b.retryOn f sl = false ∧ b.get .prtMode f = 0 ∧ withFcs bytes = bytes ∧ b.rungOf p = 0 ∧ hopBody p bytes = none ∧ p.op ∉ [opSprint, opKeepalive] ∧ b.coreHeld = false ∧ b.bpmHeld (halfOf l) = false ∧ b.ingAdmits l 0 n = true ∧ b.admRoom l 0 = true ∧ HalfBuf.takeN n (b.hb (halfOf l)) = some (cell :: tail, x) ∧ cell < cellCount ∧ (cell :: tail).Nodup)

/-- What clause 2 of LaneReceive supposes. -/
abbrev hyps_LaneReceive_1 (s : State) (f : Fibre) (sl : Slot) (bytes : List Byte) (w cell : Nat) (tail : List Nat) (x : HalfBuf) (r : Fin 4) : Prop :=
  s.ok ∧ (let b := s.box; let l := laneOf f w; b.laneUp f sl = true ∧ b.rxColour f sl = some w ∧ b.striped (portOf l) = false ∧ b.retryOn f sl = false ∧ withFcs bytes ≠ bytes ∧ b.get .prtLaneRxBad f sl < 2 ^ 32 - 1)

/-- What clause 3 of LaneReceive supposes. -/
abbrev hyps_LaneReceive_2 (s : State) (f : Fibre) (sl : Slot) (bytes : List Byte) (w cell : Nat) (tail : List Nat) (x : HalfBuf) (r : Fin 4) : Prop :=
  s.ok ∧ (let b := s.box; let l := laneOf f w; b.laneUp f sl = true ∧ b.rxColour f sl = some w ∧ b.striped (portOf l) = false ∧ b.retryOn f sl = true ∧ b.coreHeld = false ∧ (b.rty f sl).rxExp < 4096 ∧ withFcs bytes ≠ bytes)

def W (l : List (Reg × Nat × Nat × Nat × Nat)) : State := with_ r0 l
def bytes0 : List Byte := (List.range 70).map (fun n => BitVec.ofNat 8 n)
def frE : Held := ⟨bytes0, 0, 1, 0, 1024, 0, 0, 0, [43]⟩
def oc : CellMeta := ⟨some 9, 77, 3, true, true⟩
def sn : Sending := ⟨desc0 1 frE, 1, 5, true, false⟩
def spl : Spilled := ⟨{frE with rung := 0,lane := 7}, 1, 4⟩
def routes (s : State) : State := on (with_ s [(.fwdSvcFeidEn,0,0,0,1),(.fwdSvcFeid,0,0,0,99),(.prtLaneState,5,2,0,lnUp),(.prtLaneState,5,3,0,lnUp),(.fwdNhsMember,7,0,0,512+21)]) (fun b => {b with fwd := {b.fwd with lpm := [⟨1,0,0,7,false,false⟩,⟨4,0,0,7,false,false⟩,⟨2,0,0,7,false,false⟩]}})
def sX : State := routes (W [(.pacCmExportLaps,0,0,0,1),(.pacCmDstIp6,0,0,0,5),(.pacCmDstFeid,0,0,0,9)])
def cmParts (s : State) : Nat × Box × Desc × Box :=
  let b := s.box
  let h := b.ctlHalf
  let k := beBytes 16 (kfhOf 3 opCtrl 0 (b.get .pacCmLap) 0 (b.get .pacCmDstFeid) 15 0)
  let frame (n : Nat) : List Byte := udp6 0 (b.get .fwdModMac) (b.get .fwdModIp6) (b.get .pacCmDstIp6) (b.get .fwdKfhUdp) n (k ++ b.cmPayload)
  let z := frame 0 ++ [0, 0, 0, 0]
  match b.decide_ b (8 * h) ⟨z, b.stamp, 3, h, laneSelf, alMgmt, 0, 0, []⟩ { b.parse z with ttl := 255 } 0 with
  | (.lane lane, b1) =>
    let (n, b1') := b1.fresh
    let bytes := putAt (frame n) 0 (beBytes 6 (b1'.get .fwdPortPeerMac (portOf lane)))
    match b1'.build h ⟨bytes ++ fcs bytes, b1'.stamp, 3, h, laneSelf, alMgmt, 0, 0, []⟩ 1 none with
    | (some d, b2) => (lane, b1, d, b2)
    | _ => (0, b1, ⟨0,0,0,0⟩, b1)
  | (_, b1) => (9999, b1, ⟨0,0,0,0⟩, b1)
-- pipelines
def toCtlF : List Byte := withFcs ([1,0x80,0xC2,0,0,0xE,1,2,3,4,5,6,0x88,0xB5] ++ List.replicate 50 7 ++ [0,0,0,0])
def pl (l r : Nat) (fr : Held) : State := on (holding (routes (W [])) (halfOf l) fr) (fun b => b.setAdm l r [desc0 (halfOf l) fr])
def mkF (bs : List Byte) (r lane : Nat) : Held := ⟨bs, 0, r, 0, lane, 0, 0, 0, []⟩
def plc (s : State) (p l r : Nat) (fr : Held) : Nat × Box × Box :=
  let b := s.box
  let pre := (b.setAdm l r []).setPipe p (fun x => { x with rr := x.rr.put r l })
  let v := pre.asOf fr.stamp
  let q := v.parse fr.bytes
  match pre.decide_ v p fr q 0 with
  | (.lane lane, b1) => (lane, b1, (b1.place (desc0 (halfOf l) fr) lane).2)
  | (_, b1) => (9999, b1, b1)
abbrev pip (k : State → Pipeline → Lane → Rung → Desc → (List Desc) → Held → Nat → Box → Box → Prop) (s : State) (p : Pipeline) (l : Lane) (r : Rung) (fr : Held) := let c := plc s p l r fr; k s p l r (desc0 (halfOf l) fr) [] fr c.1 c.2.1 c.2.2
def kfr (ru op feid : Nat) : List Byte := withFcs (udp6 0 (r0.box.get .fwdModMac) 5 6 (r0.box.get .fwdKfhUdp) (9+64*2^28) (beBytes 16 (kfhOf ru op 3 0 0 feid 15 0) ++ List.replicate 8 0) ++ [0,0,0,0])
def sWt : State := on (pl 3 3 (mkF (kfr 3 opCtrl 77) 3 3)) (fun b => {b with fwd := {b.fwd with wait := [(lr 3 3, 43)]}})
-- receive
def lr0 (l : List (Reg × Nat × Nat × Nat × Nat)) : State := routes (W l)
abbrev recv (k : State → Fibre → Slot → (List Byte) → Nat → Nat → (List Nat) → HalfBuf → (Fin 4) → Prop) (s : State) (f : Fibre) (sl : Slot) (bs : List Byte) (w : Nat) (r : Fin 4) :=
  let q := (HalfBuf.takeN (cellsOf bs.length) (s.box.hb (halfOf w))).getD ([], s.box.hb (halfOf w))
  k s f sl bs w (q.1.headD 0) (q.1.drop 1) q.2 r
def plain : List Byte := withFcs (udp6 0x020000000009 5 5 6 999 (9+64*2^28) (List.replicate 20 7) ++ [0,0,0,0])

def sDbg := pl 3 1 (mkF (kfr 1 opContrib 99) 1 3)

/-- States and operands that meet the hypotheses of EgressQueues, a part of CellsAndEgressQueues. -/
theorem witness_EgressQueues :
    (let c := cmParts sX; hyps_EgressQueues_4 sX 43 1 c.2.2.1 [] frE sn spl c.2.1 c.2.2.2 oc c.1) := by
  first
    | decide +kernel
    | (and_intros <;> first | decide +kernel | (refine ok_of ?_; decide +kernel) | (refine error_of ?_; decide +kernel) | (refine ok_pair ?_ rfl; decide +kernel) | rfl)

/-- States and operands that meet the hypotheses of Pipelines, a part of PausesAndPipelines. -/
theorem witness_Pipelines :
    (pip hyps_Pipelines_0 (pl 3 0 (mkF toCtlF 0 3)) 8 3 0 (mkF toCtlF 0 3))
    ∧ (pip hyps_Pipelines_1 (pl 3 1 (mkF (kfr 1 opContrib 99) 1 3)) 8 3 1 (mkF (kfr 1 opContrib 99) 1 3))
    ∧ (pip hyps_Pipelines_2 (pl 3 3 (mkF (kfr 3 opCtrl 77) 3 1024)) 8 3 3 (mkF (kfr 3 opCtrl 77) 3 1024))
    ∧ (let c := sWt.box.place (desc0 1 (mkF (kfr 3 opCtrl 77) 3 3)) 43; hyps_Pipelines_3 sWt 8 3 3 (desc0 1 (mkF (kfr 3 opCtrl 77) 3 3)) [] (mkF (kfr 3 opCtrl 77) 3 3) 43 c.2 c.2) := by
  refine ⟨?_, ?_, ?_, ?_⟩ <;>
    first
    | decide +kernel
    | (and_intros <;> first | decide +kernel | (refine ok_of ?_; decide +kernel) | (refine error_of ?_; decide +kernel) | (refine ok_pair ?_ rfl; decide +kernel) | rfl)

/-- States and operands that meet the hypotheses of LaneReceive. -/
theorem witness_LaneReceive :
    (recv hyps_LaneReceive_0 (lr0 [(.prtMode,5,0,0,0)]) 5 3 plain 3 1)
    ∧ (recv hyps_LaneReceive_1 (lr0 [(.prtMode,5,0,0,0)]) 5 3 (plain ++ [1]) 3 1)
    ∧ (recv hyps_LaneReceive_2 (lr0 [(.prtMode,5,0,0,0),(.prtLanePeerCap,5,3,0,5),(.prtLaneRplEn,5,3,0,1)]) 5 3 (plain ++ [1]) 3 1) := by
  refine ⟨?_, ?_, ?_⟩ <;>
    first
    | decide +kernel
    | (and_intros <;> first | decide +kernel | (refine ok_of ?_; decide +kernel) | (refine error_of ?_; decide +kernel) | (refine ok_pair ?_ rfl; decide +kernel) | rfl)
end P18b

namespace P19
/-- What clause 1 of MemoryTransactions (MemoryController) supposes. -/
abbrev hyps_MemoryTransactions_0 (s : State) (off : BitVec 39) (len : Fin 4097) (v : List Byte) (tag : BitVec 8) (cls : Fin 6) (k : Nat) : Prop :=
  s.ok ∧ (let b := s.box; let o := off.toNat; b.memOk o v.length = true ∧ o % 32 = 0 ∧ v.length % 32 = 0)

/-- What clause 2 of MemoryTransactions (MemoryController) supposes. -/
abbrev hyps_MemoryTransactions_1 (s : State) (off : BitVec 39) (len : Fin 4097) (v : List Byte) (tag : BitVec 8) (cls : Fin 6) (k : Nat) : Prop :=
  s.ok ∧ (let b := s.box; let o := off.toNat; let t := tag.toNat; b.memOk o len = true ∧ (∀ n ∈ burstsOf o len, b.memc.bad.contains n = false ∧ b.memTag n = t))

/-- What clause 3 of MemoryTransactions (MemoryController) supposes. -/
abbrev hyps_MemoryTransactions_2 (s : State) (off : BitVec 39) (len : Fin 4097) (v : List Byte) (tag : BitVec 8) (cls : Fin 6) (k : Nat) : Prop :=
  s.ok ∧ (let b := s.box; let o := off.toNat; let t := tag.toNat; b.memOk o len = true ∧ burstsOf o len = [k] ∧ b.memc.bad.contains k = false ∧ b.memTag k ≠ t ∧ cls ≠ 2 ∧ calm b)

/-- What clause 4 of MemoryTransactions (MemoryController) supposes. -/
abbrev hyps_MemoryTransactions_3 (s : State) (off : BitVec 39) (len : Fin 4097) (v : List Byte) (tag : BitVec 8) (cls : Fin 6) (k : Nat) : Prop :=
  s.ok ∧ (let b := s.box; let o := off.toNat; b.memOk o len = false)

/-- What clause 1 of MemoryUpkeep (MemoryController) supposes. -/
abbrev hyps_MemoryUpkeep_0 (s : State) (h : Half) (best : List (Fin 4)) (demand : List (BitVec 32)) : Prop :=
  s.ok ∧ (let b := s.box; best.length = 4 ∧ (∀ x ∈ best, x.val ≤ 2) ∧ b.memReady (1 - h) = false)

/-- What clause 2 of MemoryUpkeep (MemoryController) supposes. -/
abbrev hyps_MemoryUpkeep_1 (s : State) (h : Half) (best : List (Fin 4)) (demand : List (BitVec 32)) : Prop :=
  s.ok ∧ (let b := s.box; let A := b.memc.scrub.at h 0; b.memReady h = true ∧ b.memc.bad.contains ((h * halfBytes + A) / 32) = false)

/-- What clause 3 of MemoryUpkeep (MemoryController) supposes. -/
abbrev hyps_MemoryUpkeep_2 (s : State) (h : Half) (best : List (Fin 4)) (demand : List (BitVec 32)) : Prop :=
  s.ok

/-- What clause 1 of RelayControl supposes. -/
abbrev hyps_RelayControl_0 (s : State) (src : Src) (h : Half) (c : RCore) (q : Fin 8) (t : Thr) (slot : Fin 4) (a : Fin 16384) (v : BitVec 32)
    (d : Desc) (ds : List Desc) (fr : Held) (w : Work) (ws : List Work) (n : Nat) (x : HeldSlot) : Prop :=
  s.ok ∧ (let b := s.box; let p := b.parse fr.bytes; let hdr := kHeader fr.bytes p; let key := steerKey p (bits hdr 127 96); let c' := b.substOf (b.get .rlySteer h (key % 1024)); let q' := if p.op = opContrib then b.get .colGrpWq p.group else b.get .embTblWq (bits hdr 191 186); b.rly.inbox.find h = some (d :: ds) ∧ b.frameOf d = some fr ∧ b.boundTo c' q' = some n ∧ b.dispatches n = true ∧ b.heldFor c' q' = [] ∧ (b.wq c' q').length < 64 ∧ b.waiters c' q' = [])

/-- What clause 2 of RelayControl supposes. -/
abbrev hyps_RelayControl_1 (s : State) (src : Src) (h : Half) (c : RCore) (q : Fin 8) (t : Thr) (slot : Fin 4) (a : Fin 16384) (v : BitVec 32)
    (d : Desc) (ds : List Desc) (fr : Held) (w : Work) (ws : List Work) (n : Nat) (x : HeldSlot) : Prop :=
  s.ok ∧ (let b := s.box; let p := b.parse fr.bytes; let hdr := kHeader fr.bytes p; let key := steerKey p (bits hdr 127 96); let c' := b.substOf (b.get .rlySteer h (key % 1024)); let q' := if p.op = opContrib then b.get .colGrpWq p.group else b.get .embTblWq (bits hdr 191 186); b.heldFor c q = w :: ws ∧ b.boundTo c q = some n ∧ b.dispatches n = true ∧ (b.wq c q).length = 63 ∧ b.waiters c q = [])

/-- What clause 3 of RelayControl supposes. -/
abbrev hyps_RelayControl_2 (s : State) (src : Src) (h : Half) (c : RCore) (q : Fin 8) (t : Thr) (slot : Fin 4) (a : Fin 16384) (v : BitVec 32)
    (d : Desc) (ds : List Desc) (fr : Held) (w : Work) (ws : List Work) (n : Nat) (x : HeldSlot) : Prop :=
  s.ok ∧ (let b := s.box; (b.bundleOf t).all (fun y => !y.stopping) = true ∧ (b.thr t).slots.find slot = some x ∧ x.ns + b.get .rlyHoldMaxUs * 1000 < b.ns)

/-- What clause 4 of RelayControl supposes. -/
abbrev hyps_RelayControl_3 (s : State) (src : Src) (h : Half) (c : RCore) (q : Fin 8) (t : Thr) (slot : Fin 4) (a : Fin 16384) (v : BitVec 32)
    (d : Desc) (ds : List Desc) (fr : Held) (w : Work) (ws : List Work) (n : Nat) (x : HeldSlot) : Prop :=
  s.ok ∧ (let b := s.box; writer b src ∧ b.tst t = thStopped)

/-- What clause 5 of RelayControl supposes. -/
abbrev hyps_RelayControl_4 (s : State) (src : Src) (h : Half) (c : RCore) (q : Fin 8) (t : Thr) (slot : Fin 4) (a : Fin 16384) (v : BitVec 32)
    (d : Desc) (ds : List Desc) (fr : Held) (w : Work) (ws : List Work) (n : Nat) (x : HeldSlot) : Prop :=
  s.ok ∧ (let b := s.box; writer b src ∧ b.tst t ∈ [thReady, thWait, thIdle] ∧ (b.bundleOf t).all (fun y => !y.stopping) = true)

/-- What clause 6 of RelayControl supposes. -/
abbrev hyps_RelayControl_5 (s : State) (src : Src) (h : Half) (c : RCore) (q : Fin 8) (t : Thr) (slot : Fin 4) (a : Fin 16384) (v : BitVec 32)
    (d : Desc) (ds : List Desc) (fr : Held) (w : Work) (ws : List Work) (n : Nat) (x : HeldSlot) : Prop :=
  s.ok ∧ (let b := s.box; let p := b.parse fr.bytes; let hdr := kHeader fr.bytes p; let key := steerKey p (bits hdr 127 96); let c' := b.substOf (b.get .rlySteer h (key % 1024)); writer b src ∧ b.wordOwner c a = none)

/-- What clause 7 of RelayControl supposes. -/
abbrev hyps_RelayControl_6 (s : State) (src : Src) (h : Half) (c : RCore) (q : Fin 8) (t : Thr) (slot : Fin 4) (a : Fin 16384) (v : BitVec 32)
    (d : Desc) (ds : List Desc) (fr : Held) (w : Work) (ws : List Work) (n : Nat) (x : HeldSlot) : Prop :=
  s.ok ∧ (let b := s.box; let p := b.parse fr.bytes; let hdr := kHeader fr.bytes p; let key := steerKey p (bits hdr 127 96); let c' := b.substOf (b.get .rlySteer h (key % 1024)); writer b src ∧ b.wordOwner c a = some n ∧ (b.bundleThreads n c).any (fun y => b.tst y != thFree) = true)

/-- What clause 1 of ContributionAdmitted (CollectivePath) supposes. -/
abbrev hyps_ContributionAdmitted_0 (s : State) (c : RCore) (q : Fin 8) (w : Work) (d : Desc) (fr : Held) (b1 : Box) : Prop :=
  s.ok ∧ (let b := s.box; let p := b1.parse fr.bytes; let n := p.group; let j := p.seq % 8; let h := chdr (kHeader fr.bytes p); let off := (p.kfh.getD 0) + 40; let len := payLen (b1.grp n).pairs h.fmt h.nelem h.mxs; let pay := ((fr.bytes.take (endOf fr.bytes)).drop off).take len; let v := b1.asOf fr.stamp; let bytes := (b1.grp n).batonBytes h.nelem; let node := h.base / 2 ^ h.log; b.col.sends = [] ∧ b.takeWork c q [opContrib] = some (w, b1) ∧ w.desc = some d ∧ b1.frameOf d = some fr ∧ lenFits fr.bytes off len = true ∧ off ≤ endOf fr.bytes ∧ h.stat = 0 ∧ v.bit .colGrpCtrl 0 n = true ∧ v.get .colGrpKind n ≠ 15 ∧ h.check = checkOf p.k (kHeader fr.bytes p) pay ∧ (v.groupPorts n).contains (portOf fr.lane) = true ∧ h.gen = v.get .colGrpGen n ∧ v.get .colGrpGen n = b1.get .colGrpGen n ∧ b1.windowDrop n p.seq = none ∧ b1.contribCheck n j p fr.bytes h pay = none ∧ b1.slotState n j = slFree ∧ b1.get .colGrpKind n ≠ 2 ∧ b1.slot n j = {} ∧ node % 2 = 1 ∧ b.col.quota.at (4 * n + dieOf c) 0 + bytes ≤ b1.get .colGrpQuotaKib n * 1024)

def W (l : List (Reg × Nat × Nat × Nat × Nat)) : State := with_ r0 l
def sM : State := W [(.memState,0,0,0,3)]
def v64 : List Byte := (List.range 64).map (fun n => BitVec.ofNat 8 (n+3))
def sM2 : State := { sM with mem := Memory.store [] (memAddr 64) v64 }
-- relay control
def frB (bs : List Byte) (lane r : Nat) : Held := ⟨bs, 0, r, 0, lane, 0, 0, 0, []⟩
def kfr (k hdr : Nat) (pay : List Byte) : List Byte := withFcs (beBytes 6 5 ++ beBytes 6 6 ++ beBytes 2 (r0.box.get .fwdKfhEtype) ++ beBytes 16 k ++ beBytes 24 hdr ++ pay ++ [0,0,0,0])
def k0 : Nat := kfhOf 1 opContrib 5 3 9 99 15 0
def h0 : CHdr := ⟨0, 20, 1, 0, 0, false, 0, 4, 1, 0, 0⟩
def pay0 : List Byte := leBytes 4 0x3f800000 ++ leBytes 4 0x40000000 ++ leBytes 4 0 ++ leBytes 4 0xbf800000
def hdr0 : Nat := h0.num + checkOf k0 h0.num pay0
def cf : Held := frB (kfr k0 hdr0 pay0) 43 1
def sG (l : List (Reg × Nat × Nat × Nat × Nat)) : State := W ([(.colGrpCtrl,5,0,0,3),(.colGrpAxI,5,0,0,5*512+16),(.colGrpAxP,5,0,0,512+16),(.colGrpRanks,5,0,0,4),(.colGrpQuotaKib,5,0,0,100),(.rlyState,0,0,0,coreRun),(.colGrpWq,5,0,0,2)] ++ l)
def cpu : Nat := r0.box.substOf (r0.box.get .rlySteer 1 ((9 ^^^ 20) % 1024))
def sI : State := on (holding (sG [(.rlyWqBundle,cpu,2,0,3),(.rlyBundleState,3,0,0,2)]) 1 cf) (fun b => {b with rly := {b.rly with inbox := [(1,[desc0 1 cf, desc0 0 cf])]}})
abbrev rc (k : State → Src → Half → RCore → (Fin 8) → Thr → (Fin 4) → (Fin 16384) → (BitVec 32) → Desc → (List Desc) → Held → Work → (List Work) → Nat → HeldSlot → Prop) (s : State) (h : Half) (c : RCore) (q : Fin 8) (t : Thr) (a : Fin 16384) (d : Desc) (ds : List Desc) (fr : Held) (w : Work) (ws : List Work) (n : Nat) (x : HeldSlot) := k s 0 h c q t 2 a 77 d ds fr w ws n x
def hs : HeldSlot := ⟨desc0 1 cf, 0⟩
def sH : State := on (W [(.rlyWqBundle,7,2,0,3),(.rlyBundleState,3,0,0,2)]) (fun b => {b.setWq 7 2 ((List.range 63).map (fun n => ⟨n,none⟩)) with rly := {(b.setWq 7 2 ((List.range 63).map (fun n => ⟨n,none⟩))).rly with heldWork := [(58, [⟨5,none⟩,⟨6,none⟩])]}})
def sHl : State := on (holding (thr0 3 4) 1 cf) (fun b => {b.setThr 0 (fun t => {t with slots := [(2, hs)]}) with now := 10^9 * 2^40})
-- contributions
def wk (c q : Nat) : Work := ⟨opContrib * 2^508 + q * 2^499, some (desc0 1 cf)⟩
def sCon (c : Nat) : State := on (holding (sG [(.rlyState,c,0,0,coreRun)]) 1 cf) (fun b => b.setWq c 2 [wk c 2])
abbrev con (k : State → RCore → (Fin 8) → Work → Desc → Held → Box → Prop) (c : RCore) :=
  let q := ((sCon c).box.takeWork c 2 [opContrib]).getD (⟨0,none⟩, (sCon c).box)
  k (sCon c) c 2 q.1 (desc0 1 cf) cf q.2

/-- States and operands that meet the hypotheses of MemoryTransactions, a part of MemoryController. -/
theorem witness_MemoryTransactions :
    (hyps_MemoryTransactions_0 sM 64 64 v64 9 0 2)
    ∧ (hyps_MemoryTransactions_2 sM2 70 20 v64 77 1 2)
    ∧ (hyps_MemoryTransactions_1 sM2 70 20 v64 (BitVec.ofNat 8 (sM.box.homeTag 2)) 0 2)
    ∧ (hyps_MemoryTransactions_3 sM2 (BitVec.ofNat 39 (halfBytes-10)) 20 (List.replicate 32 1) 77 1 2) := by
  refine ⟨?_, ?_, ?_, ?_⟩ <;>
    first
    | decide +kernel
    | (and_intros <;> first | decide +kernel | (refine ok_of ?_; decide +kernel) | (refine error_of ?_; decide +kernel) | (refine ok_pair ?_ rfl; decide +kernel) | rfl)

/-- States and operands that meet the hypotheses of MemoryUpkeep, a part of MemoryController. -/
theorem witness_MemoryUpkeep :
    (hyps_MemoryUpkeep_0 (W [(.memState,1,0,0,3)]) 1 [2,1,2,0] ((List.range 6).map (fun n => BitVec.ofNat 32 (n*100000+(50000)))))
    ∧ (hyps_MemoryUpkeep_1 (W [(.memState,1,0,0,3)]) 1 [2,1,2,0] ((List.range 6).map (fun n => BitVec.ofNat 32 (n*100000+(50000)))))
    ∧ (hyps_MemoryUpkeep_2 (W [(.memState,1,0,0,3)]) 1 [2,1,2,0] ((List.range 6).map (fun n => BitVec.ofNat 32 (n*100000+(50000))))) := by
  refine ⟨?_, ?_, ?_⟩ <;>
    first
    | decide +kernel
    | (and_intros <;> first | decide +kernel | (refine ok_of ?_; decide +kernel) | (refine error_of ?_; decide +kernel) | (refine ok_pair ?_ rfl; decide +kernel) | rfl)

/-- States and operands that meet the hypotheses of RelayControl. -/
theorem witness_RelayControl :
    (rc hyps_RelayControl_2 sHl 1 7 2 0 3 (desc0 1 cf) [desc0 0 cf] cf ⟨5,none⟩ [⟨6,none⟩] 3 hs)
    ∧ (rc hyps_RelayControl_4 sHl 1 7 2 0 3 (desc0 1 cf) [desc0 0 cf] cf ⟨5,none⟩ [⟨6,none⟩] 3 hs)
    ∧ (rc hyps_RelayControl_5 sHl 1 7 2 0 3 (desc0 1 cf) [desc0 0 cf] cf ⟨5,none⟩ [⟨6,none⟩] 3 hs)
    ∧ (rc hyps_RelayControl_0 sI 1 0 0 0 3 (desc0 1 cf) [desc0 0 cf] cf ⟨0,none⟩ [] 3 hs)
    ∧ (rc hyps_RelayControl_1 sH 1 7 2 0 3 (desc0 1 cf) [desc0 0 cf] cf ⟨5,none⟩ [⟨6,none⟩] 3 hs)
    ∧ (rc hyps_RelayControl_3 (on (thr1 [(1,5)] [] []) (fun b => b.setTst 0 thStopped)) 1 7 2 0 3 (desc0 1 cf) [desc0 0 cf] cf ⟨5,none⟩ [⟨6,none⟩] 3 hs)
    ∧ (rc hyps_RelayControl_6 (on (thr1 [(1,5)] [] []) (fun b => { b with rly := {b.rly with bundles := [(0,{bundle0 with code := [1,2,3,4]})]}})) 1 0 2 0 0 (desc0 1 cf) [desc0 0 cf] cf ⟨5,none⟩ [⟨6,none⟩] 0 hs) := by
  refine ⟨?_, ?_, ?_, ?_, ?_, ?_, ?_⟩ <;>
    first
    | decide +kernel
    | (and_intros <;> first | decide +kernel | (refine ok_of ?_; decide +kernel) | (refine error_of ?_; decide +kernel) | (refine ok_pair ?_ rfl; decide +kernel) | rfl)

/-- States and operands that meet the hypotheses of ContributionAdmitted, a part of CollectivePath. -/
theorem witness_ContributionAdmitted :
    (con hyps_ContributionAdmitted_0 3) := by
  first
    | decide +kernel
    | (and_intros <;> first | decide +kernel | (refine ok_of ?_; decide +kernel) | (refine error_of ?_; decide +kernel) | (refine ok_pair ?_ rfl; decide +kernel) | rfl)
end P19

namespace P19b
/-- What clause 1 of CollectiveEvents (CollectivePath) supposes. -/
abbrev hyps_CollectiveEvents_0 (s : State) (n : Fin 16384) (j : Fin 8) (chunk : BitVec 16) (h : Half) (x : Baton) (c : ChunkSt) (pl wh : Nat) (b1 : Box)
    (m : Mirror) : Prop :=
  s.ok ∧ (let b := s.box; let ch := chunk.toNat; let home := b.homeHalf ch; b.slotState n j = slOpen ∧ h.val ≠ home ∧ b.chunk n j ch = some c ∧ c.batons = [x] ∧ x.half = h ∧ x.place ≠ 2 ∧ x.b % 2 = 1 ∧ (b.dropBaton n j ch x).batonRoom n (b.chunkCore n ch home) x.bytes = some (pl, wh, b1))

/-- What clause 2 of CollectiveEvents (CollectivePath) supposes. -/
abbrev hyps_CollectiveEvents_1 (s : State) (n : Fin 16384) (j : Fin 8) (chunk : BitVec 16) (h : Half) (x : Baton) (c : ChunkSt) (pl wh : Nat) (b1 : Box)
    (m : Mirror) : Prop :=
  s.ok ∧ (let b := s.box; let ch := chunk.toNat; let home := b.homeHalf ch; b.slotState n j = slOpen ∧ b.chunk n j ch = some c ∧ c.batons = [x] ∧ x.half ≠ home ∧ x.place = 2 ∧ x.l = logP (b.get .colGrpRanks n) ∧ b.batonMove x.half 1 x.bytes = some b1)

/-- What clause 3 of CollectiveEvents (CollectivePath) supposes. -/
abbrev hyps_CollectiveEvents_2 (s : State) (n : Fin 16384) (j : Fin 8) (chunk : BitVec 16) (h : Half) (x : Baton) (c : ChunkSt) (pl wh : Nat) (b1 : Box)
    (m : Mirror) : Prop :=
  s.ok ∧ (let b := s.box; let base := b.get .colGrpBase n; b.slotState n j = slOpen ∧ base % 8 ≠ j ∧ b.slotState n (base % 8) = slOpen)

/-- What clause 4 of CollectiveEvents (CollectivePath) supposes. -/
abbrev hyps_CollectiveEvents_3 (s : State) (n : Fin 16384) (j : Fin 8) (chunk : BitVec 16) (h : Half) (x : Baton) (c : ChunkSt) (pl wh : Nat) (b1 : Box)
    (m : Mirror) : Prop :=
  s.ok ∧ (let b := s.box; b.col.mirrors.find? (·.second.isNone) = some m ∧ b.mirrorValue m = m.result)

/-- What clause 5 of CollectiveEvents (CollectivePath) supposes. -/
abbrev hyps_CollectiveEvents_4 (s : State) (n : Fin 16384) (j : Fin 8) (chunk : BitVec 16) (h : Half) (x : Baton) (c : ChunkSt) (pl wh : Nat) (b1 : Box)
    (m : Mirror) : Prop :=
  s.ok ∧ (let b := s.box; b.col.mirrors.find? (·.second.isSome) = some m ∧ b.mirrorValue m = m.result)

/-- What clause 1 of CoreQuarantine supposes. -/
abbrev hyps_CoreQuarantine_0 (s : State) (src : Src) (c d : RCore) (passes : BitVec 32) (fails : BitVec 31) : Prop :=
  s.ok ∧ (let b := s.box; writer b src ∧ b.usable c = true)

/-- What clause 2 of CoreQuarantine supposes. -/
abbrev hyps_CoreQuarantine_1 (s : State) (src : Src) (c d : RCore) (passes : BitVec 32) (fails : BitVec 31) : Prop :=
  s.ok ∧ (let b := s.box; halfOfCore d = halfOfCore c ∧ d ≠ c ∧ b.usable d = true)

/-- What clause 3 of CoreQuarantine supposes. -/
abbrev hyps_CoreQuarantine_2 (s : State) (src : Src) (c d : RCore) (passes : BitVec 32) (fails : BitVec 31) : Prop :=
  s.ok ∧ (let b := s.box; let st := b.get .rlyState c; writer b src ∧ st = coreQuar)

/-- What clause 4 of CoreQuarantine supposes. -/
abbrev hyps_CoreQuarantine_3 (s : State) (src : Src) (c d : RCore) (passes : BitVec 32) (fails : BitVec 31) : Prop :=
  s.ok ∧ (let b := s.box; let st := b.get .rlyState c; writer b src ∧ st = coreHeat)

/-- What clause 5 of CoreQuarantine supposes. -/
abbrev hyps_CoreQuarantine_4 (s : State) (src : Src) (c d : RCore) (passes : BitVec 32) (fails : BitVec 31) : Prop :=
  s.ok ∧ (let b := s.box; let st := b.get .rlyState c; writer b src ∧ st = coreQuar ∧ 1 ≤ b.get .colHeatProg c ∧ b.get .colHeatProg c ≤ 4)

/-- What clause 6 of CoreQuarantine supposes. -/
abbrev hyps_CoreQuarantine_5 (s : State) (src : Src) (c d : RCore) (passes : BitVec 32) (fails : BitVec 31) : Prop :=
  s.ok ∧ (let b := s.box; let st := b.get .rlyState c; st = coreHeat)

def W (l : List (Reg × Nat × Nat × Nat × Nat)) : State := with_ r0 l
def bat (b l half place wh bytes : Nat) : Baton := ⟨b, l, [1,2,3,4], 0, 3, half, place, wh, bytes⟩
def sE (x : List Baton) (g : Box → Box) (l : List (Reg × Nat × Nat × Nat × Nat)) : State := on (W ([(.colGrpCtrl,5,0,0,3),(.colGrpAxI,5,0,0,5*512+16),(.colGrpAxP,5,0,0,512+16),(.colGrpRanks,5,0,0,4),(.colGrpQuotaKib,5,0,0,100),(.colGrpSlotState,5,3,0,slOpen),(.colGrpSlotSeq,5,3,0,3)] ++ l)) (fun b => g {b with col := {b.col with slots := [(43, {seq := 3, nchunk := 20, chunks := [(9, {nelem := 4, batons := x}),(12, {nelem := 4, batons := x})]})], quota := [(20,x.foldl (fun a y => a + y.bytes) 0)]}})
def mir : Mirror := ⟨5,3,9,0,1,0,2,[0x3f800000,0,0,0],[0x3f800000,0,0,0],[0x40000000,0,0,0],none⟩
abbrev run (k : State → (Fin 16384) → (Fin 8) → (BitVec 16) → Half → Baton → ChunkSt → Nat → Nat → Box → Mirror → Prop) (s : State) (j : Fin 8) (h : Half) (x : Baton) (m : Mirror) :=
  let b := s.box
  let c := (b.chunk 5 j 9).getD {nelem:=0}
  let r := (b.dropBaton 5 j 9 x).batonRoom 5 (b.chunkCore 5 9 (b.homeHalf 9)) x.bytes
  let (pl,wh,b1) := r.getD (0,0,b)
  let b1' := if x.place = 2 then (b.batonMove x.half 1 x.bytes).getD b else b1
  k s 5 j 9 h x c pl wh b1' m
abbrev cq (k : State → Src → RCore → RCore → (BitVec 32) → (BitVec 31) → Prop) (s : State) (c d : RCore) := k s 0 c d 3 4
def allRun (s : State) : State := on s (fun b => (List.range 128).foldl (fun b c => b.put .rlyState coreRun c) b)

/-- States and operands that meet the hypotheses of CollectiveEvents, a part of CollectivePath. -/
theorem witness_CollectiveEvents :
    (run hyps_CollectiveEvents_2 (sE [bat 1 0 1 0 0 128] (fun b => {b with col := {b.col with mirrors := [mir]}}) [(.colGrpSlotState,5,0,0,slOpen)]) 3 1 (bat 1 0 1 0 0 128) mir)
    ∧ (run hyps_CollectiveEvents_3 (sE [bat 1 0 1 0 0 128] (fun b => {b with col := {b.col with mirrors := [mir]}}) [(.colGrpSlotState,5,0,0,slOpen)]) 3 1 (bat 1 0 1 0 0 128) mir)
    ∧ (run hyps_CollectiveEvents_0 (sE [bat 1 0 0 0 0 128] id []) 3 0 (bat 1 0 0 0 0 128) mir)
    ∧ (run hyps_CollectiveEvents_1 (sE [bat 0 2 0 2 0 128] id [(.memState,0,0,0,3)]) 3 0 (bat 0 2 0 2 0 128) mir)
    ∧ (run hyps_CollectiveEvents_4 (sE [bat 1 0 1 0 0 128] (fun b => {b with col := {b.col with mirrors := [{mir with second := some [1]}]}}) [(.rlyState,0,0,0,1),(.rlyState,1,0,0,1),(.rlyState,2,0,0,1),(.rlyState,3,0,0,1),(.rlyState,34,0,0,1)]) 3 1 (bat 1 0 1 0 0 128) {mir with second := some [1]}) := by
  refine ⟨?_, ?_, ?_, ?_, ?_⟩ <;>
    first
    | decide +kernel
    | (and_intros <;> first | decide +kernel | (refine ok_of ?_; decide +kernel) | (refine error_of ?_; decide +kernel) | (refine ok_pair ?_ rfl; decide +kernel) | rfl)

/-- States and operands that meet the hypotheses of CoreQuarantine. -/
theorem witness_CoreQuarantine :
    (cq hyps_CoreQuarantine_1 (W [(.rlyState,3,0,0,coreQuar),(.rlyState,4,0,0,coreRun),(.colHeatProg,3,0,0,4)]) 3 4)
    ∧ (cq hyps_CoreQuarantine_2 (W [(.rlyState,3,0,0,coreQuar),(.rlyState,4,0,0,coreRun),(.colHeatProg,3,0,0,4)]) 3 4)
    ∧ (cq hyps_CoreQuarantine_4 (W [(.rlyState,3,0,0,coreQuar),(.rlyState,4,0,0,coreRun),(.colHeatProg,3,0,0,4)]) 3 4)
    ∧ (cq hyps_CoreQuarantine_3 (W [(.rlyState,3,0,0,coreHeat),(.rlyState,4,0,0,coreRun),(.colHeatProg,3,0,0,4)]) 3 4)
    ∧ (cq hyps_CoreQuarantine_5 (W [(.rlyState,3,0,0,coreHeat),(.rlyState,4,0,0,coreRun),(.colHeatProg,3,0,0,4)]) 3 4)
    ∧ (cq hyps_CoreQuarantine_0 (allRun (W [])) 3 4) := by
  refine ⟨?_, ?_, ?_, ?_, ?_, ?_⟩ <;>
    first
    | decide +kernel
    | (and_intros <;> first | decide +kernel | (refine ok_of ?_; decide +kernel) | (refine error_of ?_; decide +kernel) | (refine ok_pair ?_ rfl; decide +kernel) | rfl)
end P19b

namespace P20
/-- What clause 1 of SprintContributions (SprintPath) supposes. -/
abbrev hyps_SprintContributions_0 (s : State) (f : Fibre) (sl : Slot) (frame : List Byte) (hf : Half) (w k seq bb lg : Nat) (y : Baton)
    (t : List (Nat × Nat × Nat × Nat)) : Prop :=
  s.ok ∧ (let b := s.box; let p := b.parse frame; let n := p.group; let j := p.seq % 4; let h := shdr (hdrAt frame ((p.kfh.getD 0) + 16) 16); let v := b.asOf (b.rxStamp f sl); let node := h.base / 2 ^ h.log; (b.sprInq (halfOf sl)).find? (fun e => e.1 == phys f sl && e.2.2 == frame) = none ∧ b.klUp f sl = true ∧ p.hasK = true ∧ p.op = opSprint ∧ b.sprRuns (halfOf sl) = true ∧ b.sprRoom (halfOf sl) = true ∧ b.rxColour f sl = some w ∧ p.udp = none ∧ n < 256 ∧ v.ownFeid p.feid = true ∧ p.ver = 1 ∧ p.kRung = 1 ∧ b.expelledSelf = false ∧ b.sprFails v (laneOf f w) frame p = none ∧ b.get .sprGrpSlotState n j = slFree ∧ halfOf (laneOf f w) = b.homeHalf n ∧ node % 2 = 1 ∧ (∀ i < 4, (b.sprSlot n i).batons = []) ∧ 1 ≤ b.get .sprGrpLines n)

/-- What clause 2 of SprintContributions (SprintPath) supposes. -/
abbrev hyps_SprintContributions_1 (s : State) (f : Fibre) (sl : Slot) (frame : List Byte) (hf : Half) (w k seq bb lg : Nat) (y : Baton)
    (t : List (Nat × Nat × Nat × Nat)) : Prop :=
  s.ok ∧ (let b := s.box; b.spr.bridge.find hf = some ((k, seq, bb, lg) :: t) ∧ b.get .sprGrpSlotState (k / 4) (k % 4) = slOpen ∧ (b.sprSlot (k / 4) (k % 4)).seq = seq ∧ (b.sprSlot (k / 4) (k % 4)).batons = [y] ∧ y.b = bb ∧ y.l = lg ∧ y.place = 1 ∧ bb % 2 = 1 ∧ b.sprHeldLines (k / 4) < b.get .sprGrpLines (k / 4))

/-- What clause 1 of SprintEvents (SprintPath) supposes. -/
abbrev hyps_SprintEvents_0 (s : State) (f : Fibre) (sl : Slot) (frame : List Byte) (n : Fin 256) (j : Fin 4) (w : Nat) : Prop :=
  s.ok ∧ (let b := s.box; let base := b.get .sprGrpBase n; b.sprVote n = false ∧ b.get .sprGrpSlotState n j = slOpen ∧ base % 4 ≠ j ∧ b.get .sprGrpSlotState n (base % 4) = slOpen ∧ calm b)

/-- What clause 2 of SprintEvents (SprintPath) supposes. -/
abbrev hyps_SprintEvents_1 (s : State) (f : Fibre) (sl : Slot) (frame : List Byte) (n : Fin 256) (j : Fin 4) (w : Nat) : Prop :=
  s.ok ∧ (let b := s.box; let p := b.parse frame; b.klUp f sl = true ∧ p.hasK = true ∧ p.op = opKeepalive ∧ b.sprRuns (halfOf sl) = true ∧ p.udp = none ∧ p.group < 256 ∧ p.ver = 1 ∧ p.kRung = 3 ∧ p.feid = 2 ^ 32 - 1)

/-- What clause 3 of SprintEvents (SprintPath) supposes. -/
abbrev hyps_SprintEvents_2 (s : State) (f : Fibre) (sl : Slot) (frame : List Byte) (n : Fin 256) (j : Fin 4) (w : Nat) : Prop :=
  s.ok ∧ (let b := s.box; b.klUp f sl = true ∧ b.sprRuns (halfOf sl) = true)

/-- What clause 4 of SprintEvents (SprintPath) supposes. -/
abbrev hyps_SprintEvents_3 (s : State) (f : Fibre) (sl : Slot) (frame : List Byte) (n : Fin 256) (j : Fin 4) (w : Nat) : Prop :=
  s.ok ∧ (let b := s.box; b.klUp f sl = true ∧ (b.lane f sl).kaNs.isSome = true ∧ b.rxColour f sl = some w)

def W (l : List (Reg × Nat × Nat × Nat × Nat)) : State := with_ r0 l
def up3 : List (Reg × Nat × Nat × Nat × Nat) := [(.prtLaneState,5,3,0,lnUp),(.prtLaneFecMode,5,3,0,1),(.prtLaneState,5,2,0,lnUp),(.prtLaneFecMode,5,2,0,1),(.fwdSvcFeidEn,0,0,0,1),(.fwdSvcFeid,0,0,0,99)]
def grp (l : List (Reg × Nat × Nat × Nat × Nat)) : List (Reg × Nat × Nat × Nat × Nat) := up3 ++ [(.sprGrpCtrl,5,0,0,1),(.sprGrpOrder,5,0,0,0x24),(.sprGrpAxI,5,0,0,5*512+16),(.sprGrpAxP,5,0,0,512+16),(.sprGrpAxG,5,0,0,16),(.sprGrpRanks,5,0,0,4),(.sprGrpNelemMax,5,0,0,8),(.sprGrpLines,5,0,0,4)] ++ l
def k0 (op g : Nat) (ru feid seq : Nat) : Nat := kfhOf ru op g seq 0 feid 15 0
def pay0 : List Byte := leBytes 4 0x3f800000 ++ leBytes 4 0x40000000
def h0 (base : Nat) : SHdr := ⟨0, base, 0, 0, 0, 8, 1, 0, 0⟩
def frm (k : Nat) (h : Nat) (pay : List Byte) : List Byte := let l := beBytes 6 5 ++ beBytes 6 6 ++ beBytes 2 (r0.box.get .fwdKfhEtype) ++ beBytes 16 k ++ beBytes 16 h ++ pay; withFcs ((l ++ List.replicate (60 - l.length) 0) ++ [0,0,0,0])
def cfr : List Byte := frm (k0 opSprint 5 1 99 1) ((h0 1).num + sprCheck (k0 opSprint 5 1 99 1) (h0 1).num pay0) pay0
def y0 : Baton := ⟨1,0,[1,2],0,0,0,1,0,0⟩
def sBr : State := on (W (grp [(.sprGrpSlotState,5,2,0,slOpen)])) (fun b => {b with spr := {b.spr with bridge := [(1,[(22,77,1,0),(5,5,5,5)])], slots := [(22, ⟨77,2,[y0]⟩)]}})
def sTo : State := on (W (grp [(.sprGrpSlotState,5,2,0,slOpen),(.sprGrpSlotState,5,0,0,slOpen)])) (fun b => {b with spr := {b.spr with slots := [(22, ⟨2,2,[y0]⟩)]}})
def sTo2 : State := on sTo (fun b => (b.setLane 5 3 (fun x => {x with merge := true, kaNs := some 0})).setLane 5 2 (fun x => {x with merge := true, kaNs := some 0}))
def ka : List Byte := frm (k0 opKeepalive 7 3 (2^32-1) 4) (3 * 2^88) []

/-- States and operands that meet the hypotheses of SprintContributions, a part of SprintPath. -/
theorem witness_SprintContributions :
    (hyps_SprintContributions_0 (W (grp [])) 5 3 cfr 0 3 0 0 0 0 y0 [])
    ∧ (hyps_SprintContributions_1 sBr 5 3 cfr 1 3 22 77 1 0 y0 [(5,5,5,5)]) := by
  refine ⟨?_, ?_⟩ <;>
    first
    | decide +kernel
    | (and_intros <;> first | decide +kernel | (refine ok_of ?_; decide +kernel) | (refine error_of ?_; decide +kernel) | (refine ok_pair ?_ rfl; decide +kernel) | rfl)

/-- States and operands that meet the hypotheses of SprintEvents, a part of SprintPath. -/
theorem witness_SprintEvents :
    (hyps_SprintEvents_0 sTo2 5 3 ka 5 2 3)
    ∧ (hyps_SprintEvents_1 sTo2 5 3 ka 5 2 3)
    ∧ (hyps_SprintEvents_2 sTo2 5 3 ka 5 2 3)
    ∧ (hyps_SprintEvents_3 sTo2 5 3 ka 5 2 3) := by
  refine ⟨?_, ?_, ?_, ?_⟩ <;>
    first
    | decide +kernel
    | (and_intros <;> first | decide +kernel | (refine ok_of ?_; decide +kernel) | (refine error_of ?_; decide +kernel) | (refine ok_pair ?_ rfl; decide +kernel) | rfl)
end P20

namespace P20b
/-- What clause 1 of Gathers (GathersAndUpdates) supposes. -/
abbrev hyps_Gathers_0 (s : State) (c : RCore) (q : Fin 8) (bad : List (BitVec 48)) (w : Work) (d : Desc) (fr : Held) (b1 b2 : Box)
    (l : List (Nat × List Machine.Num)) (seq rfeid : BitVec 32) (g : Gather) : Prop :=
  s.ok ∧ (let b := s.box; let p := b1.parse fr.bytes; let hn := kHeader fr.bytes p; let e := ehdr hn; let off := (p.kfh.getD 0) + 40; let want := e.nids * (if e.mode = 2 then 12 else 8); let pay := ((fr.bytes.take (endOf fr.bytes)).drop off).take want; let ids := (upTo (min e.nids (pay.length / 8))).map (rowId pay 8); let v := b1.asOf fr.stamp; let x := v.tbl e.table; let ent (r : Nat) : Nat := (v.embEntry e.table r).getD 0; let half := halfOfCore c; let wt (i : Nat) : Option Machine.Num := if e.mode = 2 then some (decodeNum fFp32 (leNat ((pay.drop (8 * e.nids + 4 * i)).take 4))) else none; let part (h : Nat) : Option (List Nat) := (treeFold vecAdd 9 ((l.filter (·.1 == h)).map (·.2))).map (·.map (fun z => (encodeNum fFp32 .near z).raw)); b.emb.sends = [] ∧ b.takeWork c q [opGatherReq] = some (w, b1) ∧ w.desc = some d ∧ b1.frameOf d = some fr ∧ lenFits fr.bytes off want = true ∧ off ≤ endOf fr.bytes ∧ e.check = checkOf p.k hn pay ∧ x.valid = true ∧ (∀ r ∈ ids, (v.embEntry e.table r).isSome = true ∧ b1.rowLost (ent r) (v.rowHalf e.table r) = false ∧ b1.rowUnfilled e.table (ent r) r = false) ∧ e.nelem = x.dim ∧ 1 ≤ e.nids ∧ e.nids ≤ 256 ∧ e.mode ≤ 2 ∧ rowFmt e.fmt e.mxs = true ∧ dimOk e.fmt e.mxs x.dim = true ∧ b.stamp < fr.stamp + b.get .embGatherToUs * 1000 * 65536 ∧ b1.readLeaves s.mem e.table fr.stamp (bad.map (·.toNat)) (ids.zipIdx.map (fun i => (i.2, ent i.1, i.1, wt i.2))) = (.ok l, b2) ∧ (part (1 - half)).isSome = true)

/-- What clause 2 of Gathers (GathersAndUpdates) supposes. -/
abbrev hyps_Gathers_1 (s : State) (c : RCore) (q : Fin 8) (bad : List (BitVec 48)) (w : Work) (d : Desc) (fr : Held) (b1 b2 : Box)
    (l : List (Nat × List Machine.Num)) (seq rfeid : BitVec 32) (g : Gather) : Prop :=
  s.ok ∧ (let b := s.box; b.emb.sends = [] ∧ b.emb.gathers.find? (fun z => z.seq == seq.toNat && z.rfeid == rfeid.toNat) = some g ∧ b.get .embTblGathers g.table < 2 ^ 32 - 1)

/-- What clause 3 of Gathers (GathersAndUpdates) supposes. -/
abbrev hyps_Gathers_2 (s : State) (c : RCore) (q : Fin 8) (bad : List (BitVec 48)) (w : Work) (d : Desc) (fr : Held) (b1 b2 : Box)
    (l : List (Nat × List Machine.Num)) (seq rfeid : BitVec 32) (g : Gather) : Prop :=
  s.ok ∧ (let b := s.box; b.emb.sends = [] ∧ b.emb.gathers.find? (fun z => z.seq == seq.toNat && z.rfeid == rfeid.toNat) = some g ∧ b.get .embTblGathers g.table < 2 ^ 32 - 1 ∧ b.get .embTblGatherErr g.table 6 < 2 ^ 32 - 1)

/-- What clause 1 of Updates (GathersAndUpdates) supposes. -/
abbrev hyps_Updates_0 (s : State) (c : RCore) (q : Fin 8) (w : Work) (d : Desc) (fr : Held) (b1 : Box) (x : EmbDone) (t : List EmbDone) : Prop :=
  s.ok ∧ (let b := s.box; let p := b1.parse fr.bytes; let hn := kHeader fr.bytes p; let e := ehdr hn; let tb := b1.tbl e.table; let off := (p.kfh.getD 0) + 40; let body := if e.mode = 0 then tb.dim * fmtBits e.fmt / 8 else tb.rowBytes; let len := 8 + body; let want := e.nids * len; let fits := lenFits fr.bytes off want; let pay := ((fr.bytes.take (endOf fr.bytes)).drop off).take (if fits then want else endOf fr.bytes); b.emb.sends = [] ∧ b.takeWork c q [opScatter] = some (w, b1) ∧ w.desc = some d ∧ b1.frameOf d = some fr ∧ off ≤ endOf fr.bytes ∧ e.check = checkOf p.k hn pay)

/-- What clause 2 of Updates (GathersAndUpdates) supposes. -/
abbrev hyps_Updates_1 (s : State) (c : RCore) (q : Fin 8) (w : Work) (d : Desc) (fr : Held) (b1 : Box) (x : EmbDone) (t : List EmbDone) : Prop :=
  s.ok ∧ (let b := s.box; let key := 8 * c.val + q.val; b.emb.sends = [] ∧ b.emb.comps.find key = some (x :: t))

/-- What clause 1 of TableSteps supposes. -/
abbrev hyps_TableSteps_0 (s : State) (src : Src) (t : Fin 64) (k : Fin 2) (e : Fin 65536) (h : Half) (bad : List (BitVec 48)) : Prop :=
  s.ok ∧ (let b := s.box; let st := b.tbState t; writer b src ∧ st = tbOpen)

/-- What clause 2 of TableSteps supposes. -/
abbrev hyps_TableSteps_1 (s : State) (src : Src) (t : Fin 64) (k : Fin 2) (e : Fin 65536) (h : Half) (bad : List (BitVec 48)) : Prop :=
  s.ok ∧ (let b := s.box; let st := b.tbState t; writer b src ∧ st ≠ tbOpen)

/-- What clause 3 of TableSteps supposes. -/
abbrev hyps_TableSteps_2 (s : State) (src : Src) (t : Fin 64) (k : Fin 2) (e : Fin 65536) (h : Half) (bad : List (BitVec 48)) : Prop :=
  s.ok ∧ (let b := s.box; let st := b.tbState t; st = tbClosing)

/-- What clause 4 of TableSteps supposes. -/
abbrev hyps_TableSteps_3 (s : State) (src : Src) (t : Fin 64) (k : Fin 2) (e : Fin 65536) (h : Half) (bad : List (BitVec 48)) : Prop :=
  s.ok ∧ (let b := s.box; let st := b.tbState t; writer b src ∧ st = tbFailed ∧ 16 ≤ b.get .embTblCg t)

/-- What clause 5 of TableSteps supposes. -/
abbrev hyps_TableSteps_4 (s : State) (src : Src) (t : Fin 64) (k : Fin 2) (e : Fin 65536) (h : Half) (bad : List (BitVec 48)) : Prop :=
  s.ok ∧ (let b := s.box; let st := b.tbState t; writer b src ∧ st ≠ tbFailed)

/-- What clause 6 of TableSteps supposes. -/
abbrev hyps_TableSteps_5 (s : State) (src : Src) (t : Fin 64) (k : Fin 2) (e : Fin 65536) (h : Half) (bad : List (BitVec 48)) : Prop :=
  s.ok ∧ (let b := s.box; let st := b.tbState t; st = tbDiscarding)

/-- What clause 7 of TableSteps supposes. -/
abbrev hyps_TableSteps_6 (s : State) (src : Src) (t : Fin 64) (k : Fin 2) (e : Fin 65536) (h : Half) (bad : List (BitVec 48)) : Prop :=
  s.ok ∧ (let b := s.box; b.bkState t k = bkCommitted)

/-- What clause 8 of TableSteps supposes. -/
abbrev hyps_TableSteps_7 (s : State) (src : Src) (t : Fin 64) (k : Fin 2) (e : Fin 65536) (h : Half) (bad : List (BitVec 48)) : Prop :=
  s.ok ∧ (let b := s.box; b.bkState t k = bkFolding)

/-- What clause 9 of TableSteps supposes. -/
abbrev hyps_TableSteps_8 (s : State) (src : Src) (t : Fin 64) (k : Fin 2) (e : Fin 65536) (h : Half) (bad : List (BitVec 48)) : Prop :=
  s.ok ∧ (let b := s.box; let st := b.tbState t; b.bkState t k = bkDraining ∧ st ≠ tbWait)

/-- What clause 10 of TableSteps supposes. -/
abbrev hyps_TableSteps_9 (s : State) (src : Src) (t : Fin 64) (k : Fin 2) (e : Fin 65536) (h : Half) (bad : List (BitVec 48)) : Prop :=
  s.ok ∧ (let b := s.box; b.get .embMapCtrl e % 4 = 3 ∧ b.get .embMapFilled e h < b.rowCount e)

def W (l : List (Reg × Nat × Nat × Nat × Nat)) : State := with_ r0 l
def T (l : List (Reg × Nat × Nat × Nat × Nat)) : State := W ([(.embTblCtrl,3,0,0,1),(.embTblFmt,3,0,0,0),(.embTblDim,3,0,0,4),(.embTblHalfBit,3,0,0,0),(.embMapCtrl,0,0,0,1),(.embMapTable,0,0,0,3),(.embMapRowLo,0,0,0,0),(.embMapRowHi,0,0,0,8),(.memState,0,0,0,3),(.memState,1,0,0,3),(.rlyState,3,0,0,coreRun),(.embTblState,3,0,0,tbOpen),(.embTblStep,3,0,0,7)] ++ l)
def filled (l : List (Reg × Nat × Nat × Nat × Nat)) : State :=
  let s := with_ (T l) [(.embMapCtrl,0,0,0,3)]
  let s := match execFillDone 0 0 s with | .next u => (match execFillDone 0 1 u with | .next v => v | _ => s) | _ => s
  with_ s [(.embMapCtrl,0,0,0,1)]
def kfr (k hdr : Nat) (pay : List Byte) : List Byte := withFcs (beBytes 6 5 ++ beBytes 6 6 ++ beBytes 2 (r0.box.get .fwdKfhEtype) ++ beBytes 16 k ++ beBytes 24 hdr ++ pay ++ [0,0,0,0])
def frB (bs : List Byte) (lane r : Nat) : Held := ⟨bs, 0, r, 0, lane, 0, 0, 0, []⟩
def k0 (op : Nat) : Nat := kfhOf 1 op 0 3 0 99 15 0
def eh (mode nids step : Nat) : EHdr := ⟨3, mode, 0, false, 0, 0, 4, nids, 0, 55, step, 0⟩
def mkE (op : Nat) (h : EHdr) (pay : List Byte) : Held := frB (kfr (k0 op) (h.num + checkOf (k0 op) h.num pay) pay) 43 1
def withWork (s : State) (c : Nat) (op : Nat) (fr : Held) : State := on (holding s 1 fr) (fun b => b.setWq c 2 [⟨op * 2^508 + 2 * 2^499, some (desc0 1 fr)⟩])
def gpay : List Byte := beBytes 8 1 ++ beBytes 8 2
def leavesOf (b1 : Box) (m : Mem) (fr : Held) (bad : List (BitVec 48)) : Except Nat (List (Nat × List Machine.Num)) × Box :=
  let p := b1.parse fr.bytes
  let e := ehdr (kHeader fr.bytes p)
  let v := b1.asOf fr.stamp
  let off := (p.kfh.getD 0) + 40
  let want := e.nids * (if e.mode = 2 then 12 else 8)
  let pay := ((fr.bytes.take (endOf fr.bytes)).drop off).take want
  let ids := (upTo (min e.nids (pay.length / 8))).map (rowId pay 8)
  let wt (i : Nat) : Option Machine.Num := if e.mode = 2 then some (decodeNum fFp32 (leNat ((pay.drop (8 * e.nids + 4 * i)).take 4))) else none
  b1.readLeaves m e.table fr.stamp (bad.map (fun (z : BitVec 48) => z.toNat)) (ids.zipIdx.map (fun (i : Nat × Nat) => (i.2, (v.embEntry e.table i.1).getD 0, i.1, wt i.2)))
abbrev runG (k : State → RCore → (Fin 8) → (List (BitVec 48)) → Work → Desc → Held → Box → Box → (List (Nat × List Machine.Num)) → (BitVec 32) → (BitVec 32) → Gather → Prop) (s : State) (c : RCore) (fr : Held) (bad : List (BitVec 48)) (g : Gather) (mode : Nat) :=
  let q := (s.box.takeWork c 2 [opGatherReq]).getD (⟨0,none⟩, s.box)
  let z := leavesOf q.2 s.mem fr bad
  k s c 2 bad q.1 (desc0 1 fr) fr q.2 z.2 (z.1.toOption.getD []) 3 55 g
def g0 : Gather := ⟨0,3,55,3,0,0,false,0,2,0,some [0,0,0,0],some [0x3f800000,0,0,0]⟩
def gf := mkE opGatherReq (eh 0 2 0) gpay
def gf1 := mkE opGatherReq (eh 2 1 0) (beBytes 8 1 ++ leBytes 4 0x3f800000)
abbrev runU (k : State → RCore → (Fin 8) → Work → Desc → Held → Box → EmbDone → (List EmbDone) → Prop) (s : State) (c : RCore) (fr : Held) (x : EmbDone) (t : List EmbDone) :=
  let q := (s.box.takeWork c 2 [opScatter]).getD (⟨0,none⟩, s.box)
  k s c 2 q.1 (desc0 1 fr) fr q.2 x t
def row (r : Nat) : List Byte := beBytes 8 r ++ leBytes 16 (0x3f800000 + 2^32*0x40000000)
def uf (mode step : Nat) := mkE opScatter (eh mode 2 step) (row 1 ++ row 2)
def d0 : EmbDone := ⟨0,55,3,0,3,2,7⟩
def st0 (row bank : Nat) : Staged := ⟨3, bank, row, row % 2, [2^32, 0, 0, 0], none, none⟩
def TS (st : Nat) (l : List (Reg × Nat × Nat × Nat × Nat)) : State := on (with_ (filled l) ([(.embTblState,3,0,0,st)] ++ l)) (fun b => {b with emb := {b.emb with staged := [st0 1 1, st0 2 1, st0 2 0, {st0 2 0 with table := 4}]}})
def bk (k st : Nat) : List (Reg × Nat × Nat × Nat × Nat) := [(.embTblBankState,3,k,0,st)]
def sg := withWork (filled []) 3 opGatherReq gf

/-- States and operands that meet the hypotheses of Gathers, a part of GathersAndUpdates. -/
theorem witness_Gathers :
    (runG hyps_Gathers_1 (on (filled []) (fun b => {b with emb := {b.emb with gathers := [{g0 with seq:=9},g0,g0]}})) 3 gf1 [] g0 0)
    ∧ (runG hyps_Gathers_2 (on (filled []) (fun b => {b with emb := {b.emb with gathers := [{g0 with seq:=9},g0,g0]}})) 3 gf1 [] g0 0)
    ∧ (runG hyps_Gathers_0 (withWork (filled []) 3 opGatherReq gf) 3 gf [] g0 0) := by
  refine ⟨?_, ?_, ?_⟩ <;>
    first
    | decide +kernel
    | (and_intros <;> first | decide +kernel | (refine ok_of ?_; decide +kernel) | (refine error_of ?_; decide +kernel) | (refine ok_pair ?_ rfl; decide +kernel) | rfl)

/-- States and operands that meet the hypotheses of Updates, a part of GathersAndUpdates. -/
theorem witness_Updates :
    (runU hyps_Updates_0 (withWork (filled []) 3 opScatter (uf 0 7)) 3 (uf 0 7) d0 [])
    ∧ (runU hyps_Updates_1 (on (filled []) (fun b => {b with emb := {b.emb with comps := [(26,[d0,{d0 with seq:=4}])]}})) 3 (uf 1 6) d0 [{d0 with seq:=4}]) := by
  refine ⟨?_, ?_⟩ <;>
    first
    | decide +kernel
    | (and_intros <;> first | decide +kernel | (refine ok_of ?_; decide +kernel) | (refine error_of ?_; decide +kernel) | (refine ok_pair ?_ rfl; decide +kernel) | rfl)

/-- States and operands that meet the hypotheses of TableSteps. -/
theorem witness_TableSteps :
    (hyps_TableSteps_0 (TS tbOpen (bk 0 bkFolding)) 0 3 0 0 0 [])
    ∧ (hyps_TableSteps_4 (TS tbOpen (bk 0 bkFolding)) 0 3 0 0 0 [])
    ∧ (hyps_TableSteps_7 (TS tbOpen (bk 0 bkFolding)) 0 3 0 0 0 [])
    ∧ (hyps_TableSteps_1 (TS tbClosing (bk 1 bkStaging)) 0 3 1 0 0 [])
    ∧ (hyps_TableSteps_2 (TS tbClosing (bk 1 bkStaging)) 0 3 1 0 0 [])
    ∧ (hyps_TableSteps_8 (TS tbOpen (bk 0 bkDraining)) 0 3 0 0 0 [])
    ∧ (hyps_TableSteps_6 (TS tbOpen (bk 0 bkCommitted)) 0 3 0 0 0 [])
    ∧ (hyps_TableSteps_5 (TS tbDiscarding (bk 1 bkDiscarding)) 0 3 1 0 0 [])
    ∧ (hyps_TableSteps_9 (with_ (T []) [(.embMapCtrl,0,0,0,3)]) 0 3 0 0 1 [])
    ∧ (hyps_TableSteps_3 (TS tbFailed (bk 1 bkStaging ++ [(.embTblCg,3,0,0,16)])) 0 3 1 0 0 []) := by
  refine ⟨?_, ?_, ?_, ?_, ?_, ?_, ?_, ?_, ?_, ?_⟩ <;>
    first
    | decide +kernel
    | (and_intros <;> first | decide +kernel | (refine ok_of ?_; decide +kernel) | (refine error_of ?_; decide +kernel) | (refine ok_pair ?_ rfl; decide +kernel) | rfl)
end P20b

namespace P21
/-- What clause 1 of ResetCommands supposes. -/
abbrev hyps_ResetCommands_0 (s : State) (src : Src) (h : Half) (f : Fibre) (sl : Slot) (r : ResetSt) : Prop :=
  s.ok ∧ (let b := s.box; (src.toNat = 0 ∨ src.toNat = 5 ∨ b.isAgent src.toNat = true) ∧ b.mar.resets = [])

/-- What clause 2 of ResetCommands supposes. -/
abbrev hyps_ResetCommands_1 (s : State) (src : Src) (h : Half) (f : Fibre) (sl : Slot) (r : ResetSt) : Prop :=
  s.ok ∧ (let b := s.box; (src.toNat = 0 ∨ src.toNat = 5 ∨ b.isAgent src.toNat = true) ∧ b.mar.resets = [r] ∧ (r.domain = 6 ∨ r.domain = 7))

/-- What clause 1 of ColdReset supposes. -/
abbrev hyps_ColdReset_0 (s : State) : Prop :=
  s.ok ∧ (let b := s.box; b.sec.ops = [] ∧ b.sec.boardNext = none ∧ b.sec.mfrNext = none)

/-- What clause 2 of ColdReset supposes. -/
abbrev hyps_ColdReset_1 (s : State) : Prop :=
  s.ok ∧ (let b := s.box; b.sec.ops = [] ∧ b.sec.boardNext = none ∧ b.sec.mfrNext = none)

/-- What clause 1 of RailsAndInput (PowerStatesAndRails) supposes. -/
abbrev hyps_RailsAndInput_0 (s : State) (h : Half) (k : Fin 11) (vs : List (BitVec 16)) : Prop :=
  s.ok ∧ (let b := s.box; let key := railKey h k; key ∈ b.pwr.on)

/-- What clause 2 of RailsAndInput (PowerStatesAndRails) supposes. -/
abbrev hyps_RailsAndInput_1 (s : State) (h : Half) (k : Fin 11) (vs : List (BitVec 16)) : Prop :=
  s.ok ∧ (let b := s.box; let key := railKey h k; key ∉ b.pwr.on)

/-- What clause 3 of RailsAndInput (PowerStatesAndRails) supposes. -/
abbrev hyps_RailsAndInput_2 (s : State) (h : Half) (k : Fin 11) (vs : List (BitVec 16)) : Prop :=
  s.ok ∧ (let b := s.box; k ≠ 0 ∧ k ≠ 9 ∧ b.pwr.forces = [] ∧ b.pwr.requested ≠ 4)

/-- What clause 4 of RailsAndInput (PowerStatesAndRails) supposes. -/
abbrev hyps_RailsAndInput_3 (s : State) (h : Half) (k : Fin 11) (vs : List (BitVec 16)) : Prop :=
  s.ok

/-- What clause 5 of RailsAndInput (PowerStatesAndRails) supposes. -/
abbrev hyps_RailsAndInput_4 (s : State) (h : Half) (k : Fin 11) (vs : List (BitVec 16)) : Prop :=
  s.ok ∧ (let b := s.box; b.pwr.shed = true ∧ b.pwr.flushed = false ∧ b.sec.ops = [])

/-- What clause 6 of RailsAndInput (PowerStatesAndRails) supposes. -/
abbrev hyps_RailsAndInput_5 (s : State) (h : Half) (k : Fin 11) (vs : List (BitVec 16)) : Prop :=
  s.ok ∧ (let b := s.box; b.sec.ops = [])

/-- What clause 7 of RailsAndInput (PowerStatesAndRails) supposes. -/
abbrev hyps_RailsAndInput_6 (s : State) (h : Half) (k : Fin 11) (vs : List (BitVec 16)) : Prop :=
  s.ok ∧ (let b := s.box; (b.pwr.vaonOff = true ∨ b.pwr.shed = true))

/-- What clause 8 of RailsAndInput (PowerStatesAndRails) supposes. -/
abbrev hyps_RailsAndInput_7 (s : State) (h : Half) (k : Fin 11) (vs : List (BitVec 16)) : Prop :=
  s.ok ∧ (let b := s.box; b.pwr.vaonOff = false ∧ b.pwr.shed = false)

/-- What clause 1 of PowerControl (PowerStatesAndRails) supposes. -/
abbrev hyps_PowerControl_0 (s : State) (src : Src) (v : BitVec 3) (v1 : BitVec 1) (h : Half) (r : Fin 64) (tj : BitVec 12) (d : Fin 4) (b1 : Box) : Prop :=
  s.ok ∧ (let b := s.box; let lap := b.get .pwrPsLap; writer b src ∧ v.toNat < 2 ∧ b.lap + 3 ≤ lap ∧ b.bit .pwrPsState 3 = false ∧ b.pwr.armed = none ∧ b.calArm lap 7 (b.acting 4) = some b1)

/-- What clause 2 of PowerControl (PowerStatesAndRails) supposes. -/
abbrev hyps_PowerControl_1 (s : State) (src : Src) (v : BitVec 3) (v1 : BitVec 1) (h : Half) (r : Fin 64) (tj : BitVec 12) (d : Fin 4) (b1 : Box) : Prop :=
  s.ok ∧ (let b := s.box; let lap := b.get .pwrPsLap; writer b src ∧ lap < b.lap + 3)

/-- What clause 3 of PowerControl (PowerStatesAndRails) supposes. -/
abbrev hyps_PowerControl_2 (s : State) (src : Src) (v : BitVec 3) (v1 : BitVec 1) (h : Half) (r : Fin 64) (tj : BitVec 12) (d : Fin 4) (b1 : Box) : Prop :=
  s.ok

/-- What clause 4 of PowerControl (PowerStatesAndRails) supposes. -/
abbrev hyps_PowerControl_3 (s : State) (src : Src) (v : BitVec 3) (v1 : BitVec 1) (h : Half) (r : Fin 64) (tj : BitVec 12) (d : Fin 4) (b1 : Box) : Prop :=
  s.ok

/-- What clause 5 of PowerControl (PowerStatesAndRails) supposes. -/
abbrev hyps_PowerControl_4 (s : State) (src : Src) (v : BitVec 3) (v1 : BitVec 1) (h : Half) (r : Fin 64) (tj : BitVec 12) (d : Fin 4) (b1 : Box) : Prop :=
  s.ok

/-- What clause 6 of PowerControl (PowerStatesAndRails) supposes. -/
abbrev hyps_PowerControl_5 (s : State) (src : Src) (v : BitVec 3) (v1 : BitVec 1) (h : Half) (r : Fin 64) (tj : BitVec 12) (d : Fin 4) (b1 : Box) : Prop :=
  s.ok ∧ (let b := s.box; writer b src)

/-- What clause 7 of PowerControl (PowerStatesAndRails) supposes. -/
abbrev hyps_PowerControl_6 (s : State) (src : Src) (v : BitVec 3) (v1 : BitVec 1) (h : Half) (r : Fin 64) (tj : BitVec 12) (d : Fin 4) (b1 : Box) : Prop :=
  s.ok

/-- What clause 8 of PowerControl (PowerStatesAndRails) supposes. -/
abbrev hyps_PowerControl_7 (s : State) (src : Src) (v : BitVec 3) (v1 : BitVec 1) (h : Half) (r : Fin 64) (tj : BitVec 12) (d : Fin 4) (b1 : Box) : Prop :=
  s.ok ∧ (let b := s.box; b.pwr.halved.count d.val = 1)

/-- What clause 1 of EmergenciesAndGuard supposes. -/
abbrev hyps_EmergenciesAndGuard_0 (s : State) (src : Src) (h : Half) (r : Fin 64) (cause : Fin 8) (w : BitVec 16) (tj : BitVec 12) (ev : BitVec 11) : Prop :=
  s.ok ∧ (let b := s.box; b.emergHolds h cause ≠ some false)

/-- What clause 2 of EmergenciesAndGuard supposes. -/
abbrev hyps_EmergenciesAndGuard_1 (s : State) (src : Src) (h : Half) (r : Fin 64) (cause : Fin 8) (w : BitVec 16) (tj : BitVec 12) (ev : BitVec 11) : Prop :=
  s.ok ∧ (let b := s.box; b.emergHolds h cause ≠ some true)

/-- What clause 3 of EmergenciesAndGuard supposes. -/
abbrev hyps_EmergenciesAndGuard_2 (s : State) (src : Src) (h : Half) (r : Fin 64) (cause : Fin 8) (w : BitVec 16) (tj : BitVec 12) (ev : BitVec 11) : Prop :=
  s.ok ∧ (let b := s.box; let calmPs : Prop := b.pwr.forces = [] ∧ b.pwr.requested ≠ 4; b.bit .fwmEmerg 1 = true ∧ 16 ≤ b.get .pwrEmergSrc 0 ∧ b.get .pwrDieCeilMhz 0 = 500 ∧ calmPs)

/-- What clause 4 of EmergenciesAndGuard supposes. -/
abbrev hyps_EmergenciesAndGuard_3 (s : State) (src : Src) (h : Half) (r : Fin 64) (cause : Fin 8) (w : BitVec 16) (tj : BitVec 12) (ev : BitVec 11) : Prop :=
  s.ok ∧ (let b := s.box; let above : Prop := b.powerOver w.toNat = true; above)

/-- What clause 5 of EmergenciesAndGuard supposes. -/
abbrev hyps_EmergenciesAndGuard_4 (s : State) (src : Src) (h : Half) (r : Fin 64) (cause : Fin 8) (w : BitVec 16) (tj : BitVec 12) (ev : BitVec 11) : Prop :=
  s.ok ∧ (let b := s.box; let above : Prop := b.powerOver w.toNat = true; let calmPs : Prop := b.pwr.forces = [] ∧ b.pwr.requested ≠ 4; above ∧ b.pwr.guardLim = true ∧ calmPs)

/-- What clause 6 of EmergenciesAndGuard supposes. -/
abbrev hyps_EmergenciesAndGuard_5 (s : State) (src : Src) (h : Half) (r : Fin 64) (cause : Fin 8) (w : BitVec 16) (tj : BitVec 12) (ev : BitVec 11) : Prop :=
  s.ok ∧ (let b := s.box; let calmPs : Prop := b.pwr.forces = [] ∧ b.pwr.requested ≠ 4; b.get .grdEnvTripC * 16 ≤ tj.toNat ∧ b.pwr.tripped = [] ∧ calmPs)

/-- What clause 7 of EmergenciesAndGuard supposes. -/
abbrev hyps_EmergenciesAndGuard_6 (s : State) (src : Src) (h : Half) (r : Fin 64) (cause : Fin 8) (w : BitVec 16) (tj : BitVec 12) (ev : BitVec 11) : Prop :=
  s.ok ∧ (let b := s.box; b.pwr.tripped.length = 2)

/-- What clause 8 of EmergenciesAndGuard supposes. -/
abbrev hyps_EmergenciesAndGuard_7 (s : State) (src : Src) (h : Half) (r : Fin 64) (cause : Fin 8) (w : BitVec 16) (tj : BitVec 12) (ev : BitVec 11) : Prop :=
  s.ok ∧ (src.toNat = 0 ∨ src.toNat = 5) ∧ ev.toNat % 2 = 0 ∧ bitAt ev.toNat 4 = false

/-- What clause 9 of EmergenciesAndGuard supposes. -/
abbrev hyps_EmergenciesAndGuard_8 (s : State) (src : Src) (h : Half) (r : Fin 64) (cause : Fin 8) (w : BitVec 16) (tj : BitVec 12) (ev : BitVec 11) : Prop :=
  s.ok ∧ (let b := s.box; writer b src ∧ src.toNat ≠ 0 ∧ src.toNat ≠ 5)

def W (l : List (Reg × Nat × Nat × Nat × Nat)) : State := with_ r0 l
def bytes0 : List Byte := (List.range 70).map (fun n => BitVec.ofNat 8 n)
def frE : Held := ⟨bytes0, 0, 1, 0, 1024, 0, 0, 0, [43]⟩
def busy (l : List (Reg × Nat × Nat × Nat × Nat)) : State :=
  let s := on (holding (W ([(.prtLaneState,5,3,0,lnUp),(.bufEqDepth,43,1,0,1),(.fwmCoreState,0,0,0,2),(.fwmCoreState,5,0,0,2),(.fwmCoreState,4,0,0,2),(.fwmCoreState,9,0,0,2),(.memState,0,0,0,3),(.memState,1,0,0,3),(.lckRingState,5,3,0,2),(.colGrpSlotState,5,3,0,1),(.timCgState,2,0,0,1)] ++ l)) 1 frE) (fun b => (b.setEq 43 1 [desc0 1 frE]).setThr 0 (fun t => {t with x := [(1,2)], out := [⟨.load 8, 3, [136], 0, 0, false, false⟩]}))
  { on s (fun b => {b with rly := {b.rly with wq := [(5,[⟨3,none⟩])], heldWork := [(6,[⟨3,none⟩])]}, now := 777*2^40, lanes := [(53,{fails:=1})], pwr := {b.pwr with on := railsOf 0 [0,1,2,3,4,5,6,7,8,9,10] ++ railsOf 1 [0,1,2,3,4,5,6,7,8,9,10] ++ railsOf 0 [2], good := railsOf 0 [0,1,2]}, sec := {b.sec with flash := [(5,9),(0x100,7)]}, col := {b.col with slots := [(43,{seq:=3,nchunk:=2,chunks:=[(1,{nelem:=4})]})]}}) with mem := Memory.store (Memory.store [] 128 [1,2,3,4]) (lpddrAddr + 5) [7,8], pending := [.comparePassEnd 1 1 1] }
def rs0 : ResetSt := ⟨6,0,1,0,0,[]⟩
def capC (s : State) := (s.box.calArm (s.box.get .pwrPsLap) 7 (s.box.acting 4)).getD s.box

/-- States and operands that meet the hypotheses of ResetCommands. -/
theorem witness_ResetCommands :
    (hyps_ResetCommands_0 (busy []) 0 1 5 3 rs0)
    ∧ (hyps_ResetCommands_1 (on (busy []) (fun b => {b with mar := {b.mar with resets := [rs0]}})) 0 1 5 3 rs0) := by
  refine ⟨?_, ?_⟩ <;>
    first
    | decide +kernel
    | (and_intros <;> first | decide +kernel | (refine ok_of ?_; decide +kernel) | (refine error_of ?_; decide +kernel) | (refine ok_pair ?_ rfl; decide +kernel) | rfl)

/-- States and operands that meet the hypotheses of ColdReset. -/
theorem witness_ColdReset :
    (hyps_ColdReset_0 (busy []))
    ∧ (hyps_ColdReset_1 (busy [])) := by
  refine ⟨?_, ?_⟩ <;>
    first
    | decide +kernel
    | (and_intros <;> first | decide +kernel | (refine ok_of ?_; decide +kernel) | (refine error_of ?_; decide +kernel) | (refine ok_pair ?_ rfl; decide +kernel) | rfl)

/-- States and operands that meet the hypotheses of RailsAndInput, a part of PowerStatesAndRails. -/
theorem witness_RailsAndInput :
    (hyps_RailsAndInput_0 (on (busy []) (fun b => {b with pwr := {b.pwr with shed := true}})) 1 10 [])
    ∧ (hyps_RailsAndInput_2 (on (busy []) (fun b => {b with pwr := {b.pwr with shed := true}})) 1 10 [])
    ∧ (hyps_RailsAndInput_3 (on (busy []) (fun b => {b with pwr := {b.pwr with shed := true}})) 1 10 [])
    ∧ (hyps_RailsAndInput_4 (on (busy []) (fun b => {b with pwr := {b.pwr with shed := true}})) 1 10 [])
    ∧ (hyps_RailsAndInput_5 (on (busy []) (fun b => {b with pwr := {b.pwr with shed := true}})) 1 10 [])
    ∧ (hyps_RailsAndInput_6 (on (busy []) (fun b => {b with pwr := {b.pwr with shed := true}})) 1 10 [])
    ∧ (hyps_RailsAndInput_7 (busy []) 0 2 [5,6])
    ∧ (hyps_RailsAndInput_1 (on (busy []) (fun b => {b with pwr := {b.pwr with on := [], shed := true}})) 1 2 [5,6]) := by
  refine ⟨?_, ?_, ?_, ?_, ?_, ?_, ?_, ?_⟩ <;>
    first
    | decide +kernel
    | (and_intros <;> first | decide +kernel | (refine ok_of ?_; decide +kernel) | (refine error_of ?_; decide +kernel) | (refine ok_pair ?_ rfl; decide +kernel) | rfl)

/-- States and operands that meet the hypotheses of PowerControl, a part of PowerStatesAndRails. -/
theorem witness_PowerControl :
    (let s := on (busy [(.pwrPsLap,0,0,0,2)]) (fun b => {b with pwr := {b.pwr with halved := [2,3], ffLim := [(2,600)],ramp := [(2,0)]}}); hyps_PowerControl_1 s 0 1 1 0 3 2100 2 (capC s))
    ∧ (let s := on (busy [(.pwrPsLap,0,0,0,2)]) (fun b => {b with pwr := {b.pwr with halved := [2,3], ffLim := [(2,600)],ramp := [(2,0)]}}); hyps_PowerControl_2 s 0 1 1 0 3 2100 2 (capC s))
    ∧ (let s := on (busy [(.pwrPsLap,0,0,0,2)]) (fun b => {b with pwr := {b.pwr with halved := [2,3], ffLim := [(2,600)],ramp := [(2,0)]}}); hyps_PowerControl_3 s 0 1 1 0 3 2100 2 (capC s))
    ∧ (let s := on (busy [(.pwrPsLap,0,0,0,2)]) (fun b => {b with pwr := {b.pwr with halved := [2,3], ffLim := [(2,600)],ramp := [(2,0)]}}); hyps_PowerControl_4 s 0 1 1 0 3 2100 2 (capC s))
    ∧ (let s := on (busy [(.pwrPsLap,0,0,0,2)]) (fun b => {b with pwr := {b.pwr with halved := [2,3], ffLim := [(2,600)],ramp := [(2,0)]}}); hyps_PowerControl_5 s 0 1 1 0 3 2100 2 (capC s))
    ∧ (let s := on (busy [(.pwrPsLap,0,0,0,2)]) (fun b => {b with pwr := {b.pwr with halved := [2,3], ffLim := [(2,600)],ramp := [(2,0)]}}); hyps_PowerControl_6 s 0 1 1 0 3 2100 2 (capC s))
    ∧ (let s := on (busy [(.pwrPsLap,0,0,0,2)]) (fun b => {b with pwr := {b.pwr with halved := [2,3], ffLim := [(2,600)],ramp := [(2,0)]}}); hyps_PowerControl_7 s 0 1 1 0 3 2100 2 (capC s))
    ∧ (let s := busy [(.pwrPsLap,0,0,0,3)]; hyps_PowerControl_0 s 0 1 0 1 3 900 2 (capC s)) := by
  refine ⟨?_, ?_, ?_, ?_, ?_, ?_, ?_, ?_⟩ <;>
    first
    | decide +kernel
    | (and_intros <;> first | decide +kernel | (refine ok_of ?_; decide +kernel) | (refine error_of ?_; decide +kernel) | (refine ok_pair ?_ rfl; decide +kernel) | rfl)

/-- States and operands that meet the hypotheses of EmergenciesAndGuard. -/
theorem witness_EmergenciesAndGuard :
    (hyps_EmergenciesAndGuard_1 (on (busy [(.fwmEmerg,0,0,0,2),(.pwrEmergSrc,0,0,0,16),(.pwrDieCeilMhz,0,0,0,500)]) (fun b => {b with pwr := {b.pwr with guardLim := true}})) 2 0 3 1 60000 4095 4)
    ∧ (hyps_EmergenciesAndGuard_2 (on (busy [(.fwmEmerg,0,0,0,2),(.pwrEmergSrc,0,0,0,16),(.pwrDieCeilMhz,0,0,0,500)]) (fun b => {b with pwr := {b.pwr with guardLim := true}})) 2 0 3 1 60000 4095 4)
    ∧ (hyps_EmergenciesAndGuard_3 (on (busy [(.fwmEmerg,0,0,0,2),(.pwrEmergSrc,0,0,0,16),(.pwrDieCeilMhz,0,0,0,500)]) (fun b => {b with pwr := {b.pwr with guardLim := true}})) 2 0 3 1 60000 4095 4)
    ∧ (hyps_EmergenciesAndGuard_4 (on (busy [(.fwmEmerg,0,0,0,2),(.pwrEmergSrc,0,0,0,16),(.pwrDieCeilMhz,0,0,0,500)]) (fun b => {b with pwr := {b.pwr with guardLim := true}})) 2 0 3 1 60000 4095 4)
    ∧ (hyps_EmergenciesAndGuard_5 (on (busy [(.fwmEmerg,0,0,0,2),(.pwrEmergSrc,0,0,0,16),(.pwrDieCeilMhz,0,0,0,500)]) (fun b => {b with pwr := {b.pwr with guardLim := true}})) 2 0 3 1 60000 4095 4)
    ∧ (hyps_EmergenciesAndGuard_8 (on (busy [(.fwmEmerg,0,0,0,2),(.pwrEmergSrc,0,0,0,16),(.pwrDieCeilMhz,0,0,0,500)]) (fun b => {b with pwr := {b.pwr with guardLim := true}})) 2 0 3 1 60000 4095 4)
    ∧ (hyps_EmergenciesAndGuard_0 (busy []) 0 1 3 (Fin.ofNat 8 0) 5000 3000 4)
    ∧ (hyps_EmergenciesAndGuard_7 (busy []) 0 1 3 (Fin.ofNat 8 0) 5000 3000 4)
    ∧ (hyps_EmergenciesAndGuard_6 (on (busy [(.fwmEmerg,0,0,0,2),(.pwrEmergSrc,0,0,0,16),(.pwrDieCeilMhz,0,0,0,500)]) (fun b => {b with pwr := {b.pwr with guardLim := true, tripped := [1,0]}})) 0 0 3 1 60000 4095 6) := by
  refine ⟨?_, ?_, ?_, ?_, ?_, ?_, ?_, ?_, ?_⟩ <;>
    first
    | decide +kernel
    | (and_intros <;> first | decide +kernel | (refine ok_of ?_; decide +kernel) | (refine error_of ?_; decide +kernel) | (refine ok_pair ?_ rfl; decide +kernel) | rfl)
end P21

namespace P22
/-- What clause 1 of DieLinkFlits supposes. -/
abbrev hyps_DieLinkFlits_0 (s : State) (h : Half) (x : Colour) (flit : BitVec 768) (seq : BitVec 10) (pos : Fin 51) (n p : Nat) (r : Remap) : Prop :=
  s.ok ∧ (let b := s.box; let f := flit.toNat; let c := b.bund h x; let crcGood : Prop := crc32c (beBytes 92 (f / 2 ^ 32)) = f % 2 ^ 32; b.buLive h x = true ∧ crcGood ∧ bits f 767 764 ≠ 0 ∧ bits f 767 764 ≠ 3 ∧ bits f 761 752 = c.rxExp ∧ c.failed = none)

/-- What clause 2 of DieLinkFlits supposes. -/
abbrev hyps_DieLinkFlits_1 (s : State) (h : Half) (x : Colour) (flit : BitVec 768) (seq : BitVec 10) (pos : Fin 51) (n p : Nat) (r : Remap) : Prop :=
  s.ok ∧ (let b := s.box; let f := flit.toNat; let c := b.bund h x; let crcGood : Prop := crc32c (beBytes 92 (f / 2 ^ 32)) = f % 2 ^ 32; b.buLive h x = true ∧ ¬crcGood ∧ c.rxWait = false)

/-- What clause 3 of DieLinkFlits supposes. -/
abbrev hyps_DieLinkFlits_2 (s : State) (h : Half) (x : Colour) (flit : BitVec 768) (seq : BitVec 10) (pos : Fin 51) (n p : Nat) (r : Remap) : Prop :=
  s.ok ∧ (let b := s.box; let c := b.bund h x; b.buLive h x = true ∧ c.stuck < b.get .ddlRplMax)

/-- What clause 4 of DieLinkFlits supposes. -/
abbrev hyps_DieLinkFlits_3 (s : State) (h : Half) (x : Colour) (flit : BitVec 768) (seq : BitVec 10) (pos : Fin 51) (n p : Nat) (r : Remap) : Prop :=
  s.ok ∧ (let b := s.box; b.get .ddlBState h x = buActive ∧ b.carries h x pos = some n ∧ b.ddl.remaps = [] ∧ b.spareFree h x = some p)

/-- What clause 5 of DieLinkFlits supposes. -/
abbrev hyps_DieLinkFlits_4 (s : State) (h : Half) (x : Colour) (flit : BitVec 768) (seq : BitVec 10) (pos : Fin 51) (n p : Nat) (r : Remap) : Prop :=
  s.ok ∧ (let b := s.box; b.ddl.remaps.find? (fun y => y.b == x.val) = some r ∧ r.half < 2 ∧ r.spare < 51)

/-- What clause 6 of DieLinkFlits supposes. -/
abbrev hyps_DieLinkFlits_5 (s : State) (h : Half) (x : Colour) (flit : BitVec 768) (seq : BitVec 10) (pos : Fin 51) (n p : Nat) (r : Remap) : Prop :=
  s.ok ∧ (let b := s.box; let bad (k : Nat) : Prop := b.get .ddlRetirePpm * (b.bund k x).winFlits < (b.bund k x).winFails * 1000000; ¬bad 0 ∧ ¬bad 1 ∧ 0 < b.get .ddlRetireWin)

/-- What clause 7 of DieLinkFlits supposes. -/
abbrev hyps_DieLinkFlits_6 (s : State) (h : Half) (x : Colour) (flit : BitVec 768) (seq : BitVec 10) (pos : Fin 51) (n p : Nat) (r : Remap) : Prop :=
  s.ok ∧ (let b := s.box; let lit : Prop := b.darkHalf 0 = false ∧ b.darkHalf 1 = false; let bad (k : Nat) : Prop := b.get .ddlRetirePpm * (b.bund k x).winFlits < (b.bund k x).winFails * 1000000; (bad 0 ∨ bad 1) ∧ b.get .ddlRetireWin ≤ (b.bund 0 x).badWin + 1 ∧ b.buLive 0 x = true ∧ lit ∧ b.get .ddlWidthState = wsActive)

/-- What clause 8 of DieLinkFlits supposes. -/
abbrev hyps_DieLinkFlits_7 (s : State) (h : Half) (x : Colour) (flit : BitVec 768) (seq : BitVec 10) (pos : Fin 51) (n p : Nat) (r : Remap) : Prop :=
  s.ok ∧ (let b := s.box; let lit : Prop := b.darkHalf 0 = false ∧ b.darkHalf 1 = false; b.buLive 0 x = true ∧ (b.bund 0 x).leaving = false ∧ b.get .ddlWidthState ≠ wsSafe ∧ lit)

/-- What clause 1 of WidthAgreement supposes. -/
abbrev hyps_WidthAgreement_0 (s : State) (src : Src) (h : Half) (en : BitVec 8) (tr mask : BitVec 408) (crc : BitVec 32) (c16 : BitVec 16) (g : Fin 6)
    (body : List Byte) (m a t : Nat) (hm : HeldMsg) (bm : BridgeMsg) (q : List BridgeMsg) : Prop :=
  s.ok ∧ (let b := s.box; let lit : Prop := b.darkHalf 0 = false ∧ b.darkHalf 1 = false; writer b src ∧ lit)

/-- What clause 2 of WidthAgreement supposes. -/
abbrev hyps_WidthAgreement_1 (s : State) (src : Src) (h : Half) (en : BitVec 8) (tr mask : BitVec 408) (crc : BitVec 32) (c16 : BitVec 16) (g : Fin 6)
    (body : List Byte) (m a t : Nat) (hm : HeldMsg) (bm : BridgeMsg) (q : List BridgeMsg) : Prop :=
  s.ok ∧ (let b := s.box; let ws := b.get .ddlWidthState; let lit : Prop := b.darkHalf 0 = false ∧ b.darkHalf 1 = false; ws ≤ wsConfirm ∧ lit ∧ b.ddl.got.find h = none)

/-- What clause 3 of WidthAgreement supposes. -/
abbrev hyps_WidthAgreement_2 (s : State) (src : Src) (h : Half) (en : BitVec 8) (tr mask : BitVec 408) (crc : BitVec 32) (c16 : BitVec 16) (g : Fin 6)
    (body : List Byte) (m a t : Nat) (hm : HeldMsg) (bm : BridgeMsg) (q : List BridgeMsg) : Prop :=
  s.ok ∧ (let b := s.box; let ws := b.get .ddlWidthState; ws ≤ wsConfirm ∧ b.ddl.adv.find h = none)

/-- What clause 4 of WidthAgreement supposes. -/
abbrev hyps_WidthAgreement_3 (s : State) (src : Src) (h : Half) (en : BitVec 8) (tr mask : BitVec 408) (crc : BitVec 32) (c16 : BitVec 16) (g : Fin 6)
    (body : List Byte) (m a t : Nat) (hm : HeldMsg) (bm : BridgeMsg) (q : List BridgeMsg) : Prop :=
  s.ok ∧ (let b := s.box; let ws := b.get .ddlWidthState; ws ≤ wsConfirm ∧ b.ddl.adv.find h = some a)

/-- What clause 5 of WidthAgreement supposes. -/
abbrev hyps_WidthAgreement_4 (s : State) (src : Src) (h : Half) (en : BitVec 8) (tr mask : BitVec 408) (crc : BitVec 32) (c16 : BitVec 16) (g : Fin 6)
    (body : List Byte) (m a t : Nat) (hm : HeldMsg) (bm : BridgeMsg) (q : List BridgeMsg) : Prop :=
  s.ok ∧ (let b := s.box; let ws := b.get .ddlWidthState; ws = wsConfirm ∧ b.ddl.plan = none ∧ b.agreedOf 0 = some m ∧ maskCrc m = crc.toNat)

/-- What clause 6 of WidthAgreement supposes. -/
abbrev hyps_WidthAgreement_5 (s : State) (src : Src) (h : Half) (en : BitVec 8) (tr mask : BitVec 408) (crc : BitVec 32) (c16 : BitVec 16) (g : Fin 6)
    (body : List Byte) (m a t : Nat) (hm : HeldMsg) (bm : BridgeMsg) (q : List BridgeMsg) : Prop :=
  s.ok ∧ (let b := s.box; let ws := b.get .ddlWidthState; ws = wsConfirm ∧ b.ddl.plan = none ∧ b.agreedOf 0 = some m ∧ maskCrc m ≠ crc.toNat ∧ b.get .ddlConfirmFail < 2)

/-- What clause 7 of WidthAgreement supposes. -/
abbrev hyps_WidthAgreement_6 (s : State) (src : Src) (h : Half) (en : BitVec 8) (tr mask : BitVec 408) (crc : BitVec 32) (c16 : BitVec 16) (g : Fin 6)
    (body : List Byte) (m a t : Nat) (hm : HeldMsg) (bm : BridgeMsg) (q : List BridgeMsg) : Prop :=
  s.ok ∧ (let b := s.box; let ws := b.get .ddlWidthState; ws = wsConfirm ∧ b.ddl.plan = none ∧ b.get .ddlConfirmFail < 2)

/-- What clause 8 of WidthAgreement supposes. -/
abbrev hyps_WidthAgreement_7 (s : State) (src : Src) (h : Half) (en : BitVec 8) (tr mask : BitVec 408) (crc : BitVec 32) (c16 : BitVec 16) (g : Fin 6)
    (body : List Byte) (m a t : Nat) (hm : HeldMsg) (bm : BridgeMsg) (q : List BridgeMsg) : Prop :=
  s.ok ∧ (let b := s.box; let ws := b.get .ddlWidthState; ws = wsConfirm ∧ b.ddl.plan = none ∧ b.get .ddlConfirmFail = 2)

/-- What clause 9 of WidthAgreement supposes. -/
abbrev hyps_WidthAgreement_8 (s : State) (src : Src) (h : Half) (en : BitVec 8) (tr mask : BitVec 408) (crc : BitVec 32) (c16 : BitVec 16) (g : Fin 6)
    (body : List Byte) (m a t : Nat) (hm : HeldMsg) (bm : BridgeMsg) (q : List BridgeMsg) : Prop :=
  s.ok ∧ (let b := s.box; b.ddl.plan = some (t, some m) ∧ b.ddl.held = [])

/-- What clause 10 of WidthAgreement supposes. -/
abbrev hyps_WidthAgreement_9 (s : State) (src : Src) (h : Half) (en : BitVec 8) (tr mask : BitVec 408) (crc : BitVec 32) (c16 : BitVec 16) (g : Fin 6)
    (body : List Byte) (m a t : Nat) (hm : HeldMsg) (bm : BridgeMsg) (q : List BridgeMsg) : Prop :=
  s.ok ∧ (let b := s.box; b.ddl.plan = some (t, none) ∧ b.ddl.held = [])

/-- What clause 11 of WidthAgreement supposes. -/
abbrev hyps_WidthAgreement_10 (s : State) (src : Src) (h : Half) (en : BitVec 8) (tr mask : BitVec 408) (crc : BitVec 32) (c16 : BitVec 16) (g : Fin 6)
    (body : List Byte) (m a t : Nat) (hm : HeldMsg) (bm : BridgeMsg) (q : List BridgeMsg) : Prop :=
  s.ok ∧ (let b := s.box; b.ddl.held.find? (fun y => y.half == h.val) = some hm)

/-- What clause 12 of WidthAgreement supposes. -/
abbrev hyps_WidthAgreement_11 (s : State) (src : Src) (h : Half) (en : BitVec 8) (tr mask : BitVec 408) (crc : BitVec 32) (c16 : BitVec 16) (g : Fin 6)
    (body : List Byte) (m a t : Nat) (hm : HeldMsg) (bm : BridgeMsg) (q : List BridgeMsg) : Prop :=
  s.ok ∧ crc16 body = c16.toNat

/-- What clause 13 of WidthAgreement supposes. -/
abbrev hyps_WidthAgreement_12 (s : State) (src : Src) (h : Half) (en : BitVec 8) (tr mask : BitVec 408) (crc : BitVec 32) (c16 : BitVec 16) (g : Fin 6)
    (body : List Byte) (m a t : Nat) (hm : HeldMsg) (bm : BridgeMsg) (q : List BridgeMsg) : Prop :=
  s.ok ∧ crc16 body ≠ c16.toNat

/-- What clause 14 of WidthAgreement supposes. -/
abbrev hyps_WidthAgreement_13 (s : State) (src : Src) (h : Half) (en : BitVec 8) (tr mask : BitVec 408) (crc : BitVec 32) (c16 : BitVec 16) (g : Fin 6)
    (body : List Byte) (m a t : Nat) (hm : HeldMsg) (bm : BridgeMsg) (q : List BridgeMsg) : Prop :=
  s.ok ∧ (let b := s.box; b.ddl.bridge.at h [] = bm :: q ∧ bm.fails < 3)

/-- What clause 15 of WidthAgreement supposes. -/
abbrev hyps_WidthAgreement_14 (s : State) (src : Src) (h : Half) (en : BitVec 8) (tr mask : BitVec 408) (crc : BitVec 32) (c16 : BitVec 16) (g : Fin 6)
    (body : List Byte) (m a t : Nat) (hm : HeldMsg) (bm : BridgeMsg) (q : List BridgeMsg) : Prop :=
  s.ok ∧ (let b := s.box; b.ddl.bridge.at h [] = bm :: q ∧ 3 ≤ bm.fails ∧ bm.cls = grpTime)

/-- What clause 16 of WidthAgreement supposes. -/
abbrev hyps_WidthAgreement_15 (s : State) (src : Src) (h : Half) (en : BitVec 8) (tr mask : BitVec 408) (crc : BitVec 32) (c16 : BitVec 16) (g : Fin 6)
    (body : List Byte) (m a t : Nat) (hm : HeldMsg) (bm : BridgeMsg) (q : List BridgeMsg) : Prop :=
  s.ok ∧ (let b := s.box; b.ddl.bridge.at h [] = bm :: q ∧ 3 ≤ bm.fails ∧ bm.cls ≠ grpTime ∧ b.pwr.forces = [] ∧ b.pwr.requested ≠ 4)

def W (l : List (Reg × Nat × Nat × Nat × Nat)) : State := with_ r0 l
def live (l : List (Reg × Nat × Nat × Nat × Nat)) (g : DdlSt → DdlSt) : State := on (W ((List.range 8).flatMap (fun x => [(.ddlBState,0,x,0,buActive),(.ddlBState,1,x,0,buActive)]) ++ [(.ddlWidthState,0,0,0,wsActive)] ++ l)) (fun b => {b with ddl := g b.ddl})
def flit (kind seq ack : Nat) : BitVec 768 := let f := kind * 2^764 + seq * 2^752 + ack * 2^742; BitVec.ofNat 768 (f + crc32c (beBytes 92 (f / 2 ^ 32)))
def rm : Remap := ⟨1,3,7,50,1000⟩
abbrev df (k : State → Half → Colour → (BitVec 768) → (BitVec 10) → (Fin 51) → Nat → Nat → Remap → Prop) (s : State) (h : Half) (fl : BitVec 768) (pos : Fin 51) (p : Nat) := k s h 3 fl 5 pos 7 p rm
def mapped : List (Reg × Nat × Nat × Nat × Nat) := (List.range 48).map (fun n => (.ddlBMap,1,3,n,n))
def hm : HeldMsg := ⟨1, 4, 42, ⟨0,0,0,0⟩⟩
def bm : BridgeMsg := ⟨3, 2, [1,2]⟩
abbrev wa (k : State → Src → Half → (BitVec 8) → (BitVec 408) → (BitVec 408) → (BitVec 32) → (BitVec 16) → (Fin 6) → (List Byte) → Nat → Nat → Nat → HeldMsg → BridgeMsg → (List BridgeMsg) → Prop) (s : State) (h : Half) (tr mask : BitVec 408) (crc : BitVec 32) (c16 : BitVec 16) (m a t : Nat) (bm : BridgeMsg) (q : List BridgeMsg) := k s 0 h 0xF7 tr mask crc c16 3 [1,2,3] m a t hm bm q
def full : Nat := 2^408 - 1
def c16 : BitVec 16 := BitVec.ofNat 16 (crc16 [1,2,3])

def mA : List (Reg × Nat × Nat × Nat × Nat) := mapped ++ [(.ddlMaskAgreed,3,0,0,7*2^9)]

/-- States and operands that meet the hypotheses of DieLinkFlits. -/
theorem witness_DieLinkFlits :
    (df hyps_DieLinkFlits_1 (live mA id) 1 (flit 1 0 9 ^^^ 2#768) 7 48)
    ∧ (df hyps_DieLinkFlits_2 (live mA id) 1 (flit 1 0 9 ^^^ 2#768) 7 48)
    ∧ (df hyps_DieLinkFlits_3 (live mA id) 1 (flit 1 0 9 ^^^ 2#768) 7 48)
    ∧ (df hyps_DieLinkFlits_5 (live mA id) 1 (flit 1 0 9 ^^^ 2#768) 7 48)
    ∧ (df hyps_DieLinkFlits_7 (live mA id) 1 (flit 1 0 9 ^^^ 2#768) 7 48)
    ∧ (df hyps_DieLinkFlits_0 (live [] id) 1 (flit 1 0 9) 7 48)
    ∧ (df hyps_DieLinkFlits_4 (live (mapped ++ [(.ddlBSpareUsed,1,3,0,2)]) (fun d => {d with remaps := [rm]})) 1 (flit 1 0 9 ^^^ 2#768) 7 48)
    ∧ (df hyps_DieLinkFlits_6 (live (mapped ++ [(.ddlRetireWin,0,0,0,2),(.ddlRetirePpm,0,0,0,5)]) (fun d => {d with bund := [(3,{badWin:=1,winFlits := 1000, winFails := 1})]})) 1 (flit 1 0 9 ^^^ 2#768) 7 48) := by
  refine ⟨?_, ?_, ?_, ?_, ?_, ?_, ?_, ?_⟩ <;>
    first
    | decide +kernel
    | (and_intros <;> first | decide +kernel | (refine ok_of ?_; decide +kernel) | (refine error_of ?_; decide +kernel) | (refine ok_pair ?_ rfl; decide +kernel) | rfl)

/-- States and operands that meet the hypotheses of WidthAgreement. -/
theorem witness_WidthAgreement :
    (wa hyps_WidthAgreement_0 (live [(.ddlWidthState,0,0,0,wsConfirm),(.ddlConfirmFail,0,0,0,2)] (fun d => {d with plan := some (5, none)})) 0 (BitVec.ofNat 408 (full - 7)) 5 7 c16 (full-8) full 5 bm [])
    ∧ (wa hyps_WidthAgreement_1 (live [(.ddlWidthState,0,0,0,wsConfirm),(.ddlConfirmFail,0,0,0,2)] (fun d => {d with plan := some (5, none)})) 0 (BitVec.ofNat 408 (full - 7)) 5 7 c16 (full-8) full 5 bm [])
    ∧ (wa hyps_WidthAgreement_2 (live [(.ddlWidthState,0,0,0,wsConfirm),(.ddlConfirmFail,0,0,0,2)] (fun d => {d with plan := some (5, none)})) 0 (BitVec.ofNat 408 (full - 7)) 5 7 c16 (full-8) full 5 bm [])
    ∧ (wa hyps_WidthAgreement_9 (live [(.ddlWidthState,0,0,0,wsConfirm),(.ddlConfirmFail,0,0,0,2)] (fun d => {d with plan := some (5, none)})) 0 (BitVec.ofNat 408 (full - 7)) 5 7 c16 (full-8) full 5 bm [])
    ∧ (wa hyps_WidthAgreement_11 (live [(.ddlWidthState,0,0,0,wsConfirm),(.ddlConfirmFail,0,0,0,2)] (fun d => {d with plan := some (5, none)})) 0 (BitVec.ofNat 408 (full - 7)) 5 7 c16 (full-8) full 5 bm [])
    ∧ (wa hyps_WidthAgreement_3 (live [(.ddlWidthState,0,0,0,wsConfirm),(.ddlConfirmFail,0,0,0,1)] (fun d => {d with adv := [(0, full),(1,full-8)], got := [(0,full-8),(1,full)]})) 0 (BitVec.ofNat 408 (full - 7)) 5 7 c16 (full-8) full 5 bm [])
    ∧ (wa hyps_WidthAgreement_5 (live [(.ddlWidthState,0,0,0,wsConfirm),(.ddlConfirmFail,0,0,0,1)] (fun d => {d with adv := [(0, full),(1,full-8)], got := [(0,full-8),(1,full)]})) 0 (BitVec.ofNat 408 (full - 7)) 5 7 c16 (full-8) full 5 bm [])
    ∧ (wa hyps_WidthAgreement_6 (live [(.ddlWidthState,0,0,0,wsConfirm),(.ddlConfirmFail,0,0,0,1)] (fun d => {d with adv := [(0, full),(1,full-8)], got := [(0,full-8),(1,full)]})) 0 (BitVec.ofNat 408 (full - 7)) 5 7 c16 (full-8) full 5 bm [])
    ∧ (wa hyps_WidthAgreement_10 (live [] (fun d => {d with held := [hm], bridge := [(1,[bm,{bm with cls:=1}]),(0,[bm])]})) 1 (BitVec.ofNat 408 (full - 7)) 5 7 c16 (full-8) full 5 bm [{bm with cls:=1}])
    ∧ (wa hyps_WidthAgreement_13 (live [] (fun d => {d with held := [hm], bridge := [(1,[bm,{bm with cls:=1}]),(0,[bm])]})) 1 (BitVec.ofNat 408 (full - 7)) 5 7 c16 (full-8) full 5 bm [{bm with cls:=1}])
    ∧ (wa hyps_WidthAgreement_4 (live [(.ddlWidthState,0,0,0,wsConfirm),(.ddlConfirmFail,0,0,0,2)] (fun d => {d with fromReset := true, adv := [(0, full),(1,full-8)], got := [(0,full-8),(1,full)]})) 0 (BitVec.ofNat 408 (full - 7)) 5 (BitVec.ofNat 32 (maskCrc (full-8))) c16 (full-8) full 5 bm [])
    ∧ (wa hyps_WidthAgreement_7 (live [(.ddlWidthState,0,0,0,wsConfirm),(.ddlConfirmFail,0,0,0,2)] (fun d => {d with fromReset := true, adv := [(0, full),(1,full-8)], got := [(0,full-8),(1,full)]})) 0 (BitVec.ofNat 408 (full - 7)) 5 (BitVec.ofNat 32 (maskCrc (full-8))) c16 (full-8) full 5 bm [])
    ∧ (wa hyps_WidthAgreement_12 (live [(.ddlWidthState,0,0,0,wsAdvertise),(.ddlBState,0,2,0,buRetired),(.ddlBState,1,2,0,buRetired)] id) 1 (BitVec.ofNat 408 (full - 7)) 5 5 5 5 5 5 bm [])
    ∧ (wa hyps_WidthAgreement_8 (live [(.ddlWidthState,0,0,0,wsConfirm),(.ddlConfirmFail,0,0,0,2)] (fun d => {d with plan := some (5, some (full-2^51*15))})) 0 (BitVec.ofNat 408 (full - 7)) 5 7 c16 (full-2^51*15) full 5 bm [])
    ∧ (wa hyps_WidthAgreement_15 (live [] (fun d => {d with held := [], bridge := [(1,[{bm with fails := 3},{bm with cls:=1}]),(0,[bm])]})) 1 (BitVec.ofNat 408 (full - 7)) 5 7 c16 (full-8) full 5 {bm with fails := 3} [{bm with cls:=1}])
    ∧ (wa hyps_WidthAgreement_14 (live [] (fun d => {d with held := [], bridge := [(1,[{bm with fails := 3, cls := grpTime},{bm with cls:=1}]),(0,[bm])]})) 1 (BitVec.ofNat 408 (full - 7)) 5 7 c16 (full-8) full 5 {bm with fails := 3, cls := grpTime} [{bm with cls:=1}]) := by
  refine ⟨?_, ?_, ?_, ?_, ?_, ?_, ?_, ?_, ?_, ?_, ?_, ?_, ?_, ?_, ?_, ?_⟩ <;>
    first
    | decide +kernel
    | (and_intros <;> first | decide +kernel | (refine ok_of ?_; decide +kernel) | (refine error_of ?_; decide +kernel) | (refine ok_pair ?_ rfl; decide +kernel) | rfl)
end P22

namespace P23
/-- What clause 1 of MailboxChannels (MailboxesAndLease) supposes. -/
abbrev hyps_MailboxChannels_0 (s : State) (src : Src) (m : Fin 32) (c : MCore) (v : BitVec 64) : Prop :=
  s.ok ∧ (let b := s.box; let n := src.toNat; let mayUse : Prop := b.known n = true ∧ b.domainUp m = true; let mine : Prop := b.locked m = false ∨ b.owns n m = true; mayUse ∧ mine ∧ b.get .mbxFull m = 0)

/-- What clause 2 of MailboxChannels (MailboxesAndLease) supposes. -/
abbrev hyps_MailboxChannels_1 (s : State) (src : Src) (m : Fin 32) (c : MCore) (v : BitVec 64) : Prop :=
  s.ok ∧ (let b := s.box; let n := src.toNat; let mayUse : Prop := b.known n = true ∧ b.domainUp m = true; let mine : Prop := b.locked m = false ∨ b.owns n m = true; mayUse ∧ mine ∧ b.get .mbxFull m = 1 ∧ b.get .mbxKs7 m = 0)

/-- What clause 3 of MailboxChannels (MailboxesAndLease) supposes. -/
abbrev hyps_MailboxChannels_2 (s : State) (src : Src) (m : Fin 32) (c : MCore) (v : BitVec 64) : Prop :=
  s.ok ∧ (let b := s.box; let n := src.toNat; let mayUse : Prop := b.known n = true ∧ b.domainUp m = true; let mine : Prop := b.locked m = false ∨ b.owns n m = true; mayUse ∧ ¬mine)

/-- What clause 4 of MailboxChannels (MailboxesAndLease) supposes. -/
abbrev hyps_MailboxChannels_3 (s : State) (src : Src) (m : Fin 32) (c : MCore) (v : BitVec 64) : Prop :=
  s.ok ∧ (let b := s.box; let n := src.toNat; let mayUse : Prop := b.known n = true ∧ b.domainUp m = true; mayUse)

/-- What clause 5 of MailboxChannels (MailboxesAndLease) supposes. -/
abbrev hyps_MailboxChannels_4 (s : State) (src : Src) (m : Fin 32) (c : MCore) (v : BitVec 64) : Prop :=
  s.ok ∧ (let b := s.box; let n := src.toNat; let rcv := b.receiver m; let mayUse : Prop := b.known n = true ∧ b.domainUp m = true; mayUse ∧ n = rcv)

/-- What clause 6 of MailboxChannels (MailboxesAndLease) supposes. -/
abbrev hyps_MailboxChannels_5 (s : State) (src : Src) (m : Fin 32) (c : MCore) (v : BitVec 64) : Prop :=
  s.ok ∧ (let b := s.box; let n := src.toNat; let mayUse : Prop := b.known n = true ∧ b.domainUp m = true; mayUse)

/-- What clause 7 of MailboxChannels (MailboxesAndLease) supposes. -/
abbrev hyps_MailboxChannels_6 (s : State) (src : Src) (m : Fin 32) (c : MCore) (v : BitVec 64) : Prop :=
  s.ok ∧ (let b := s.box; let n := src.toNat; b.known n = true ∧ b.domainUp m = false)

/-- What clause 8 of MailboxChannels (MailboxesAndLease) supposes. -/
abbrev hyps_MailboxChannels_7 (s : State) (src : Src) (m : Fin 32) (c : MCore) (v : BitVec 64) : Prop :=
  s.ok ∧ (let b := s.box; let n := src.toNat; b.known n = false)

/-- What clause 9 of MailboxChannels (MailboxesAndLease) supposes. -/
abbrev hyps_MailboxChannels_8 (s : State) (src : Src) (m : Fin 32) (c : MCore) (v : BitVec 64) : Prop :=
  s.ok ∧ (let b := s.box; let n := src.toNat; let mine : Prop := b.locked m = false ∨ b.owns n m = true; b.known n = true ∧ mine ∧ b.get .mbxReady m = 1)

/-- What clause 10 of MailboxChannels (MailboxesAndLease) supposes. -/
abbrev hyps_MailboxChannels_9 (s : State) (src : Src) (m : Fin 32) (c : MCore) (v : BitVec 64) : Prop :=
  s.ok ∧ (let b := s.box; let n := src.toNat; let mine : Prop := b.locked m = false ∨ b.owns n m = true; b.known n = true ∧ mine ∧ b.get .mbxReady m = 0)

/-- What clause 11 of MailboxChannels (MailboxesAndLease) supposes. -/
abbrev hyps_MailboxChannels_10 (s : State) (src : Src) (m : Fin 32) (c : MCore) (v : BitVec 64) : Prop :=
  s.ok

/-- What clause 12 of MailboxChannels (MailboxesAndLease) supposes. -/
abbrev hyps_MailboxChannels_11 (s : State) (src : Src) (m : Fin 32) (c : MCore) (v : BitVec 64) : Prop :=
  s.ok ∧ (let b := s.box; (∀ k < 32, b.receiver k = c.val → b.get .mbxFull k ≠ 1 ∧ b.get .mbxDoorbell k ≠ 1) ∧ b.mbx.domains.count c.val ≤ 1)

/-- What clause 1 of LocksAndLease (MailboxesAndLease) supposes. -/
abbrev hyps_LocksAndLease_0 (s : State) (src : Src) (m : Fin 32) (v : BitVec 64) (n : BitVec 12) (k : Nat) : Prop :=
  s.ok ∧ (let b := s.box; let i := src.toNat; b.known i = true ∧ b.locked m = true)

/-- What clause 2 of LocksAndLease (MailboxesAndLease) supposes. -/
abbrev hyps_LocksAndLease_1 (s : State) (src : Src) (m : Fin 32) (v : BitVec 64) (n : BitVec 12) (k : Nat) : Prop :=
  s.ok ∧ (let b := s.box; let i := src.toNat; b.known i = true ∧ b.locked m = false ∧ m ≠ 0)

/-- What clause 3 of LocksAndLease (MailboxesAndLease) supposes. -/
abbrev hyps_LocksAndLease_2 (s : State) (src : Src) (m : Fin 32) (v : BitVec 64) (n : BitVec 12) (k : Nat) : Prop :=
  s.ok ∧ (let b := s.box; let i := src.toNat; b.known i = true ∧ b.locked 0 = false ∧ b.mayLease i = true)

/-- What clause 4 of LocksAndLease (MailboxesAndLease) supposes. -/
abbrev hyps_LocksAndLease_3 (s : State) (src : Src) (m : Fin 32) (v : BitVec 64) (n : BitVec 12) (k : Nat) : Prop :=
  s.ok ∧ (let b := s.box; let i := src.toNat; b.known i = true ∧ b.locked 0 = false ∧ b.mayLease i = false)

/-- What clause 5 of LocksAndLease (MailboxesAndLease) supposes. -/
abbrev hyps_LocksAndLease_4 (s : State) (src : Src) (m : Fin 32) (v : BitVec 64) (n : BitVec 12) (k : Nat) : Prop :=
  s.ok ∧ (let b := s.box; let i := src.toNat; b.known i = true ∧ b.owns i m = true ∧ m ≠ 0 ∧ b.mbx.lock0.count m.val ≤ 1)

/-- What clause 6 of LocksAndLease (MailboxesAndLease) supposes. -/
abbrev hyps_LocksAndLease_5 (s : State) (src : Src) (m : Fin 32) (v : BitVec 64) (n : BitVec 12) (k : Nat) : Prop :=
  s.ok ∧ (let b := s.box; let i := src.toNat; b.known i = true ∧ b.owns i 0 = true ∧ b.get .mbxLeaseState = 1)

/-- What clause 7 of LocksAndLease (MailboxesAndLease) supposes. -/
abbrev hyps_LocksAndLease_6 (s : State) (src : Src) (m : Fin 32) (v : BitVec 64) (n : BitVec 12) (k : Nat) : Prop :=
  s.ok ∧ (let b := s.box; let i := src.toNat; b.known i = true ∧ b.owns i m = false)

/-- What clause 8 of LocksAndLease (MailboxesAndLease) supposes. -/
abbrev hyps_LocksAndLease_7 (s : State) (src : Src) (m : Fin 32) (v : BitVec 64) (n : BitVec 12) (k : Nat) : Prop :=
  s.ok ∧ (let b := s.box; let i := src.toNat; b.isAgent i = true)

/-- What clause 9 of LocksAndLease (MailboxesAndLease) supposes. -/
abbrev hyps_LocksAndLease_8 (s : State) (src : Src) (m : Fin 32) (v : BitVec 64) (n : BitVec 12) (k : Nat) : Prop :=
  s.ok ∧ (let b := s.box; let i := src.toNat; b.isAgent i = false)

/-- What clause 10 of LocksAndLease (MailboxesAndLease) supposes. -/
abbrev hyps_LocksAndLease_9 (s : State) (src : Src) (m : Fin 32) (v : BitVec 64) (n : BitVec 12) (k : Nat) : Prop :=
  s.ok ∧ (let b := s.box; b.get .mbxLeaseState = 1 ∧ b.mar.resets = [])

/-- What clause 11 of LocksAndLease (MailboxesAndLease) supposes. -/
abbrev hyps_LocksAndLease_10 (s : State) (src : Src) (m : Fin 32) (v : BitVec 64) (n : BitVec 12) (k : Nat) : Prop :=
  s.ok ∧ (let b := s.box; b.sessSlot (srcOf n.toNat) = some k ∧ b.get .mbxSessState k = 2)

/-- What clause 12 of LocksAndLease (MailboxesAndLease) supposes. -/
abbrev hyps_LocksAndLease_11 (s : State) (src : Src) (m : Fin 32) (v : BitVec 64) (n : BitVec 12) (k : Nat) : Prop :=
  s.ok ∧ (let b := s.box; b.sessSlot (srcOf n.toNat) = some k ∧ b.get .mbxSessState k = 1)

/-- What clause 1 of BoardGroup supposes. -/
abbrev hyps_BoardGroup_0 (s : State) (f : Fibre) (sl : Slot) (plid : BitVec 32) (slot : BitVec 2) (mac : BitVec 48) (fr : List Byte) (l : Nat) : Prop :=
  s.ok ∧ (let b := s.box; b.get .prtMode f = 2 ∧ (b.relayLane f 0).isSome = true)

/-- What clause 2 of BoardGroup supposes. -/
abbrev hyps_BoardGroup_1 (s : State) (f : Fibre) (sl : Slot) (plid : BitVec 32) (slot : BitVec 2) (mac : BitVec 48) (fr : List Byte) (l : Nat) : Prop :=
  s.ok ∧ (let b := s.box; let linked : Prop := (∀ j < slot.toNat, b.get .mbxBrdLink j ≠ f.val) ∧ b.get .mbxBrdLink slot.toNat = f.val; linked)

/-- What clause 3 of BoardGroup supposes. -/
abbrev hyps_BoardGroup_2 (s : State) (f : Fibre) (sl : Slot) (plid : BitVec 32) (slot : BitVec 2) (mac : BitVec 48) (fr : List Byte) (l : Nat) : Prop :=
  s.ok ∧ (let b := s.box; let carried : Prop := (b.get .prtMode f = 1 ∨ b.get .prtMode f = 2) ∧ b.halfReset (halfOf sl) = false ∧ b.get .pwrPsState % 8 ≠ 4; carried ∧ at_ fr 0 6 = b.get .fwdModMac)

/-- What clause 4 of BoardGroup supposes. -/
abbrev hyps_BoardGroup_3 (s : State) (f : Fibre) (sl : Slot) (plid : BitVec 32) (slot : BitVec 2) (mac : BitVec 48) (fr : List Byte) (l : Nat) : Prop :=
  s.ok ∧ (let b := s.box; let carried : Prop := (b.get .prtMode f = 1 ∨ b.get .prtMode f = 2) ∧ b.halfReset (halfOf sl) = false ∧ b.get .pwrPsState % 8 ≠ 4; carried ∧ b.get .prtMode f = 1 ∧ at_ fr 0 6 = b.get .mbxBrdMac 0 ∧ b.get .mbxBrdMac 0 ≠ 0 ∧ b.get .mbxBrdMac 0 ≠ b.get .fwdModMac ∧ b.get .mbxBrdMac 0 / 2 ^ 32 ≠ 0x3333 ∧ b.get .mbxBrdLink 0 ≠ 0xFF ∧ b.mbx.relayAt + 10000 ≤ b.ns ∧ fr.length * 8 ≤ b.get .mbxBrdRateMbps * 10 ∧ b.relayLane (b.get .mbxBrdLink 0) (halfOf sl) = some l)

/-- What clause 1 of OperatorSessions supposes. -/
abbrev hyps_OperatorSessions_0 (s : State) (src : Src) (peer : BitVec 128) (body msg : List Byte) (n : BitVec 12) (addr : BitVec 48) (v : BitVec 64)
    (k : Nat) (x : Session) (m : OmpMsg) (pk : List Byte) (ops : List (Nat × Nat × Nat)) : Prop :=
  s.ok ∧ s.box.ompOn = true ∧ (let b := s.box; let key := b.certKey ((body.drop 1216).take 1312) ((body.drop 2528).headD 0) (body.drop 2529); body.length = helloLen ∧ (upTo 16).find? (fun j => b.get .mbxSessState j == 0) = some k ∧ key = some pk ∧ b.mbx.shakes = [] ∧ b.secSigns = true)

/-- What clause 2 of OperatorSessions supposes. -/
abbrev hyps_OperatorSessions_1 (s : State) (src : Src) (peer : BitVec 128) (body msg : List Byte) (n : BitVec 12) (addr : BitVec 48) (v : BitVec 64)
    (k : Nat) (x : Session) (m : OmpMsg) (pk : List Byte) (ops : List (Nat × Nat × Nat)) : Prop :=
  s.ok ∧ s.box.ompOn = true ∧ (let b := s.box; let heard (ty st : Nat) : Prop := b.sessSlot (srcOf n.toNat) = some k ∧ b.mbx.sess.find k = some x ∧ b.get .mbxSessState k = st ∧ Machine.ompRead ty n.toNat msg = some m ∧ ompTag x.keyIn m.signed = m.tag; heard 0x03 1 ∧ m.body.length = 2420 ∧ Config.mldsaVerify x.pk (digest32 x.h) m.body = true)

/-- What clause 3 of OperatorSessions supposes. -/
abbrev hyps_OperatorSessions_2 (s : State) (src : Src) (peer : BitVec 128) (body msg : List Byte) (n : BitVec 12) (addr : BitVec 48) (v : BitVec 64)
    (k : Nat) (x : Session) (m : OmpMsg) (pk : List Byte) (ops : List (Nat × Nat × Nat)) : Prop :=
  s.ok ∧ s.box.ompOn = true ∧ (let b := s.box; let heard (ty st : Nat) : Prop := b.sessSlot (srcOf n.toNat) = some k ∧ b.mbx.sess.find k = some x ∧ b.get .mbxSessState k = st ∧ Machine.ompRead ty n.toNat msg = some m ∧ ompTag x.keyIn m.signed = m.tag; heard 0x10 2 ∧ m.body = [] ∧ x.kept = [] ∧ x.high < m.seq + 64 ∧ x.accepted.contains m.seq = false ∧ x.requests + 1 < 2 ^ 32)

/-- What clause 4 of OperatorSessions supposes. -/
abbrev hyps_OperatorSessions_3 (s : State) (src : Src) (peer : BitVec 128) (body msg : List Byte) (n : BitVec 12) (addr : BitVec 48) (v : BitVec 64)
    (k : Nat) (x : Session) (m : OmpMsg) (pk : List Byte) (ops : List (Nat × Nat × Nat)) : Prop :=
  s.ok ∧ s.box.ompOn = true ∧ (let b := s.box; let heard (ty st : Nat) : Prop := b.sessSlot (srcOf n.toNat) = some k ∧ b.mbx.sess.find k = some x ∧ b.get .mbxSessState k = st ∧ Machine.ompRead ty n.toNat msg = some m ∧ ompTag x.keyIn m.signed = m.tag; heard 0x10 2 ∧ ompOps 64 m.body = some ops ∧ x.kept = [] ∧ x.high < m.seq + 64 ∧ x.accepted.contains m.seq = false ∧ x.requests + 1 < 2 ^ 32 ∧ (let b1 : Box := { b with mbx := { b.mbx with sess := b.mbx.sess.put k (x.accept m.seq) } }; let r := b1.ompRun s.mem (srcOf n.toNat) ops; r.2.mbx.sess.find k ≠ none))

/-- What clause 5 of OperatorSessions supposes. -/
abbrev hyps_OperatorSessions_4 (s : State) (src : Src) (peer : BitVec 128) (body msg : List Byte) (n : BitVec 12) (addr : BitVec 48) (v : BitVec 64)
    (k : Nat) (x : Session) (m : OmpMsg) (pk : List Byte) (ops : List (Nat × Nat × Nat)) : Prop :=
  s.ok ∧ s.box.ompOn = true ∧ (let b := s.box; let heard (ty st : Nat) : Prop := b.sessSlot (srcOf n.toNat) = some k ∧ b.mbx.sess.find k = some x ∧ b.get .mbxSessState k = st ∧ Machine.ompRead ty n.toNat msg = some m ∧ ompTag x.keyIn m.signed = m.tag; heard 0x10 2 ∧ m.body = [] ∧ x.kept = [] ∧ (m.seq + 64 ≤ x.high ∨ x.accepted.contains m.seq = true))

/-- What clause 6 of OperatorSessions supposes. -/
abbrev hyps_OperatorSessions_5 (s : State) (src : Src) (peer : BitVec 128) (body msg : List Byte) (n : BitVec 12) (addr : BitVec 48) (v : BitVec 64)
    (k : Nat) (x : Session) (m : OmpMsg) (pk : List Byte) (ops : List (Nat × Nat × Nat)) : Prop :=
  s.ok ∧ s.box.ompOn = true ∧ (let b := s.box; b.mayRead src.toNat addr.toNat = false)

/-- What clause 7 of OperatorSessions supposes. -/
abbrev hyps_OperatorSessions_6 (s : State) (src : Src) (peer : BitVec 128) (body msg : List Byte) (n : BitVec 12) (addr : BitVec 48) (v : BitVec 64)
    (k : Nat) (x : Session) (m : OmpMsg) (pk : List Byte) (ops : List (Nat × Nat × Nat)) : Prop :=
  s.ok ∧ s.box.ompOn = true ∧ (let b := s.box; b.mayRead src.toNat addr.toNat = true ∧ inMem addr.toNat = false ∧ inTables addr.toNat = false ∧ Machine.locate addr.toNat = none)

/-- What clause 8 of OperatorSessions supposes. -/
abbrev hyps_OperatorSessions_7 (s : State) (src : Src) (peer : BitVec 128) (body msg : List Byte) (n : BitVec 12) (addr : BitVec 48) (v : BitVec 64)
    (k : Nat) (x : Session) (m : OmpMsg) (pk : List Byte) (ops : List (Nat × Nat × Nat)) : Prop :=
  s.ok ∧ s.box.ompOn = true

/-- What clause 9 of OperatorSessions supposes. -/
abbrev hyps_OperatorSessions_8 (s : State) (src : Src) (peer : BitVec 128) (body msg : List Byte) (n : BitVec 12) (addr : BitVec 48) (v : BitVec 64)
    (k : Nat) (x : Session) (m : OmpMsg) (pk : List Byte) (ops : List (Nat × Nat × Nat)) : Prop :=
  s.ok ∧ s.box.ompOn = true

/-- What clause 10 of OperatorSessions supposes. -/
abbrev hyps_OperatorSessions_9 (s : State) (src : Src) (peer : BitVec 128) (body msg : List Byte) (n : BitVec 12) (addr : BitVec 48) (v : BitVec 64)
    (k : Nat) (x : Session) (m : OmpMsg) (pk : List Byte) (ops : List (Nat × Nat × Nat)) : Prop :=
  s.ok ∧ s.box.ompOn = true ∧ (let b := s.box; let heard (ty st : Nat) : Prop := b.sessSlot (srcOf n.toNat) = some k ∧ b.mbx.sess.find k = some x ∧ b.get .mbxSessState k = st ∧ Machine.ompRead ty n.toNat msg = some m ∧ ompTag x.keyIn m.signed = m.tag; heard 0x20 2)

def W (l : List (Reg × Nat × Nat × Nat × Nat)) : State := with_ r0 l
def dom (l : List (Reg × Nat × Nat × Nat × Nat)) (ds : List Nat) : State := on (W l) (fun b => {b with mbx := {b.mbx with domains := ds}})
abbrev mc (k : State → Src → (Fin 32) → MCore → (BitVec 64) → Prop) (s : State) (src : Src) (m : Fin 32) (c : MCore) := k s src m c 0xABCDEF
def sess0 : Session := ⟨5, 6, 7, [1], [2], 10, [10], [], 3⟩
def S (st : Nat) (l : List (Reg × Nat × Nat × Nat × Nat)) : State := on (W ([(.mbxSessState,2,0,0,st),(.mbxSessSrcid,2,0,0,0x8005),(.mbxSessPeerIp6,2,0,0,99),(.mbxSessRole,2,0,0,1)] ++ l)) (fun b => {b with mbx := {b.mbx with sess := [(2,sess0)]}, now := 5*2^40})
abbrev ll (k : State → Src → (Fin 32) → (BitVec 64) → (BitVec 12) → Nat → Prop) (s : State) (src : Src) (m : Fin 32) := k s src m 55 5 2
abbrev bg (k : State → Fibre → Slot → (BitVec 32) → (BitVec 2) → (BitVec 48) → (List Byte) → Nat → Prop) (s : State) (f : Fibre) (fr : List Byte) (l : Nat) := k s f 1 0x55 0 0x665544332211 fr l
def fr (da : Nat) : List Byte := beBytes 6 da ++ beBytes 10 3
def B (l : List (Reg × Nat × Nat × Nat × Nat)) : State := on (W ([(.fwdModMac,0,0,0,0x020000000001),(.prtLaneState,9,0,0,lnUp),(.prtLaneState,9,1,0,lnUp)] ++ l)) (fun b => {b with now := 500000*2^40})
abbrev os (k : State → Src → (BitVec 128) → (List Byte) → (List Byte) → (BitVec 12) → (BitVec 48) → (BitVec 64) → Nat → Session → OmpMsg → (List Byte) → (List (Nat × Nat × Nat)) → Prop) (s : State) (src : Src) (msg : List Byte) (addr : BitVec 48) (m : OmpMsg) (ops : List (Nat × Nat × Nat)) := k s src 42 [] msg 5 addr 77 2 sess0 m [] ops
def mk (ty seq : Nat) (body : List Byte) : List Byte := ompTagged 5 ty 5 seq 0 body
def rd (ty seq : Nat) (body : List Byte) : OmpMsg := let l := ompHeader ty 5 seq body.length 0 ++ body; ⟨seq, body, l, ompTag 5 l⟩
def opb : List Byte := beBytes 16 (1 * 2^120 + 8 * 2^64 + 5) ++ beBytes 16 (2 * 2^120 + 8 * 2^64 + 5)
def hb : List Byte := List.replicate (32+1184) 1 ++ List.replicate 1312 2 ++ [3] ++ List.replicate 2420 4
def mp := mk 0x03 0 (List.replicate 2420 1)

/-- States and operands that meet the hypotheses of MailboxChannels, a part of MailboxesAndLease. -/
theorem witness_MailboxChannels :
    (mc hyps_MailboxChannels_0 (dom [] [0,1,2]) 0 3 2)
    ∧ (mc hyps_MailboxChannels_3 (dom [] [0,1,2]) 0 3 2)
    ∧ (mc hyps_MailboxChannels_4 (dom [] [0,1,2]) 0 3 2)
    ∧ (mc hyps_MailboxChannels_5 (dom [] [0,1,2]) 0 3 2)
    ∧ (mc hyps_MailboxChannels_9 (dom [] [0,1,2]) 0 3 2)
    ∧ (mc hyps_MailboxChannels_10 (dom [] [0,1,2]) 0 3 2)
    ∧ (mc hyps_MailboxChannels_11 (dom [] [0,1,2]) 0 3 2)
    ∧ (mc hyps_MailboxChannels_6 (dom [] []) 1 3 0)
    ∧ (mc hyps_MailboxChannels_7 (dom [] [0]) 77 3 0)
    ∧ (mc hyps_MailboxChannels_1 (dom [(.mbxFull,3,0,0,1)] [0,1,2]) 0 3 2)
    ∧ (mc hyps_MailboxChannels_8 (dom [(.mbxReady,3,0,0,1)] [0,1,2]) 4 3 0)
    ∧ (mc hyps_MailboxChannels_2 (dom [(.mbxLock,3,0,0,4),(.mbxReady,3,0,0,1)] [0,1,2]) 0 3 0) := by
  refine ⟨?_, ?_, ?_, ?_, ?_, ?_, ?_, ?_, ?_, ?_, ?_, ?_⟩ <;>
    first
    | decide +kernel
    | (and_intros <;> first | decide +kernel | (refine ok_of ?_; decide +kernel) | (refine error_of ?_; decide +kernel) | (refine ok_pair ?_ rfl; decide +kernel) | rfl)

/-- States and operands that meet the hypotheses of LocksAndLease, a part of MailboxesAndLease. -/
theorem witness_LocksAndLease :
    (ll hyps_LocksAndLease_1 (S 2 []) 0 3)
    ∧ (ll hyps_LocksAndLease_3 (S 2 []) 0 3)
    ∧ (ll hyps_LocksAndLease_6 (S 2 []) 0 3)
    ∧ (ll hyps_LocksAndLease_8 (S 2 []) 0 3)
    ∧ (ll hyps_LocksAndLease_10 (S 2 []) 0 3)
    ∧ (ll hyps_LocksAndLease_0 (S 2 [(.mbxLock,3,0,0,0x8005),(.mbxLock,0,0,0,0x8005),(.mbxLeaseState,0,0,0,1),(.mbxLeaseSrcid,0,0,0,0x8005)]) 0x8005 0)
    ∧ (ll hyps_LocksAndLease_5 (S 2 [(.mbxLock,3,0,0,0x8005),(.mbxLock,0,0,0,0x8005),(.mbxLeaseState,0,0,0,1),(.mbxLeaseSrcid,0,0,0,0x8005)]) 0x8005 0)
    ∧ (ll hyps_LocksAndLease_7 (S 2 [(.mbxLock,3,0,0,0x8005),(.mbxLock,0,0,0,0x8005),(.mbxLeaseState,0,0,0,1),(.mbxLeaseSrcid,0,0,0,0x8005)]) 0x8005 0)
    ∧ (ll hyps_LocksAndLease_9 (S 2 [(.mbxLock,3,0,0,0x8005),(.mbxLock,0,0,0,0x8005),(.mbxLeaseState,0,0,0,1),(.mbxLeaseSrcid,0,0,0,0x8005)]) 0x8005 0)
    ∧ (ll hyps_LocksAndLease_2 (S 2 [(.mbxLock,3,0,0,0x8005)]) 0x8005 3)
    ∧ (ll hyps_LocksAndLease_4 (S 2 [(.mbxLock,3,0,0,0x8005)]) 0x8005 3)
    ∧ (ll hyps_LocksAndLease_11 (S 1 []) 0x8005 0) := by
  refine ⟨?_, ?_, ?_, ?_, ?_, ?_, ?_, ?_, ?_, ?_, ?_, ?_⟩ <;>
    first
    | decide +kernel
    | (and_intros <;> first | decide +kernel | (refine ok_of ?_; decide +kernel) | (refine error_of ?_; decide +kernel) | (refine ok_pair ?_ rfl; decide +kernel) | rfl)

/-- States and operands that meet the hypotheses of BoardGroup. -/
theorem witness_BoardGroup :
    (bg hyps_BoardGroup_0 (B [(.prtMode,9,0,0,2),(.mbxBrdLink,0,0,0,9)]) 9 (fr 0x020000000001) 5)
    ∧ (bg hyps_BoardGroup_1 (B [(.prtMode,9,0,0,2),(.mbxBrdLink,0,0,0,9)]) 9 (fr 0x020000000001) 5)
    ∧ (bg hyps_BoardGroup_2 (B [(.prtMode,9,0,0,2),(.mbxBrdLink,0,0,0,9)]) 9 (fr 0x020000000001) 5)
    ∧ (bg hyps_BoardGroup_3 (B [(.prtMode,5,0,0,1),(.mbxBrdLink,0,0,0,9),(.mbxBrdMac,0,0,0,0x020000000007)]) 5 (fr 0x020000000007) (laneOf 9 1)) := by
  refine ⟨?_, ?_, ?_, ?_⟩ <;>
    first
    | decide +kernel
    | (and_intros <;> first | decide +kernel | (refine ok_of ?_; decide +kernel) | (refine error_of ?_; decide +kernel) | (refine ok_pair ?_ rfl; decide +kernel) | rfl)

/-- States and operands that meet the hypotheses of OperatorSessions. -/
theorem witness_OperatorSessions :
    (os hyps_OperatorSessions_6 (S 2 []) 0 (mk 0x10 11 []) 5 (rd 0x10 11 []) [])
    ∧ (os hyps_OperatorSessions_7 (S 2 []) 0 (mk 0x10 11 []) 5 (rd 0x10 11 []) [])
    ∧ (os hyps_OperatorSessions_8 (S 2 []) 0 (mk 0x10 11 []) 5 (rd 0x10 11 []) [])
    ∧ (os hyps_OperatorSessions_5 (S 2 []) 0x8007 (mk 0x20 10 []) 0x7FFFFFFFFFF8 (rd 0x20 10 []) []) := by
  refine ⟨?_, ?_, ?_, ?_⟩ <;>
    first
    | decide +kernel
    | (and_intros <;> first | decide +kernel | (refine ok_of ?_; decide +kernel) | (refine error_of ?_; decide +kernel) | (refine ok_pair ?_ rfl; decide +kernel) | rfl)

/-- A message of bytes and a tag of 32 bytes is read as these, where the header says so. -/
theorem read_tagged {ty n len : Nat} {l t : List Byte} (ht : t.length = 32) (hl : l.length = 24 + len) (h8 : l.length ≤ 8160)
    (h : bits (beNat (l.take 24)) 95 80 = len ∧ bits (beNat (l.take 24)) 191 184 = 1 ∧ bits (beNat (l.take 24)) 183 176 = ty
      ∧ bits (beNat (l.take 24)) 175 160 = n) :
    Machine.ompRead ty n (l ++ t) = some ⟨bits (beNat (l.take 24)) 159 96, (l.drop 24).take len, l, t⟩ := by
  have h1 : (l ++ t).take 24 = l.take 24 := by rw [List.take_append_of_le_length (by omega)]
  have h2 : (l ++ t).drop 24 = l.drop 24 ++ t := by rw [List.drop_append_of_le_length (by omega)]
  have h3 : (l ++ t).take (24 + len) = l := by rw [← hl, List.take_left]
  have h4 : (l ++ t).drop (24 + len) = t := by rw [← hl, List.drop_left]
  have h5 : (l.drop 24 ++ t).take len = (l.drop 24).take len := by
    rw [List.take_append_of_le_length (by simp [hl])]
  obtain ⟨ha, hb, hc, hd⟩ := h
  simp only [Machine.ompRead, h1, h2, ha, hb, hc, hd, h3, h4, h5]
  rw [if_neg]
  simp [ht, hl]
  omega

theorem tag_length (key : Nat) (l : List Byte) : (ompTag key l).length = 32 := by
  unfold ompTag digest32
  generalize Config.kmac key l 256 "OMP1 tag" % 2 ^ 256 = v
  rfl

/-- What makes the header and body of a tagged message readable. -/
abbrev readable (ty n seq : Nat) (body : List Byte) : Prop :=
  let l := ompHeader ty n seq body.length 0 ++ body
  let h := beNat (l.take 24)
  l.length = 24 + body.length ∧ l.length ≤ 8160 ∧ (bits h 95 80 = body.length ∧ bits h 191 184 = 1 ∧ bits h 183 176 = ty
    ∧ bits h 175 160 = n) ∧ bits h 159 96 = seq ∧ (l.drop 24).take body.length = body

theorem read_mk {ty n seq key : Nat} {body : List Byte} (h : readable ty n seq body) :
    Machine.ompRead ty n (ompTagged key ty n seq 0 body)
      = some ⟨seq, body, ompHeader ty n seq body.length 0 ++ body, ompTag key (ompHeader ty n seq body.length 0 ++ body)⟩ := by
  obtain ⟨h1, h2, h3, h4, h5⟩ := h
  have := read_tagged (tag_length key (ompHeader ty n seq body.length 0 ++ body)) h1 h2 h3
  rw [h4, h5] at this
  exact this

/-- States and operands that meet the hypotheses of OperatorSessions_messages. -/
theorem witness_OperatorSessions_messages :
    os hyps_OperatorSessions_2 (S 2 []) 0 (mk 0x10 11 []) 5 (rd 0x10 11 []) []
    ∧ os hyps_OperatorSessions_3 (S 2 []) 0 (mk 0x10 11 opb) 5 (rd 0x10 11 opb) ((ompOps 64 opb).getD [])
    ∧ os hyps_OperatorSessions_4 (S 2 []) 0 (mk 0x10 10 []) 5 (rd 0x10 10 []) []
    ∧ os hyps_OperatorSessions_9 (S 2 []) 0 (mk 0x20 10 []) 5 (rd 0x20 10 []) [] := by
  refine ⟨?_, ?_, ?_, ?_⟩ <;> and_intros <;> first
    | decide +kernel
    | exact read_mk (key := 5) (by decide +kernel)
    | rfl

/-- Where signatures verify, a HELLO and a PROVE that meet the suppositions of their clauses exist. -/
theorem witness_OperatorSessions_signed (sig : ∀ k m g, Config.mldsaVerify k m g = true) :
    hyps_OperatorSessions_0 (on (W [(.fwmCoreState, 1, 0, 0, 2)]) (fun b => { b with sec := { b.sec with ident := [0], opKeys := [⟨[8], 1⟩] } }))
      0 42 hb [] 5 5 77 0 sess0 (rd 0x10 10 []) [8] []
    ∧ hyps_OperatorSessions_1 (S 1 []) 0 42 hb (mk 0x03 0 (List.replicate 2420 1)) 5 5 77 2 sess0 (rd 0x03 0 (List.replicate 2420 1)) [8] [] := by
  refine ⟨?_, ?_⟩ <;> and_intros <;> first
    | decide +kernel
    | exact read_mk (key := 5) (by decide +kernel)
    | exact sig _ _ _
    | rfl
    | (simp only [Box.certKey, sigOk, sig]; rfl)
end P23

namespace P24
/-- What clause 1 of SecurityStatements supposes. -/
abbrev hyps_SecurityStatements_0 (s : State) (src : Src) (h : Half) (m : Fin 32) (nonce : List Byte) (num id : BitVec 64) (purpose : BitVec 8)
    (plid floor : BitVec 32) (digest : BitVec 256) (pk root sig p : List Byte) (fl : List (BitVec 32)) : Prop :=
  s.ok ∧ (let b := s.box; b.secSigns = true ∧ h.val = b.secHalf ∧ 16 ≤ m.val ∧ m.val ≤ 19 ∧ nonce.length = 32)

/-- What clause 2 of SecurityStatements supposes. -/
abbrev hyps_SecurityStatements_1 (s : State) (src : Src) (h : Half) (m : Fin 32) (nonce : List Byte) (num id : BitVec 64) (purpose : BitVec 8)
    (plid floor : BitVec 32) (digest : BitVec 256) (pk root sig p : List Byte) (fl : List (BitVec 32)) : Prop :=
  s.ok ∧ (let b := s.box; b.secSigns = false)

/-- What clause 3 of SecurityStatements supposes. -/
abbrev hyps_SecurityStatements_2 (s : State) (src : Src) (h : Half) (m : Fin 32) (nonce : List Byte) (num id : BitVec 64) (purpose : BitVec 8)
    (plid floor : BitVec 32) (digest : BitVec 256) (pk root sig p : List Byte) (fl : List (BitVec 32)) : Prop :=
  s.ok ∧ (let b := s.box; let runs : Prop := b.secRuns = true; let rest := b.sec.opKeys.filter (fun (k : OpKey) => k.pk != pk); let body (add : Bool) := beBytes 8 num.toNat ++ [BitVec.ofNat 8 (flag add), BitVec.ofNat 8 purpose.toNat] ++ pk; let opSigned (add : Bool) : Prop := runs ∧ b.sec.stmt < num.toNat ∧ Machine.hash root = b.sec.root ∧ sigOk (some root) (body add) sig = true; opSigned true ∧ rest.length < 32)

/-- What clause 4 of SecurityStatements supposes. -/
abbrev hyps_SecurityStatements_3 (s : State) (src : Src) (h : Half) (m : Fin 32) (nonce : List Byte) (num id : BitVec 64) (purpose : BitVec 8)
    (plid floor : BitVec 32) (digest : BitVec 256) (pk root sig p : List Byte) (fl : List (BitVec 32)) : Prop :=
  s.ok ∧ (let b := s.box; let runs : Prop := b.secRuns = true; let body (add : Bool) := beBytes 8 num.toNat ++ [BitVec.ofNat 8 (flag add), BitVec.ofNat 8 purpose.toNat] ++ pk; let opSigned (add : Bool) : Prop := runs ∧ b.sec.stmt < num.toNat ∧ Machine.hash root = b.sec.root ∧ sigOk (some root) (body add) sig = true; opSigned false)

/-- What clause 5 of SecurityStatements supposes. -/
abbrev hyps_SecurityStatements_4 (s : State) (src : Src) (h : Half) (m : Fin 32) (nonce : List Byte) (num id : BitVec 64) (purpose : BitVec 8)
    (plid floor : BitVec 32) (digest : BitVec 256) (pk root sig p : List Byte) (fl : List (BitVec 32)) : Prop :=
  s.ok ∧ (let b := s.box; (num.toNat ≤ b.sec.stmt ∨ Machine.hash root ≠ b.sec.root))

/-- What clause 6 of SecurityStatements supposes. -/
abbrev hyps_SecurityStatements_5 (s : State) (src : Src) (h : Half) (m : Fin 32) (nonce : List Byte) (num id : BitVec 64) (purpose : BitVec 8)
    (plid floor : BitVec 32) (digest : BitVec 256) (pk root sig p : List Byte) (fl : List (BitVec 32)) : Prop :=
  s.ok ∧ (let b := s.box; let runs : Prop := b.secRuns = true; let rootSigned (l : List Byte) : Prop := runs ∧ plid.toNat = b.sec.plid ∧ Machine.hash root = Config.rootDigest % 2 ^ 256 ∧ sigOk (some root) l sig = true; rootSigned (beBytes 4 plid.toNat ++ digest32 digest.toNat))

/-- What clause 7 of SecurityStatements supposes. -/
abbrev hyps_SecurityStatements_6 (s : State) (src : Src) (h : Half) (m : Fin 32) (nonce : List Byte) (num id : BitVec 64) (purpose : BitVec 8)
    (plid floor : BitVec 32) (digest : BitVec 256) (pk root sig p : List Byte) (fl : List (BitVec 32)) : Prop :=
  s.ok ∧ (let b := s.box; let runs : Prop := b.secRuns = true; let rootSigned (l : List Byte) : Prop := runs ∧ plid.toNat = b.sec.plid ∧ Machine.hash root = Config.rootDigest % 2 ^ 256 ∧ sigOk (some root) l sig = true; rootSigned (beBytes 4 plid.toNat ++ fl.flatMap (fun v => leBytes 4 v.toNat)) ∧ fl.length = 7)

/-- What clause 8 of SecurityStatements supposes. -/
abbrev hyps_SecurityStatements_7 (s : State) (src : Src) (h : Half) (m : Fin 32) (nonce : List Byte) (num id : BitVec 64) (purpose : BitVec 8)
    (plid floor : BitVec 32) (digest : BitVec 256) (pk root sig p : List Byte) (fl : List (BitVec 32)) : Prop :=
  s.ok ∧ (let b := s.box; let runs : Prop := b.secRuns = true; b.isAgent src.toNat = true ∧ runs ∧ p.length = 32)

/-- What clause 9 of SecurityStatements supposes. -/
abbrev hyps_SecurityStatements_8 (s : State) (src : Src) (h : Half) (m : Fin 32) (nonce : List Byte) (num id : BitVec 64) (purpose : BitVec 8)
    (plid floor : BitVec 32) (digest : BitVec 256) (pk root sig p : List Byte) (fl : List (BitVec 32)) : Prop :=
  s.ok ∧ (let b := s.box; writer b src ∧ p.length ≠ 32)

/-- What clause 10 of SecurityStatements supposes. -/
abbrev hyps_SecurityStatements_9 (s : State) (src : Src) (h : Half) (m : Fin 32) (nonce : List Byte) (num id : BitVec 64) (purpose : BitVec 8)
    (plid floor : BitVec 32) (digest : BitVec 256) (pk root sig p : List Byte) (fl : List (BitVec 32)) : Prop :=
  s.ok ∧ (let b := s.box; let runs : Prop := b.secRuns = true; let mfrGood : Prop := p.length = 16 + 0x60 + 2420 ∧ p.take 4 = [0x4B, 0x41, 0x52, 0x32] ∧ leNat ((p.drop 4).take 2) = 7 ∧ leNat ((p.drop 6).take 2) = 0x60 ∧ beNat (((p.drop 16).take 0x60).take 4) = b.sec.plid ∧ sigOk (b.sec.keys.find 3) (p.take (16 + 0x60)) (p.drop (16 + 0x60)) = true; b.isAgent src.toNat = true ∧ runs ∧ mfrGood)

/-- What clause 11 of SecurityStatements supposes. -/
abbrev hyps_SecurityStatements_10 (s : State) (src : Src) (h : Half) (m : Fin 32) (nonce : List Byte) (num id : BitVec 64) (purpose : BitVec 8)
    (plid floor : BitVec 32) (digest : BitVec 256) (pk root sig p : List Byte) (fl : List (BitVec 32)) : Prop :=
  s.ok ∧ (let b := s.box; let mfrGood : Prop := p.length = 16 + 0x60 + 2420 ∧ p.take 4 = [0x4B, 0x41, 0x52, 0x32] ∧ leNat ((p.drop 4).take 2) = 7 ∧ leNat ((p.drop 6).take 2) = 0x60 ∧ beNat (((p.drop 16).take 0x60).take 4) = b.sec.plid ∧ sigOk (b.sec.keys.find 3) (p.take (16 + 0x60)) (p.drop (16 + 0x60)) = true; writer b src ∧ ¬mfrGood)

/-- What clause 12 of SecurityStatements supposes. -/
abbrev hyps_SecurityStatements_11 (s : State) (src : Src) (h : Half) (m : Fin 32) (nonce : List Byte) (num id : BitVec 64) (purpose : BitVec 8)
    (plid floor : BitVec 32) (digest : BitVec 256) (pk root sig p : List Byte) (fl : List (BitVec 32)) : Prop :=
  s.ok ∧ (let b := s.box; let runs : Prop := b.secRuns = true; b.isAgent src.toNat = true ∧ runs ∧ b.bundleFloor id.toNat < floor.toNat ∧ b.sec.bfloor.length < 1024)

/-- What clause 13 of SecurityStatements supposes. -/
abbrev hyps_SecurityStatements_12 (s : State) (src : Src) (h : Half) (m : Fin 32) (nonce : List Byte) (num id : BitVec 64) (purpose : BitVec 8)
    (plid floor : BitVec 32) (digest : BitVec 256) (pk root sig p : List Byte) (fl : List (BitVec 32)) : Prop :=
  s.ok ∧ (let b := s.box; writer b src ∧ floor.toNat ≤ b.bundleFloor id.toNat)

/-- What clause 1 of FlashAndBoot supposes. -/
abbrev hyps_FlashAndBoot_0 (s : State) (core : MCore) (addr : BitVec 28) (data : List Byte) (mv : BitVec 16) (h : Half) (sel : BitVec 1)
    (puf : Bool) (x : FlashOp) (img : List Byte) : Prop :=
  s.ok ∧ (let b := s.box; let mayWrite (a n : Nat) : Prop := flashRow a = flashRow (a + n - 1) ∧ b.bit .grdFlashWin (flashRow a) core = true; let held (need : Int) : Prop := b.sec.ops = [] ∧ b.get .secHuCapUf ≠ 0 ∧ need ≤ eAvail (b.get .secHuCapUf) mv.toNat ∧ b.get .pwrLoss ≠ 1; data ≠ [] ∧ data.length ≤ 256 ∧ mayWrite addr.toNat data.length ∧ held 330000000)

/-- What clause 2 of FlashAndBoot supposes. -/
abbrev hyps_FlashAndBoot_1 (s : State) (core : MCore) (addr : BitVec 28) (data : List Byte) (mv : BitVec 16) (h : Half) (sel : BitVec 1)
    (puf : Bool) (x : FlashOp) (img : List Byte) : Prop :=
  s.ok ∧ (let b := s.box; let page := addr.toNat / 4096 * 4096; let mayWrite (a n : Nat) : Prop := flashRow a = flashRow (a + n - 1) ∧ b.bit .grdFlashWin (flashRow a) core = true; let held (need : Int) : Prop := b.sec.ops = [] ∧ b.get .secHuCapUf ≠ 0 ∧ need ≤ eAvail (b.get .secHuCapUf) mv.toNat ∧ b.get .pwrLoss ≠ 1; mayWrite page 4096 ∧ held 825000000)

/-- What clause 3 of FlashAndBoot supposes. -/
abbrev hyps_FlashAndBoot_2 (s : State) (core : MCore) (addr : BitVec 28) (data : List Byte) (mv : BitVec 16) (h : Half) (sel : BitVec 1)
    (puf : Bool) (x : FlashOp) (img : List Byte) : Prop :=
  s.ok ∧ (let b := s.box; data ≠ [] ∧ data.length ≤ 256 ∧ b.bit .grdFlashWin (flashRow addr.toNat) core = false)

/-- What clause 4 of FlashAndBoot supposes. -/
abbrev hyps_FlashAndBoot_3 (s : State) (core : MCore) (addr : BitVec 28) (data : List Byte) (mv : BitVec 16) (h : Half) (sel : BitVec 1)
    (puf : Bool) (x : FlashOp) (img : List Byte) : Prop :=
  s.ok ∧ (let b := s.box; let page := addr.toNat / 4096 * 4096; let mayWrite (a n : Nat) : Prop := flashRow a = flashRow (a + n - 1) ∧ b.bit .grdFlashWin (flashRow a) core = true; b.sec.ops = [] ∧ b.get .secHuCapUf = 0 ∧ mayWrite page 4096 ∧ b.get .secHuRefuse < 2 ^ 32 - 1)

/-- What clause 5 of FlashAndBoot supposes. -/
abbrev hyps_FlashAndBoot_4 (s : State) (core : MCore) (addr : BitVec 28) (data : List Byte) (mv : BitVec 16) (h : Half) (sel : BitVec 1)
    (puf : Bool) (x : FlashOp) (img : List Byte) : Prop :=
  s.ok ∧ (let b := s.box; b.sec.ops = [x])

/-- What clause 6 of FlashAndBoot supposes. -/
abbrev hyps_FlashAndBoot_5 (s : State) (core : MCore) (addr : BitVec 28) (data : List Byte) (mv : BitVec 16) (h : Half) (sel : BitVec 1)
    (puf : Bool) (x : FlashOp) (img : List Byte) : Prop :=
  s.ok

/-- What clause 7 of FlashAndBoot supposes. -/
abbrev hyps_FlashAndBoot_6 (s : State) (core : MCore) (addr : BitVec 28) (data : List Byte) (mv : BitVec 16) (h : Half) (sel : BitVec 1)
    (puf : Bool) (x : FlashOp) (img : List Byte) : Prop :=
  s.ok ∧ (let b := s.box; b.sec.straps.find (1 - h) = some sel.toNat)

/-- What clause 8 of FlashAndBoot supposes. -/
abbrev hyps_FlashAndBoot_7 (s : State) (core : MCore) (addr : BitVec 28) (data : List Byte) (mv : BitVec 16) (h : Half) (sel : BitVec 1)
    (puf : Bool) (x : FlashOp) (img : List Byte) : Prop :=
  s.ok ∧ (let b := s.box; let cleared : Prop := b.sec.straps.find (1 - h) ≠ some sel.toNat; cleared ∧ b.bootStage 0 = none ∧ b.bootStage 1 = none)

/-- What clause 1 of GuestSites supposes. -/
abbrev hyps_GuestSites_0 (s : State) (src : Src) (h : Half) (id : BitVec 64) (hdr : BitVec 128) (data : List Byte) (w : BitVec 7) (c : Nat) : Prop :=
  s.ok ∧ (let b := s.box; let st := b.gstate h; b.glink h = false ∧ st ≠ gsFenced ∧ b.get .gstId h ≠ 0 ∧ b.get .gstId h = id.toNat)

/-- What clause 2 of GuestSites supposes. -/
abbrev hyps_GuestSites_1 (s : State) (src : Src) (h : Half) (id : BitVec 64) (hdr : BitVec 128) (data : List Byte) (w : BitVec 7) (c : Nat) : Prop :=
  s.ok ∧ (let b := s.box; let st := b.gstate h; b.glink h = false ∧ st ≠ gsFenced ∧ b.get .gstId h ≠ id.toNat)

/-- What clause 3 of GuestSites supposes. -/
abbrev hyps_GuestSites_2 (s : State) (src : Src) (h : Half) (id : BitVec 64) (hdr : BitVec 128) (data : List Byte) (w : BitVec 7) (c : Nat) : Prop :=
  s.ok ∧ (let b := s.box; let hd := hdr.toNat; let st := b.gstate h; st = gsRun ∧ b.firewall h hd 1 0 = .ok 1)

/-- What clause 4 of GuestSites supposes. -/
abbrev hyps_GuestSites_3 (s : State) (src : Src) (h : Half) (id : BitVec 64) (hdr : BitVec 128) (data : List Byte) (w : BitVec 7) (c : Nat) : Prop :=
  s.ok ∧ (let b := s.box; let hd := hdr.toNat; let st := b.gstate h; st = gsRun ∧ b.firewall h hd 1 0 = .error c ∧ c ≠ 1)

/-- What clause 5 of GuestSites supposes. -/
abbrev hyps_GuestSites_4 (s : State) (src : Src) (h : Half) (id : BitVec 64) (hdr : BitVec 128) (data : List Byte) (w : BitVec 7) (c : Nat) : Prop :=
  s.ok ∧ (let b := s.box; let hd := hdr.toNat; let st := b.gstate h; st = gsRun ∧ b.firewall h hd 1 0 = .error 1 ∧ b.get .gstViol h < 2 ^ 32 - 1)

/-- What clause 6 of GuestSites supposes. -/
abbrev hyps_GuestSites_5 (s : State) (src : Src) (h : Half) (id : BitVec 64) (hdr : BitVec 128) (data : List Byte) (w : BitVec 7) (c : Nat) : Prop :=
  s.ok ∧ (let b := s.box; let hd := hdr.toNat; let st := b.gstate h; let n := gLen hd; st = gsRun ∧ data.length = n ∧ b.firewall h hd 2 1 = .ok 1)

/-- What clause 7 of GuestSites supposes. -/
abbrev hyps_GuestSites_6 (s : State) (src : Src) (h : Half) (id : BitVec 64) (hdr : BitVec 128) (data : List Byte) (w : BitVec 7) (c : Nat) : Prop :=
  s.ok ∧ (let b := s.box; let hd := hdr.toNat; let st := b.gstate h; let n := gLen hd; let v := b.get .gstPostq h (gWin hd); let core := v % 128; let q := v / 128 % 8; st = gsRun ∧ gOp hd = 3 ∧ n = 64 ∧ data.length = 64 ∧ bits hd 47 0 = 0 ∧ gWin hd < 8 ∧ v / 1024 ≠ 0 ∧ (b.boundTo core q).isSome = true ∧ (b.wq core q).length < 64 ∧ b.waiters core q = [])

/-- What clause 8 of GuestSites supposes. -/
abbrev hyps_GuestSites_7 (s : State) (src : Src) (h : Half) (id : BitVec 64) (hdr : BitVec 128) (data : List Byte) (w : BitVec 7) (c : Nat) : Prop :=
  s.ok

/-- What clause 9 of GuestSites supposes. -/
abbrev hyps_GuestSites_8 (s : State) (src : Src) (h : Half) (id : BitVec 64) (hdr : BitVec 128) (data : List Byte) (w : BitVec 7) (c : Nat) : Prop :=
  s.ok ∧ (let b := s.box; let above : Prop := b.get .gstPwrMaxW h < w.toNat; (b.gsite h).throttle = true ∧ above)

/-- What clause 10 of GuestSites supposes. -/
abbrev hyps_GuestSites_9 (s : State) (src : Src) (h : Half) (id : BitVec 64) (hdr : BitVec 128) (data : List Byte) (w : BitVec 7) (c : Nat) : Prop :=
  s.ok ∧ (let b := s.box; let st := b.gstate h; writer b src ∧ st = gsReady)

/-- What clause 11 of GuestSites supposes. -/
abbrev hyps_GuestSites_10 (s : State) (src : Src) (h : Half) (id : BitVec 64) (hdr : BitVec 128) (data : List Byte) (w : BitVec 7) (c : Nat) : Prop :=
  s.ok ∧ (let b := s.box; let st := b.gstate h; writer b src ∧ st = gsRun)

/-- What clause 12 of GuestSites supposes. -/
abbrev hyps_GuestSites_11 (s : State) (src : Src) (h : Half) (id : BitVec 64) (hdr : BitVec 128) (data : List Byte) (w : BitVec 7) (c : Nat) : Prop :=
  s.ok ∧ (let b := s.box; let st := b.gstate h; writer b src ∧ st = gsFenced)

/-- What clause 13 of GuestSites supposes. -/
abbrev hyps_GuestSites_12 (s : State) (src : Src) (h : Half) (id : BitVec 64) (hdr : BitVec 128) (data : List Byte) (w : BitVec 7) (c : Nat) : Prop :=
  s.ok ∧ (let b := s.box; let st := b.gstate h; writer b src ∧ st ≠ gsReady)

/-- What clause 14 of GuestSites supposes. -/
abbrev hyps_GuestSites_13 (s : State) (src : Src) (h : Half) (id : BitVec 64) (hdr : BitVec 128) (data : List Byte) (w : BitVec 7) (c : Nat) : Prop :=
  s.ok ∧ (let b := s.box; let st := b.gstate h; writer b src ∧ st ≠ gsRun)

/-- What clause 15 of GuestSites supposes. -/
abbrev hyps_GuestSites_14 (s : State) (src : Src) (h : Half) (id : BitVec 64) (hdr : BitVec 128) (data : List Byte) (w : BitVec 7) (c : Nat) : Prop :=
  s.ok ∧ (let b := s.box; let st := b.gstate h; writer b src ∧ st ≠ gsFenced)

/-- What clause 16 of GuestSites supposes. -/
abbrev hyps_GuestSites_15 (s : State) (src : Src) (h : Half) (id : BitVec 64) (hdr : BitVec 128) (data : List Byte) (w : BitVec 7) (c : Nat) : Prop :=
  s.ok ∧ (let b := s.box; b.glink h = true)

/-- What clause 1 of BundleSlots supposes. -/
abbrev hyps_BundleSlots_0 (s : State) (sl : Fin 16) (img : List Byte) (x : Bundle) (cores : List (Nat × Nat × Nat)) (areas : Store Nat)
    (wins : List Window) (c : Nat) : Prop :=
  s.ok ∧ (let b := s.box; let st := b.get .rlyBundleState sl; let found := b.rly.bundles.find sl; b.secRuns = true ∧ st = 0 ∧ found = none ∧ b.bundleCause img = 0)

/-- What clause 2 of BundleSlots supposes. -/
abbrev hyps_BundleSlots_1 (s : State) (sl : Fin 16) (img : List Byte) (x : Bundle) (cores : List (Nat × Nat × Nat)) (areas : Store Nat)
    (wins : List Window) (c : Nat) : Prop :=
  s.ok ∧ (let b := s.box; let st := b.get .rlyBundleState sl; let found := b.rly.bundles.find sl; b.secRuns = true ∧ st = 0 ∧ found = none ∧ b.bundleCause img ≠ 0)

/-- What clause 3 of BundleSlots supposes. -/
abbrev hyps_BundleSlots_2 (s : State) (sl : Fin 16) (img : List Byte) (x : Bundle) (cores : List (Nat × Nat × Nat)) (areas : Store Nat)
    (wins : List Window) (c : Nat) : Prop :=
  s.ok ∧ (let b := s.box; let st := b.get .rlyBundleState sl; let found := b.rly.bundles.find sl; b.ctlRuns = true ∧ st = 0 ∧ found = some x ∧ b.placeCores x = .ok cores ∧ b.batonAreas x.baton = some areas ∧ b.placeWindows x.windows b.windowsUsed b.tagsUsed = some wins)

/-- What clause 4 of BundleSlots supposes. -/
abbrev hyps_BundleSlots_3 (s : State) (sl : Fin 16) (img : List Byte) (x : Bundle) (cores : List (Nat × Nat × Nat)) (areas : Store Nat)
    (wins : List Window) (c : Nat) : Prop :=
  s.ok ∧ (let b := s.box; let st := b.get .rlyBundleState sl; let found := b.rly.bundles.find sl; b.ctlRuns = true ∧ st = 0 ∧ found = some x ∧ b.placeCores x = .error c)

/-- What clause 5 of BundleSlots supposes. -/
abbrev hyps_BundleSlots_4 (s : State) (sl : Fin 16) (img : List Byte) (x : Bundle) (cores : List (Nat × Nat × Nat)) (areas : Store Nat)
    (wins : List Window) (c : Nat) : Prop :=
  s.ok ∧ (let b := s.box; let st := b.get .rlyBundleState sl; let found := b.rly.bundles.find sl; b.ctlRuns = true ∧ st = 1 ∧ found = some x)

def W (l : List (Reg × Nat × Nat × Nat × Nat)) : State := with_ r0 l
def A (l : List (Reg × Nat × Nat × Nat × Nat)) (f : SecSt → SecSt) : State := on (W ([(.fwmCoreState,1,0,0,2),(.fwmCoreState,0,0,0,2),(.memWinGib,0,0,0,8),(.mbxLeaseState,0,0,0,1),(.mbxLeaseSrcid,0,0,0,0x8005)] ++ l)) (fun b => {b with sec := f b.sec})
def root : List Byte := List.replicate 1312 1
abbrev ss (k : State → Src → Half → (Fin 32) → (List Byte) → (BitVec 64) → (BitVec 64) → (BitVec 8) → (BitVec 32) → (BitVec 32) → (BitVec 256) → (List Byte) → (List Byte) → (List Byte) → (List Byte) → (List (BitVec 32)) → Prop) (s : State) (src : Src) (m : Fin 32) (nonce : List Byte) (num : BitVec 64) (pl fl : BitVec 32) (pk p : List Byte) := k s src 0 m nonce num 77 6 pl fl 1312 pk root [5] p [1,2,3,4,5,6,7]
def mfr : List Byte := [0x4B, 0x41, 0x52, 0x32, 7, 0, 0x60, 0] ++ List.replicate 8 0 ++ beBytes 4 0 ++ List.replicate 92 3 ++ List.replicate 2420 1
def sess0 : Session := ⟨5, 6, 7, [1], [4], 10, [10], [], 3⟩
abbrev fb (k : State → MCore → (BitVec 28) → (List Byte) → (BitVec 16) → Half → (BitVec 1) → Bool → FlashOp → (List Byte) → Prop) (s : State) (core : MCore) (a : BitVec 28) (d : List Byte) (mv : BitVec 16) (x : FlashOp) (img : List Byte) := k s core a d mv 0 1 true x img
def op1 : FlashOp := ⟨1, 0x01000010, some [1,2,3], 3000⟩
def fl (l : List (Reg × Nat × Nat × Nat × Nat)) (f : SecSt → SecSt) : State := A ([(.grdFlashWin,1,0,0,0xFF),(.secHuCapUf,0,0,0,60000)] ++ l) f
/-- an image of the boot stage -/
def bimg : List Byte := [0x4B, 0x46, 0x57, 0x31, 0xB, 0, 0, 0] ++ leBytes 4 5 ++ leBytes 4 1312 ++ List.replicate 16 0 ++ leBytes 32 1312 ++ List.replicate (256-64) 0 ++ List.replicate (1312+2420) 0xFF
def stage (a : Nat) : State := fl [] (fun x => {x with flash := ((bimg.take 256).zip (List.range 256)).map (fun e => (a + e.2, e.1))})
def hdr (op len win addr : Nat) : BitVec 128 := BitVec.ofNat 128 (op * 2^124 + (len-1) * 2^116 + 0x21 * 2^108 + win * 2^104 + addr * 2^56)
def G (st : Nat) (l : List (Reg × Nat × Nat × Nat × Nat)) (f : Box → Box) : State := on (A ([(.gstState,0,0,0,st),(.gstId,0,0,0,77),(.gstWinKind,0,2,0,1),(.gstWinBase,0,2,0,batonAddr),(.gstWinSize,0,2,0,65536),(.gstWinRights,0,2,0,3),(.gstPwrMaxW,0,0,0,50)] ++ l) id) f
abbrev gs (k : State → Src → Half → (BitVec 64) → (BitVec 128) → (List Byte) → (BitVec 7) → Nat → Prop) (s : State) (src : Src) (id : BitVec 64) (hd : BitVec 128) (d : List Byte) (w : BitVec 7) (c : Nat) := k s src 0 id hd d w c
def bundleP : Bundle := { id := 7, ver := 1, digest := 0, cores := 1, threads := 1, scratchThr := 8192, consts := [], code := [], baton := 4096, groups := [⟨0, 1, 0, 0⟩], windows := [], sr := false, placed := [(0, 0, 0)], batonAt := [(0, 64)] }
abbrev bs (k : State → (Fin 16) → (List Byte) → Bundle → (List (Nat × Nat × Nat)) → (Store Nat) → (List Window) → Nat → Prop) (s : State) (img : List Byte) (x : Bundle) (co : List (Nat × Nat × Nat)) (ar : Store Nat) (ws : List Window) (c : Nat) := k s 0 img x co ar ws c
def kimg : List Byte := let z (n : Nat) : List Byte := List.replicate n 0
  [0x4B, 0x52, 0x42, 0x31] ++ leBytes 2 1 ++ leBytes 2 0 ++ leBytes 8 77 ++ leBytes 4 3 ++ leBytes 2 2 ++ leBytes 2 3 ++ leBytes 4 64 ++ leBytes 4 0 ++ leBytes 8 128 ++ leBytes 4 8 ++ [1,1] ++ leBytes 2 0 ++ z 16 ++ leBytes 32 8 ++ leBytes 32 3 ++ (leBytes 4 4 ++ [2,1,3] ++ z 9) ++ z 112 ++ ([1,3,0,0] ++ leBytes 8 4096 ++ z 4) ++ z (16*7) ++ z 128 ++ List.replicate 8 6 ++ List.replicate 2420 1
def x1 : Bundle := krbBundle kimg
def P (x : Bundle) (l : List (Reg × Nat × Nat × Nat × Nat)) : State := on (A l id) (fun b => { b with rly := { b.rly with bundles := [(0, x)] } })
def co1 := match (P x1 []).box.placeCores x1 with | .ok l => l | _ => []
def ar1 := ((P x1 []).box.batonAreas x1.baton).getD []
def ws1 := ((P x1 []).box.placeWindows x1.windows (P x1 []).box.windowsUsed (P x1 []).box.tagsUsed).getD []
def placed1 : State := match exec (.bundlePlace 0) (P x1 []) with | .next u => u | _ => r0

/-- States and operands that meet the hypotheses of SecurityStatements. -/
theorem witness_SecurityStatements :
    (ss hyps_SecurityStatements_1 (A [] (fun x => {x with stmt := 7})) 0x8005 17 (List.replicate 32 7) 5 0 9 [4] [1])
    ∧ (ss hyps_SecurityStatements_4 (A [] (fun x => {x with stmt := 7})) 0x8005 17 (List.replicate 32 7) 5 0 9 [4] [1])
    ∧ (ss hyps_SecurityStatements_8 (A [] (fun x => {x with stmt := 7})) 0x8005 17 (List.replicate 32 7) 5 0 9 [4] [1])
    ∧ (ss hyps_SecurityStatements_10 (A [] (fun x => {x with stmt := 7})) 0x8005 17 (List.replicate 32 7) 5 0 9 [4] [1])
    ∧ (ss hyps_SecurityStatements_11 (A [] (fun x => {x with stmt := 7})) 0x8005 17 (List.replicate 32 7) 5 0 9 [4] [1])
    ∧ (ss hyps_SecurityStatements_0 (A [] (fun x => {x with ident := [0], root := 1312})) 0x8005 17 (List.replicate 32 7) 5 0 9 [4] (List.replicate 32 1))
    ∧ (ss hyps_SecurityStatements_7 (A [] (fun x => {x with ident := [0], root := 1312})) 0x8005 17 (List.replicate 32 7) 5 0 9 [4] (List.replicate 32 1))
    ∧ (ss hyps_SecurityStatements_12 (A [] (fun x => {x with root := 1312, stmt := 7, bfloor := [(77,10)]})) 0x8005 17 (List.replicate 32 7) 5 0 9 [4] [1]) := by
  refine ⟨?_, ?_, ?_, ?_, ?_, ?_, ?_, ?_⟩ <;>
    first
    | decide +kernel
    | (and_intros <;> first | decide +kernel | (refine ok_of ?_; decide +kernel) | (refine error_of ?_; decide +kernel) | (refine ok_pair ?_ rfl; decide +kernel) | rfl)

/-- States and operands that meet the hypotheses of FlashAndBoot. -/
theorem witness_FlashAndBoot :
    (fb hyps_FlashAndBoot_0 (fl [] id) 1 0x01000010 [1,2,3] 48000 op1 [])
    ∧ (fb hyps_FlashAndBoot_1 (fl [] id) 1 0x01000010 [1,2,3] 48000 op1 [])
    ∧ (fb hyps_FlashAndBoot_5 (fl [] id) 1 0x01000010 [1,2,3] 48000 op1 [])
    ∧ (fb hyps_FlashAndBoot_7 (fl [] id) 1 0x01000010 [1,2,3] 48000 op1 [])
    ∧ (fb hyps_FlashAndBoot_3 (fl [(.secHuCapUf,0,0,0,0)] (fun x => {x with ops := [], straps := [(1,1)]})) 1 0x01000010 [1,2,3] 48000 op1 [])
    ∧ (fb hyps_FlashAndBoot_6 (fl [(.secHuCapUf,0,0,0,0)] (fun x => {x with ops := [], straps := [(1,1)]})) 1 0x01000010 [1,2,3] 48000 op1 [])
    ∧ (fb hyps_FlashAndBoot_2 (fl [] id) 9 0x01000010 [1,2,3] 48000 op1 [])
    ∧ (fb hyps_FlashAndBoot_4 (fl [(.secHuCapUf,0,0,0,0)] (fun x => {x with ops := [op1], straps := [(1,0)]})) 1 0x01000010 [1,2,3] 48000 op1 []) := by
  refine ⟨?_, ?_, ?_, ?_, ?_, ?_, ?_, ?_⟩ <;>
    first
    | decide +kernel
    | (and_intros <;> first | decide +kernel | (refine ok_of ?_; decide +kernel) | (refine error_of ?_; decide +kernel) | (refine ok_pair ?_ rfl; decide +kernel) | rfl)

/-- States and operands that meet the hypotheses of GuestSites. -/
theorem witness_GuestSites :
    (gs hyps_GuestSites_4 (G 3 [] id) 0 77 (hdr 1 16 2 64) [1] 60 2)
    ∧ (gs hyps_GuestSites_7 (G 3 [] id) 0 77 (hdr 1 16 2 64) [1] 60 2)
    ∧ (gs hyps_GuestSites_10 (G 3 [] id) 0 77 (hdr 1 16 2 64) [1] 60 2)
    ∧ (gs hyps_GuestSites_12 (G 3 [] id) 0 77 (hdr 1 16 2 64) [1] 60 2)
    ∧ (gs hyps_GuestSites_14 (G 3 [] id) 0 77 (hdr 1 16 2 64) [1] 60 2)
    ∧ (gs hyps_GuestSites_15 (G 3 [] id) 0 77 (hdr 1 16 2 64) [1] 60 2)
    ∧ (gs hyps_GuestSites_8 (G 2 [] (fun b => b.setGsite 0 (fun g => {g with throttle := true}))) 0 77 (hdr 3 64 4 0) (List.replicate 64 5) 60 2)
    ∧ (gs hyps_GuestSites_9 (G 2 [] (fun b => b.setGsite 0 (fun g => {g with throttle := true}))) 0 77 (hdr 3 64 4 0) (List.replicate 64 5) 60 2)
    ∧ (gs hyps_GuestSites_13 (G 2 [] (fun b => b.setGsite 0 (fun g => {g with throttle := true}))) 0 77 (hdr 3 64 4 0) (List.replicate 64 5) 60 2)
    ∧ (gs hyps_GuestSites_0 (G 0 [] id) 0 77 (hdr 1 16 2 batonAddr) [1] 20 1)
    ∧ (gs hyps_GuestSites_1 (G 0 [] id) 0 76 (hdr 1 16 2 batonAddr) [1] 60 1)
    ∧ (gs hyps_GuestSites_2 (G 3 [] id) 0 77 (hdr 1 16 2 (batonAddr+64)) [1] 60 1)
    ∧ (gs hyps_GuestSites_3 (G 3 [(.gstWinRights,0,2,0,0)] id) 0 77 (hdr 1 16 2 (batonAddr+64)) [1] 60 2)
    ∧ (gs hyps_GuestSites_5 (G 3 [] id) 0x8005 77 (hdr 2 16 2 (batonAddr+64)) (List.replicate 16 5) 60 2)
    ∧ (gs hyps_GuestSites_11 (G 4 [] (fun b => b.setGsite 0 (fun g => {g with throttle := true, railOff := true}))) 0 77 (hdr 3 64 4 0) (List.replicate 64 5) 20 2)
    ∧ (gs hyps_GuestSites_6 (G 3 [(.gstPostq,0,4,0,1024+5*128+0),(.rlyWqBundle,0,5,0,0)] (fun b => { b with rly := { b.rly with bundles := [(0, bundleP)] } })) 0 77 (hdr 3 64 4 0) (List.replicate 64 5) 60 2) := by
  refine ⟨?_, ?_, ?_, ?_, ?_, ?_, ?_, ?_, ?_, ?_, ?_, ?_, ?_, ?_, ?_, ?_⟩ <;>
    first
    | decide +kernel
    | (and_intros <;> first | decide +kernel | (refine ok_of ?_; decide +kernel) | (refine error_of ?_; decide +kernel) | (refine ok_pair ?_ rfl; decide +kernel) | rfl)

/-- States and operands that meet the hypotheses of BundleSlots. -/
theorem witness_BundleSlots :
    (bs hyps_BundleSlots_2 (P x1 []) kimg x1 co1 ar1 ws1 0)
    ∧ (bs hyps_BundleSlots_1 (A [] id) [] bundleP [] [] [] 0)
    ∧ (bs hyps_BundleSlots_4 placed1 kimg ((placed1.box.rly.bundles.find 0).getD x1) co1 ar1 ws1 5)
    ∧ (bs hyps_BundleSlots_3 (P {x1 with threads := 17} []) kimg {x1 with threads := 17} co1 ar1 ws1 4) := by
  refine ⟨?_, ?_, ?_, ?_⟩ <;>
    first
    | decide +kernel
    | (and_intros <;> first | decide +kernel | (refine ok_of ?_; decide +kernel) | (refine error_of ?_; decide +kernel) | (refine ok_pair ?_ rfl; decide +kernel) | rfl)

/-- Where signatures verify and the root key is the one in the mask ROM, the statements and records that SEC takes exist. -/
theorem witness_SecurityStatements_signed (sig : ∀ k m g, Config.mldsaVerify k m g = true)
    (rom : Machine.hash root = Config.rootDigest % 2 ^ 256) :
    ss hyps_SecurityStatements_2 (A [] (fun x => { x with root := Machine.hash root })) 0 17 [] 5 0 9 [4] []
    ∧ ss hyps_SecurityStatements_3 (A [] (fun x => { x with root := Machine.hash root })) 0 17 [] 5 0 9 [4] []
    ∧ ss hyps_SecurityStatements_5 (A [] id) 0 17 [] 5 0 9 [4] []
    ∧ ss hyps_SecurityStatements_6 (A [] id) 0 17 [] 5 0 9 [4] []
    ∧ ss hyps_SecurityStatements_9 (A [] (fun x => { x with keys := [(3, [7])] })) 0x8005 17 [] 5 0 9 [4] mfr := by
  refine ⟨?_, ?_, ?_, ?_, ?_⟩ <;> and_intros <;> first
    | decide +kernel
    | exact sig _ _ _
    | exact rom
    | rfl

/-- Where the signature verifies and the hashes fit, a bundle image has no cause for refusal. -/
theorem bundle_accepted {b : Box} {img k : List Byte} {c : Nat} (sig : ∀ k m g, Config.mldsaVerify k m g = true)
    (hk : Machine.hash k = krb img 0x60 32) (hb : b.bundleKeys = [k]) (hc : Machine.hash (krbCode img ++ krbConsts img) = c)
    (h : 512 + 2420 ≤ img.length ∧ b.bundleFloor (krb img 8 8) ≤ krb img 0x10 4 ∧ krbOk img = true ∧ krb img 0x40 32 = c) :
    b.bundleCause img = 0 := by
  obtain ⟨h1, h2, h3, h4⟩ := h
  simp [Box.bundleCause, hb, hk, sigOk, sig, Nat.not_lt.mpr h1, Nat.not_lt.mpr h2, h3, hc, h4]

/-- States and operands that meet the hypotheses of BundleSlots_signed. -/
theorem witness_BundleSlots_signed (sig : ∀ k m g, Config.mldsaVerify k m g = true) (key : Machine.hash [1, 2, 3] = 3)
    (code : Machine.hash (krbCode kimg ++ krbConsts kimg) = 8) :
    bs hyps_BundleSlots_0 (A [] (fun x => { x with keys := [(1, [1, 2, 3])] })) kimg bundleP [] [] [] 0 := by
  refine ⟨?_, ?_, ?_, ?_, bundle_accepted sig (key.trans ?_) (k := [1, 2, 3]) ?_ code ?_⟩ <;> decide +kernel
end P24

namespace P25
/-- What clause 1 of ManagementCores supposes. -/
abbrev hyps_ManagementCores_0 (s : State) (src : Src) (n : MCore) (r : Fin 3) (rr : Fin 5) (h : Half) (cmd : BitVec 20) (v : BitVec 64) (k : Nat)
    (l : LogRec) : Prop :=
  s.ok ∧ (let b := s.box; let asks : Prop := b.isAgent src.toNat = true ∨ src.toNat = b.acting 0 ∨ src.toNat = n.val; writer b src ∧ asks ∧ b.cst n ≠ coreOff)

/-- What clause 2 of ManagementCores supposes. -/
abbrev hyps_ManagementCores_1 (s : State) (src : Src) (n : MCore) (r : Fin 3) (rr : Fin 5) (h : Half) (cmd : BitVec 20) (v : BitVec 64) (k : Nat)
    (l : LogRec) : Prop :=
  s.ok ∧ (let b := s.box; let asks : Prop := b.isAgent src.toNat = true ∨ src.toNat = b.acting 0 ∨ src.toNat = n.val; writer b src ∧ asks ∧ b.cst n = coreOff)

/-- What clause 3 of ManagementCores supposes. -/
abbrev hyps_ManagementCores_2 (s : State) (src : Src) (n : MCore) (r : Fin 3) (rr : Fin 5) (h : Half) (cmd : BitVec 20) (v : BitVec 64) (k : Nat)
    (l : LogRec) : Prop :=
  s.ok ∧ (let b := s.box; let asks : Prop := b.isAgent src.toNat = true ∨ src.toNat = b.acting 0 ∨ src.toNat = n.val; writer b src ∧ ¬asks)

/-- What clause 4 of ManagementCores supposes. -/
abbrev hyps_ManagementCores_3 (s : State) (src : Src) (n : MCore) (r : Fin 3) (rr : Fin 5) (h : Half) (cmd : BitVec 20) (v : BitVec 64) (k : Nat)
    (l : LogRec) : Prop :=
  s.ok ∧ (let b := s.box; (b.cst n = coreBoot ∨ b.cst n = coreAgain) ∧ b.fwm.acts = [])

/-- What clause 5 of ManagementCores supposes. -/
abbrev hyps_ManagementCores_4 (s : State) (src : Src) (n : MCore) (r : Fin 3) (rr : Fin 5) (h : Half) (cmd : BitVec 20) (v : BitVec 64) (k : Nat)
    (l : LogRec) : Prop :=
  s.ok ∧ (let b := s.box; writer b src)

/-- What clause 6 of ManagementCores supposes. -/
abbrev hyps_ManagementCores_5 (s : State) (src : Src) (n : MCore) (r : Fin 3) (rr : Fin 5) (h : Half) (cmd : BitVec 20) (v : BitVec 64) (k : Nat)
    (l : LogRec) : Prop :=
  s.ok ∧ (let b := s.box; (b.cst n = coreActs ∨ b.cst n = coreBench) ∧ b.fwm.runs.find n = none ∧ b.fwm.restarts.at n [] = [])

/-- What clause 7 of ManagementCores supposes. -/
abbrev hyps_ManagementCores_6 (s : State) (src : Src) (n : MCore) (r : Fin 3) (rr : Fin 5) (h : Half) (cmd : BitVec 20) (v : BitVec 64) (k : Nat)
    (l : LogRec) : Prop :=
  s.ok ∧ (let b := s.box; (b.cst n = coreBoot ∨ b.cst n = coreAgain) ∧ b.fwm.acts = [] ∧ b.fwm.runs.find n = none ∧ b.fwm.restarts.at n [] = [])

/-- What clause 8 of ManagementCores supposes. -/
abbrev hyps_ManagementCores_7 (s : State) (src : Src) (n : MCore) (r : Fin 3) (rr : Fin 5) (h : Half) (cmd : BitVec 20) (v : BitVec 64) (k : Nat)
    (l : LogRec) : Prop :=
  s.ok ∧ (let b := s.box; (b.acting r = r.val ∨ b.acting r = r.val + 5) ∧ b.cst (b.acting r) = coreFailed ∧ b.cst (b.benchOf r) = coreBench)

/-- What clause 9 of ManagementCores supposes. -/
abbrev hyps_ManagementCores_8 (s : State) (src : Src) (n : MCore) (r : Fin 3) (rr : Fin 5) (h : Half) (cmd : BitVec 20) (v : BitVec 64) (k : Nat)
    (l : LogRec) : Prop :=
  s.ok ∧ (let b := s.box; b.cst (b.acting r) = coreActs ∧ b.cst (b.benchOf r) = coreBench)

/-- What clause 10 of ManagementCores supposes. -/
abbrev hyps_ManagementCores_9 (s : State) (src : Src) (n : MCore) (r : Fin 3) (rr : Fin 5) (h : Half) (cmd : BitVec 20) (v : BitVec 64) (k : Nat)
    (l : LogRec) : Prop :=
  s.ok ∧ (let b := s.box; b.isAgent src.toNat = true ∧ rr < 3 ∧ b.acting rr = rr.val + 5 ∧ b.cst rr = coreBench)

/-- What clause 11 of ManagementCores supposes. -/
abbrev hyps_ManagementCores_10 (s : State) (src : Src) (n : MCore) (r : Fin 3) (rr : Fin 5) (h : Half) (cmd : BitVec 20) (v : BitVec 64) (k : Nat)
    (l : LogRec) : Prop :=
  s.ok ∧ (let b := s.box; let c := n.val / 5; (b.logQ c).length < 256)

/-- What clause 12 of ManagementCores supposes. -/
abbrev hyps_ManagementCores_11 (s : State) (src : Src) (n : MCore) (r : Fin 3) (rr : Fin 5) (h : Half) (cmd : BitVec 20) (v : BitVec 64) (k : Nat)
    (l : LogRec) : Prop :=
  s.ok ∧ (let b := s.box; let c := n.val / 5; 256 ≤ (b.logQ c).length)

/-- What clause 13 of ManagementCores supposes. -/
abbrev hyps_ManagementCores_12 (s : State) (src : Src) (n : MCore) (r : Fin 3) (rr : Fin 5) (h : Half) (cmd : BitVec 20) (v : BitVec 64) (k : Nat)
    (l : LogRec) : Prop :=
  s.ok ∧ (let b := s.box; b.logWaiting h = some (k, l))

/-- What clause 14 of ManagementCores supposes. -/
abbrev hyps_ManagementCores_13 (s : State) (src : Src) (n : MCore) (r : Fin 3) (rr : Fin 5) (h : Half) (cmd : BitVec 20) (v : BitVec 64) (k : Nat)
    (l : LogRec) : Prop :=
  s.ok ∧ (let b := s.box; let c := n.val / 5; b.bit .fwmCoreTpEn (v.toNat / 2 ^ 58) n = true ∧ (b.logQ c).length ≤ 128)

/-- What clause 15 of ManagementCores supposes. -/
abbrev hyps_ManagementCores_14 (s : State) (src : Src) (n : MCore) (r : Fin 3) (rr : Fin 5) (h : Half) (cmd : BitVec 20) (v : BitVec 64) (k : Nat)
    (l : LogRec) : Prop :=
  s.ok ∧ (let b := s.box; let c := n.val / 5; b.bit .fwmCoreTpEn (v.toNat / 2 ^ 58) n = true ∧ 128 < (b.logQ c).length)

/-- What clause 1 of FirmwareImages supposes. -/
abbrev hyps_FirmwareImages_0 (s : State) (src : Src) (slot : Fin 10) (img : List Byte) (b1 : Box) (t : Nat) : Prop :=
  s.ok ∧ (let b := s.box; let st := b.get .fwmImgState slot; let role := slot.val / 2; b.secRuns = true ∧ (st = 0 ∨ st = 2 ∨ st = 9) ∧ b.imageOk role img = true)

/-- What clause 2 of FirmwareImages supposes. -/
abbrev hyps_FirmwareImages_1 (s : State) (src : Src) (slot : Fin 10) (img : List Byte) (b1 : Box) (t : Nat) : Prop :=
  s.ok ∧ (let b := s.box; let role := slot.val / 2; b.imageOk role img = false)

/-- What clause 3 of FirmwareImages supposes. -/
abbrev hyps_FirmwareImages_2 (s : State) (src : Src) (slot : Fin 10) (img : List Byte) (b1 : Box) (t : Nat) : Prop :=
  s.ok ∧ (let b := s.box; let st := b.get .fwmImgState slot; let lap := b.get .fwmImgActLap slot; writer b src ∧ st = 2 ∧ b.lap + 3 ≤ lap ∧ (b.put .fwmImgCmd 1 slot).calArm lap 5 slot = some b1)

/-- What clause 4 of FirmwareImages supposes. -/
abbrev hyps_FirmwareImages_3 (s : State) (src : Src) (slot : Fin 10) (img : List Byte) (b1 : Box) (t : Nat) : Prop :=
  s.ok ∧ (let b := s.box; let st := b.get .fwmImgState slot; let lap := b.get .fwmImgActLap slot; writer b src ∧ (st ≠ 2 ∨ lap < b.lap + 3))

/-- What clause 5 of FirmwareImages supposes. -/
abbrev hyps_FirmwareImages_4 (s : State) (src : Src) (slot : Fin 10) (img : List Byte) (b1 : Box) (t : Nat) : Prop :=
  s.ok ∧ (let b := s.box; let st := b.get .fwmImgState slot; writer b src ∧ (st = 3 ∨ st = 4))

/-- What clause 6 of FirmwareImages supposes. -/
abbrev hyps_FirmwareImages_5 (s : State) (src : Src) (slot : Fin 10) (img : List Byte) (b1 : Box) (t : Nat) : Prop :=
  s.ok ∧ (let b := s.box; let st := b.get .fwmImgState slot; writer b src ∧ st = 7)

/-- What clause 7 of FirmwareImages supposes. -/
abbrev hyps_FirmwareImages_6 (s : State) (src : Src) (slot : Fin 10) (img : List Byte) (b1 : Box) (t : Nat) : Prop :=
  s.ok ∧ (let b := s.box; let st := b.get .fwmImgState slot; let ver := b.get .fwmImgVer slot; writer b src ∧ st = 7 ∧ ver < 2 ^ 32)

/-- What clause 8 of FirmwareImages supposes. -/
abbrev hyps_FirmwareImages_7 (s : State) (src : Src) (slot : Fin 10) (img : List Byte) (b1 : Box) (t : Nat) : Prop :=
  s.ok ∧ (let b := s.box; let st := b.get .fwmImgState slot; writer b src ∧ st ≠ 7)

/-- What clause 9 of FirmwareImages supposes. -/
abbrev hyps_FirmwareImages_8 (s : State) (src : Src) (slot : Fin 10) (img : List Byte) (b1 : Box) (t : Nat) : Prop :=
  s.ok ∧ (let b := s.box; b.fwm.deferred.find slot = some t ∧ b.get .fwmEmerg ≠ 0)

def W (l : List (Reg × Nat × Nat × Nat × Nat)) : State := with_ r0 l
def up (l : List (Reg × Nat × Nat × Nat × Nat)) : State := on (W ((List.range 10).map (fun n => (.fwmCoreState,n,0,0, if n<5 then 2 else 3)) ++ [(.mbxLeaseState,0,0,0,1),(.mbxLeaseSrcid,0,0,0,0x8005)] ++ l)) (fun b => {b with now := 500000*2^40})
def lr : LogRec := ⟨5,6,7,0,1,2,0,9⟩
abbrev mc (k : State → Src → MCore → (Fin 3) → (Fin 5) → Half → (BitVec 20) → (BitVec 64) → Nat → LogRec → Prop) (s : State) (src : Src) (n : MCore) (r : Fin 3) (rr : Fin 5) (h : Half) (kk : Nat) := k s src n r rr h 0x30007 (5*2^58 + 77) kk lr
def img : List Byte := [0x4B, 0x46, 0x57, 0x31, 1, 0, 0, 0] ++ leBytes 4 5 ++ leBytes 4 1500 ++ List.replicate 16 0 ++ leBytes 32 1312 ++ List.replicate (256-64) 0 ++ List.replicate 1500 1 ++ List.replicate 2420 2
abbrev fi (k : State → Src → (Fin 10) → (List Byte) → Box → Nat → Prop) (s : State) (src : Src) (sl : Fin 10) (img : List Byte) (t : Nat) := k s src sl img ((Box.calArm (s.box.put .fwmImgCmd 1 sl.val) (s.box.get .fwmImgActLap sl) 5 sl).getD s.box) t
def upK (l : List (Reg × Nat × Nat × Nat × Nat)) := on (up l) (fun b => {b with sec := {b.sec with keys := [(0,List.replicate 1312 0)]}})

/-- States and operands that meet the hypotheses of ManagementCores. -/
theorem witness_ManagementCores :
    (mc hyps_ManagementCores_0 (on (up [(.fwmCoreTpEn,3,0,0,2^5)]) (fun b => {b with fwm := {b.fwm with logq := [(0,List.replicate 256 lr)], logWait := [(3,lr)]}})) 0x8005 3 1 1 0 3)
    ∧ (mc hyps_ManagementCores_4 (on (up [(.fwmCoreTpEn,3,0,0,2^5)]) (fun b => {b with fwm := {b.fwm with logq := [(0,List.replicate 256 lr)], logWait := [(3,lr)]}})) 0x8005 3 1 1 0 3)
    ∧ (mc hyps_ManagementCores_5 (on (up [(.fwmCoreTpEn,3,0,0,2^5)]) (fun b => {b with fwm := {b.fwm with logq := [(0,List.replicate 256 lr)], logWait := [(3,lr)]}})) 0x8005 3 1 1 0 3)
    ∧ (mc hyps_ManagementCores_8 (on (up [(.fwmCoreTpEn,3,0,0,2^5)]) (fun b => {b with fwm := {b.fwm with logq := [(0,List.replicate 256 lr)], logWait := [(3,lr)]}})) 0x8005 3 1 1 0 3)
    ∧ (mc hyps_ManagementCores_11 (on (up [(.fwmCoreTpEn,3,0,0,2^5)]) (fun b => {b with fwm := {b.fwm with logq := [(0,List.replicate 256 lr)], logWait := [(3,lr)]}})) 0x8005 3 1 1 0 3)
    ∧ (mc hyps_ManagementCores_12 (on (up [(.fwmCoreTpEn,3,0,0,2^5)]) (fun b => {b with fwm := {b.fwm with logq := [(0,List.replicate 256 lr)], logWait := [(3,lr)]}})) 0x8005 3 1 1 0 3)
    ∧ (mc hyps_ManagementCores_14 (on (up [(.fwmCoreTpEn,3,0,0,2^5)]) (fun b => {b with fwm := {b.fwm with logq := [(0,List.replicate 256 lr)], logWait := [(3,lr)]}})) 0x8005 3 1 1 0 3)
    ∧ (mc hyps_ManagementCores_3 (up [(.fwmCoreState,6,0,0,4)]) 0 6 0 0 0 3)
    ∧ (mc hyps_ManagementCores_6 (up [(.fwmCoreState,6,0,0,4)]) 0 6 0 0 0 3)
    ∧ (mc hyps_ManagementCores_10 (up [(.fwmCoreState,6,0,0,4)]) 0 6 0 0 0 3)
    ∧ (mc hyps_ManagementCores_2 (up []) 7 3 0 0 0 3)
    ∧ (mc hyps_ManagementCores_1 (up [(.fwmCoreState,3,0,0,0)]) 0 3 0 0 0 3)
    ∧ (mc hyps_ManagementCores_7 (up [(.fwmCoreState,1,0,0,5)]) 0 6 1 0 0 3)
    ∧ (mc hyps_ManagementCores_13 (on (up [(.fwmCoreTpEn,3,0,0,2^5)]) id) 0x8005 3 1 1 0 3)
    ∧ (mc hyps_ManagementCores_9 (up [(.fwmRoleCore,1,0,0,6),(.fwmCoreState,1,0,0,3),(.fwmCoreState,6,0,0,2)]) 0x8005 6 1 1 0 3) := by
  refine ⟨?_, ?_, ?_, ?_, ?_, ?_, ?_, ?_, ?_, ?_, ?_, ?_, ?_, ?_, ?_⟩ <;>
    first
    | decide +kernel
    | (and_intros <;> first | decide +kernel | (refine ok_of ?_; decide +kernel) | (refine error_of ?_; decide +kernel) | (refine ok_pair ?_ rfl; decide +kernel) | rfl)

/-- States and operands that meet the hypotheses of FirmwareImages. -/
theorem witness_FirmwareImages :
    (fi hyps_FirmwareImages_3 (on (upK [(.fwmImgState,2,0,0,4),(.fwmEmerg,0,0,0,1),(.fwmImgActLap,2,0,0,1)]) (fun b => {b with fwm := {b.fwm with deferred := [(2,5)]}})) 0 2 img 5)
    ∧ (fi hyps_FirmwareImages_4 (on (upK [(.fwmImgState,2,0,0,4),(.fwmEmerg,0,0,0,1),(.fwmImgActLap,2,0,0,1)]) (fun b => {b with fwm := {b.fwm with deferred := [(2,5)]}})) 0 2 img 5)
    ∧ (fi hyps_FirmwareImages_7 (on (upK [(.fwmImgState,2,0,0,4),(.fwmEmerg,0,0,0,1),(.fwmImgActLap,2,0,0,1)]) (fun b => {b with fwm := {b.fwm with deferred := [(2,5)]}})) 0 2 img 5)
    ∧ (fi hyps_FirmwareImages_8 (on (upK [(.fwmImgState,2,0,0,4),(.fwmEmerg,0,0,0,1),(.fwmImgActLap,2,0,0,1)]) (fun b => {b with fwm := {b.fwm with deferred := [(2,5)]}})) 0 2 img 5)
    ∧ (fi hyps_FirmwareImages_5 (upK [(.fwmImgState,2,0,0,7),(.fwmImgState,3,0,0,8),(.fwmImgVer,2,0,0,9),(.secFloor,1,0,0,3)]) 0 2 img 5)
    ∧ (fi hyps_FirmwareImages_6 (upK [(.fwmImgState,2,0,0,7),(.fwmImgState,3,0,0,8),(.fwmImgVer,2,0,0,9),(.secFloor,1,0,0,3)]) 0 2 img 5)
    ∧ (fi hyps_FirmwareImages_1 (up []) 0 2 [] 5)
    ∧ (fi hyps_FirmwareImages_2 (upK [(.fwmImgState,2,0,0,2),(.fwmImgActLap,2,0,0,40)]) 0 2 (img.drop 1) 5) := by
  refine ⟨?_, ?_, ?_, ?_, ?_, ?_, ?_, ?_⟩ <;>
    first
    | decide +kernel
    | (and_intros <;> first | decide +kernel | (refine ok_of ?_; decide +kernel) | (refine error_of ?_; decide +kernel) | (refine ok_pair ?_ rfl; decide +kernel) | rfl)

/-- Where its signature verifies and the key's hash fits, an image is accepted. -/
theorem image_accepted {b : Box} {role : Nat} {img k : List Byte} (sig : ∀ k m g, Config.mldsaVerify k m g = true)
    (hk : Machine.hash k = imgField img 0x20 32) (hb : b.sec.keys.find 0 = some k)
    (h : headerOk role (img.take 256) = true ∧ img.length = imgLen img ∧ b.get .secFloor role ≤ imgVer img
      ∧ imgManifest img ≤ b.sec.manifestVer ∧ imgField img 0x18 4 ≤ 1) : b.imageOk role img = true := by
  obtain ⟨h1, h2, h3, h4, h5⟩ := h
  simp [Box.imageOk, imgSigned, hb, hk, sigOk, sig, h1, ← h2, h3, h4, h5]

/-- States and operands that meet the hypotheses of FirmwareImages_signed. -/
theorem witness_FirmwareImages_signed (sig : ∀ k m g, Config.mldsaVerify k m g = true)
    (key : Machine.hash (List.replicate 1312 0) = 1312) :
    fi hyps_FirmwareImages_0 (upK []) 0 2 img 5 := by
  refine ⟨?_, ?_, ?_, image_accepted sig (key.trans ?_) (k := List.replicate 1312 0) ?_ ?_⟩ <;> decide +kernel
end P25

namespace P26
/-- What clause 1 of MarshalLinks supposes. -/
abbrev hyps_MarshalLinks_0 (s : State) (src : Src) (m : BitVec 8) (f : Fibre) (sl : Slot) (pl : BitVec 256) (w : Fin 9) (e : ErrRec) (x : LinkCase) : Prop :=
  s.ok ∧ (let b := s.box; writer b src ∧ b.mar.errq.find m.toNat = some e ∧ b.mar.storm = [])

/-- What clause 2 of MarshalLinks supposes. -/
abbrev hyps_MarshalLinks_1 (s : State) (src : Src) (m : BitVec 8) (f : Fibre) (sl : Slot) (pl : BitVec 256) (w : Fin 9) (e : ErrRec) (x : LinkCase) : Prop :=
  s.ok ∧ (let b := s.box; writer b src ∧ b.mar.errq.find m.toNat = none)

/-- What clause 3 of MarshalLinks supposes. -/
abbrev hyps_MarshalLinks_2 (s : State) (src : Src) (m : BitVec 8) (f : Fibre) (sl : Slot) (pl : BitVec 256) (w : Fin 9) (e : ErrRec) (x : LinkCase) : Prop :=
  s.ok

/-- What clause 4 of MarshalLinks supposes. -/
abbrev hyps_MarshalLinks_3 (s : State) (src : Src) (m : BitVec 8) (f : Fibre) (sl : Slot) (pl : BitVec 256) (w : Fin 9) (e : ErrRec) (x : LinkCase) : Prop :=
  s.ok ∧ (let b := s.box; let cw := linkW pl.toNat; b.mrOn = true ∧ b.get .marSuspect ≤ 2 * b.linkPts f cw)

/-- What clause 5 of MarshalLinks supposes. -/
abbrev hyps_MarshalLinks_4 (s : State) (src : Src) (m : BitVec 8) (f : Fibre) (sl : Slot) (pl : BitVec 256) (w : Fin 9) (e : ErrRec) (x : LinkCase) : Prop :=
  s.ok ∧ (let b := s.box; let cw := linkW pl.toNat; (b.mrOn = false ∨ 2 * b.linkPts f cw < b.get .marSuspect))

/-- What clause 6 of MarshalLinks supposes. -/
abbrev hyps_MarshalLinks_5 (s : State) (src : Src) (m : BitVec 8) (f : Fibre) (sl : Slot) (pl : BitVec 256) (w : Fin 9) (e : ErrRec) (x : LinkCase) : Prop :=
  s.ok

/-- What clause 7 of MarshalLinks supposes. -/
abbrev hyps_MarshalLinks_6 (s : State) (src : Src) (m : BitVec 8) (f : Fibre) (sl : Slot) (pl : BitVec 256) (w : Fin 9) (e : ErrRec) (x : LinkCase) : Prop :=
  s.ok ∧ (let b := s.box; b.linkCase f w = some x ∧ x.agreed = false ∧ x.ours = true)

/-- What clause 8 of MarshalLinks supposes. -/
abbrev hyps_MarshalLinks_7 (s : State) (src : Src) (m : BitVec 8) (f : Fibre) (sl : Slot) (pl : BitVec 256) (w : Fin 9) (e : ErrRec) (x : LinkCase) : Prop :=
  s.ok ∧ (let b := s.box; b.linkCase f w = some x ∧ x.agreed = true ∧ w.val < 8 ∧ b.optRuns (halfOf w) = false ∧ b.hasSpare f w = false ∧ b.laneIdle f w = false)

/-- What clause 9 of MarshalLinks supposes. -/
abbrev hyps_MarshalLinks_8 (s : State) (src : Src) (m : BitVec 8) (f : Fibre) (sl : Slot) (pl : BitVec 256) (w : Fin 9) (e : ErrRec) (x : LinkCase) : Prop :=
  s.ok ∧ (let b := s.box; b.linkCase f w = some x ∧ x.agreed = true ∧ w = 8)

/-- What clause 1 of MarshalCases supposes. -/
abbrev hyps_MarshalCases_0 (s : State) (pl : BitVec 256) (c : Fin 64) (x : CaseSt) (v : Verdict) : Prop :=
  s.ok ∧ (let b := s.box; let subj := bits pl.toNat 191 160; b.keeps subj = true ∧ b.openCase subj = none ∧ (upTo 64).find? (fun k => b.get .marCaseState k == 0) = some c.val ∧ 2 ≤ b.get .marQuorum)

/-- What clause 2 of MarshalCases supposes. -/
abbrev hyps_MarshalCases_1 (s : State) (pl : BitVec 256) (c : Fin 64) (x : CaseSt) (v : Verdict) : Prop :=
  s.ok ∧ (let b := s.box; let subj := bits pl.toNat 191 160; b.keeps subj = false)

/-- What clause 3 of MarshalCases supposes. -/
abbrev hyps_MarshalCases_2 (s : State) (pl : BitVec 256) (c : Fin 64) (x : CaseSt) (v : Verdict) : Prop :=
  s.ok ∧ (let b := s.box; let subj := bits pl.toNat 191 160; let arrived : Verdict := ⟨bits pl.toNat 215 208, subj, bits pl.toNat 63 32, bits pl.toNat 127 64⟩; b.ns ≤ arrived.applyT)

/-- What clause 4 of MarshalCases supposes. -/
abbrev hyps_MarshalCases_3 (s : State) (pl : BitVec 256) (c : Fin 64) (x : CaseSt) (v : Verdict) : Prop :=
  s.ok ∧ (let b := s.box; b.mar.verdicts = [v] ∧ v.code = 1 ∧ v.subj ∉ b.mar.expelled ∧ b.sparesFree v.subj ≠ [] ∧ b.ledgerCount v.applyT < b.get .marBudget)

/-- What clause 5 of MarshalCases supposes. -/
abbrev hyps_MarshalCases_4 (s : State) (pl : BitVec 256) (c : Fin 64) (x : CaseSt) (v : Verdict) : Prop :=
  s.ok ∧ (let b := s.box; b.mar.verdicts = [v] ∧ v.code = 1 ∧ v.subj ∉ b.mar.expelled ∧ b.sparesFree v.subj ≠ [] ∧ b.get .marBudget ≤ b.ledgerCount v.applyT)

/-- What clause 6 of MarshalCases supposes. -/
abbrev hyps_MarshalCases_5 (s : State) (pl : BitVec 256) (c : Fin 64) (x : CaseSt) (v : Verdict) : Prop :=
  s.ok ∧ (let b := s.box; b.get .marCaseState c ∈ [1, 2, 3])

/-- What clause 7 of MarshalCases supposes. -/
abbrev hyps_MarshalCases_6 (s : State) (pl : BitVec 256) (c : Fin 64) (x : CaseSt) (v : Verdict) : Prop :=
  s.ok ∧ (let b := s.box; b.case_ c = some x ∧ x.summarised = false ∧ b.get .marFmFeid ≠ 0)

/-- What clause 8 of MarshalCases supposes. -/
abbrev hyps_MarshalCases_7 (s : State) (pl : BitVec 256) (c : Fin 64) (x : CaseSt) (v : Verdict) : Prop :=
  s.ok ∧ (let b := s.box; b.mrOn = true ∧ b.get .marFmFeid ≠ 0)

/-- What clause 9 of MarshalCases supposes. -/
abbrev hyps_MarshalCases_8 (s : State) (pl : BitVec 256) (c : Fin 64) (x : CaseSt) (v : Verdict) : Prop :=
  s.ok

/-- What clause 10 of MarshalCases supposes. -/
abbrev hyps_MarshalCases_9 (s : State) (pl : BitVec 256) (c : Fin 64) (x : CaseSt) (v : Verdict) : Prop :=
  s.ok ∧ (let b := s.box; let sender := bits pl.toNat 255 224; b.mrOn = true ∧ b.isSelf (b.keeperOf sender) = true ∧ b.openCase sender = none)

/-- What clause 11 of MarshalCases supposes. -/
abbrev hyps_MarshalCases_10 (s : State) (pl : BitVec 256) (c : Fin 64) (x : CaseSt) (v : Verdict) : Prop :=
  s.ok ∧ (let b := s.box; let sender := bits pl.toNat 255 224; b.mrOn = true ∧ b.isSelf (b.keeperOf sender) = true ∧ (b.openCase sender).isSome = true)

/-- What clause 12 of MarshalCases supposes. -/
abbrev hyps_MarshalCases_11 (s : State) (pl : BitVec 256) (c : Fin 64) (x : CaseSt) (v : Verdict) : Prop :=
  s.ok ∧ (let b := s.box; b.get .marSelfState = mrProb)

/-- What clause 13 of MarshalCases supposes. -/
abbrev hyps_MarshalCases_12 (s : State) (pl : BitVec 256) (c : Fin 64) (x : CaseSt) (v : Verdict) : Prop :=
  s.ok ∧ (let b := s.box; b.get .marSelfState ≠ mrProb)

def W (l : List (Reg × Nat × Nat × Nat × Nat)) : State := on (with_ r0 l) (fun b => {b with now := 500000000*2^40})
def er : ErrRec := ⟨1,2,0,3,4,5,6,7,8,9,10⟩
abbrev ml (k : State → Src → (BitVec 8) → Fibre → Slot → (BitVec 256) → (Fin 9) → ErrRec → LinkCase → Prop) (s : State) (src : Src) (m : BitVec 8) (f : Fibre) (pl : BitVec 256) (w : Fin 9) (e : ErrRec) (x : LinkCase) := k s src m f 3 pl w e x
def pay (typ code w subj ns pts led : Nat) : BitVec 256 := BitVec.ofNat 256 (0x77 * 2^224 + typ * 2^216 + code * 2^208 + w * 2^192 + subj * 2^160 + ns*2^64 + pts*2^32 + led)
def lc : LinkCase := ⟨5, 3, 600, true, true⟩
def cs : CaseSt := ⟨9, [(1,5)], 4, 5, false⟩
def mb : List (Reg × Nat × Nat × Nat × Nat) := [(.marMemberN,0,0,0,2),(.marMemberPlid,1,0,0,0x66),(.marMemberFeid,1,0,0,300),(.marFmFeid,0,0,0,400),(.marSpareSubj,3,0,0,9),(.marSpareFeidLo,3,0,0,500),(.marSpareFeidCnt,3,0,0,2)]
abbrev ms (k : State → (BitVec 256) → (Fin 64) → CaseSt → Verdict → Prop) (s : State) (pl : BitVec 256) (c : Fin 64) (x : CaseSt) (v : Verdict) := k s pl c x v
def mb2 : List (Reg × Nat × Nat × Nat × Nat) := [(.marMemberN,0,0,0,2),(.marMemberPlid,0,0,0,0x66),(.marMemberFeid,0,0,0,300)]

/-- States and operands that meet the hypotheses of MarshalLinks. -/
theorem witness_MarshalLinks :
    (ml hyps_MarshalLinks_1 (on (W [(.prtLaneState,5,3,0,lnUp)]) (fun b => {b with mar := {b.mar with links := [{lc with w := 8},{lc with f := 6}], lanePts := [(43,60000)], lanePrev := [(43,9),(44,2)]}})) 0 7 5 (pay 0x14 2 3 9 600 0 0) 8 er {lc with w := 8})
    ∧ (ml hyps_MarshalLinks_2 (on (W [(.prtLaneState,5,3,0,lnUp)]) (fun b => {b with mar := {b.mar with links := [{lc with w := 8},{lc with f := 6}], lanePts := [(43,60000)], lanePrev := [(43,9),(44,2)]}})) 0 7 5 (pay 0x14 2 3 9 600 0 0) 8 er {lc with w := 8})
    ∧ (ml hyps_MarshalLinks_4 (on (W [(.prtLaneState,5,3,0,lnUp)]) (fun b => {b with mar := {b.mar with links := [{lc with w := 8},{lc with f := 6}], lanePts := [(43,60000)], lanePrev := [(43,9),(44,2)]}})) 0 7 5 (pay 0x14 2 3 9 600 0 0) 8 er {lc with w := 8})
    ∧ (ml hyps_MarshalLinks_5 (on (W [(.prtLaneState,5,3,0,lnUp)]) (fun b => {b with mar := {b.mar with links := [{lc with w := 8},{lc with f := 6}], lanePts := [(43,60000)], lanePrev := [(43,9),(44,2)]}})) 0 7 5 (pay 0x14 2 3 9 600 0 0) 8 er {lc with w := 8})
    ∧ (ml hyps_MarshalLinks_8 (on (W [(.prtLaneState,5,3,0,lnUp)]) (fun b => {b with mar := {b.mar with links := [{lc with w := 8},{lc with f := 6}], lanePts := [(43,60000)], lanePrev := [(43,9),(44,2)]}})) 0 7 5 (pay 0x14 2 3 9 600 0 0) 8 er {lc with w := 8})
    ∧ (ml hyps_MarshalLinks_3 (on (W [(.prtLaneState,5,3,0,lnUp),(.marMemberN,0,0,0,2),(.marLnScore,43,0,0,60000)]) (fun b => {b with mar := {b.mar with links := [lc,{lc with f := 6}], lanePts := [(43,60000)], lanePrev := [(43,9),(44,2)]}})) 0 7 5 (pay 0x14 1 3 9 600 0 0) 3 er lc)
    ∧ (ml hyps_MarshalLinks_7 (on (W [(.prtLaneState,5,3,0,lnUp),(.marMemberN,0,0,0,2),(.marLnScore,43,0,0,60000)]) (fun b => {b with mar := {b.mar with links := [lc,{lc with f := 6}], lanePts := [(43,60000)], lanePrev := [(43,9),(44,2)]}})) 0 7 5 (pay 0x14 1 3 9 600 0 0) 3 er lc)
    ∧ (ml hyps_MarshalLinks_0 (on (W []) (fun b => {b with mar := {b.mar with errq := [(7,er),(9,er)], lanePts := [(43,5)], lanePrev := [(43,9),(44,2)], portPts := [(3,9)]}})) 0 7 5 (pay 0x14 1 3 9 600 0 0) 3 er lc)
    ∧ (ml hyps_MarshalLinks_6 (on (W [(.prtLaneState,5,3,0,lnUp)]) (fun b => {b with mar := {b.mar with links := [{lc with agreed := false},{lc with f := 6}], lanePts := [(43,60000)], lanePrev := [(43,9),(44,2)]}})) 0 7 5 (pay 0x14 1 3 9 600 0 0) 3 er {lc with agreed := false}) := by
  refine ⟨?_, ?_, ?_, ?_, ?_, ?_, ?_, ?_, ?_⟩ <;>
    first
    | decide +kernel
    | (and_intros <;> first | decide +kernel | (refine ok_of ?_; decide +kernel) | (refine error_of ?_; decide +kernel) | (refine ok_pair ?_ rfl; decide +kernel) | rfl)

/-- States and operands that meet the hypotheses of MarshalCases. -/
theorem witness_MarshalCases :
    (ms hyps_MarshalCases_2 (on (W (mb ++ [(.marCaseState,0,0,0,1),(.marCaseSubj,0,0,0,9)])) (fun b => {b with mar := {b.mar with verdicts := [⟨1,9,0,7⟩], cases := [(0,cs)]}})) (pay 0x10 1 3 9 600000000 0 0) 0 cs ⟨1,9,0,7⟩)
    ∧ (ms hyps_MarshalCases_3 (on (W (mb ++ [(.marCaseState,0,0,0,1),(.marCaseSubj,0,0,0,9)])) (fun b => {b with mar := {b.mar with verdicts := [⟨1,9,0,7⟩], cases := [(0,cs)]}})) (pay 0x10 1 3 9 600000000 0 0) 0 cs ⟨1,9,0,7⟩)
    ∧ (ms hyps_MarshalCases_5 (on (W (mb ++ [(.marCaseState,0,0,0,1),(.marCaseSubj,0,0,0,9)])) (fun b => {b with mar := {b.mar with verdicts := [⟨1,9,0,7⟩], cases := [(0,cs)]}})) (pay 0x10 1 3 9 600000000 0 0) 0 cs ⟨1,9,0,7⟩)
    ∧ (ms hyps_MarshalCases_6 (on (W (mb ++ [(.marCaseState,0,0,0,1),(.marCaseSubj,0,0,0,9)])) (fun b => {b with mar := {b.mar with verdicts := [⟨1,9,0,7⟩], cases := [(0,cs)]}})) (pay 0x10 1 3 9 600000000 0 0) 0 cs ⟨1,9,0,7⟩)
    ∧ (ms hyps_MarshalCases_7 (on (W (mb ++ [(.marCaseState,0,0,0,1),(.marCaseSubj,0,0,0,9)])) (fun b => {b with mar := {b.mar with verdicts := [⟨1,9,0,7⟩], cases := [(0,cs)]}})) (pay 0x10 1 3 9 600000000 0 0) 0 cs ⟨1,9,0,7⟩)
    ∧ (ms hyps_MarshalCases_8 (on (W (mb ++ [(.marCaseState,0,0,0,1),(.marCaseSubj,0,0,0,9)])) (fun b => {b with mar := {b.mar with verdicts := [⟨1,9,0,7⟩], cases := [(0,cs)]}})) (pay 0x10 1 3 9 600000000 0 0) 0 cs ⟨1,9,0,7⟩)
    ∧ (ms hyps_MarshalCases_12 (on (W (mb ++ [(.marCaseState,0,0,0,1),(.marCaseSubj,0,0,0,9)])) (fun b => {b with mar := {b.mar with verdicts := [⟨1,9,0,7⟩], cases := [(0,cs)]}})) (pay 0x10 1 3 9 600000000 0 0) 0 cs ⟨1,9,0,7⟩)
    ∧ (ms hyps_MarshalCases_1 (on (W mb2) (fun b => {b with mar := {b.mar with status := [(0x66,(500000000,0))]}})) (pay 0x10 1 3 1 600000000 0 0) 0 cs ⟨1,9,0,7⟩)
    ∧ (ms hyps_MarshalCases_9 (on (W mb2) (fun b => {b with mar := {b.mar with status := [(0x66,(500000000,0))]}})) (pay 0x10 1 3 1 600000000 0 0) 0 cs ⟨1,9,0,7⟩)
    ∧ (ms hyps_MarshalCases_4 (on (W (mb ++ [(.marCaseState,0,0,0,1),(.marCaseSubj,0,0,0,0x77),(.marBudget,0,0,0,0),(.marSelfState,0,0,0,1)])) (fun b => {b with mar := {b.mar with verdicts := [⟨1,9,0,7⟩], cases := [(0,cs)]}})) (pay 0x10 1 3 9 600000000 0 0) 0 cs ⟨1,9,0,7⟩)
    ∧ (ms hyps_MarshalCases_11 (on (W (mb ++ [(.marCaseState,0,0,0,1),(.marCaseSubj,0,0,0,0x77),(.marBudget,0,0,0,0),(.marSelfState,0,0,0,1)])) (fun b => {b with mar := {b.mar with verdicts := [⟨1,9,0,7⟩], cases := [(0,cs)]}})) (pay 0x10 1 3 9 600000000 0 0) 0 cs ⟨1,9,0,7⟩)
    ∧ (ms hyps_MarshalCases_0 (W mb) (pay 0x10 1 3 9 600000000 0 0) 0 cs ⟨1,9,0,7⟩)
    ∧ (ms hyps_MarshalCases_10 (on (W (mb2++[(.marCaseState,0,0,0,1),(.marCaseSubj,0,0,0,0x77)])) (fun b => {b with mar := {b.mar with status := [(0x66,(500000000,0))]}})) (pay 0x10 1 3 2 600000000 0 0) 0 cs ⟨1,9,0,7⟩) := by
  refine ⟨?_, ?_, ?_, ?_, ?_, ?_, ?_, ?_, ?_, ?_, ?_, ?_, ?_⟩ <;>
    first
    | decide +kernel
    | (and_intros <;> first | decide +kernel | (refine ok_of ?_; decide +kernel) | (refine error_of ?_; decide +kernel) | (refine ok_pair ?_ rfl; decide +kernel) | rfl)
end P26

namespace P27
/-- What clause 1 of GroupCommands supposes. -/
abbrev hyps_GroupCommands_0 (s : State) (src : Src) (n : Fin 16) (addr : BitVec 48) (data : BitVec 64) (x : Hit) : Prop :=
  s.ok ∧ writer s.box src ∧ (let b := s.box; b.mayOpen n = true)

/-- What clause 2 of GroupCommands supposes. -/
abbrev hyps_GroupCommands_1 (s : State) (src : Src) (n : Fin 16) (addr : BitVec 48) (data : BitVec 64) (x : Hit) : Prop :=
  s.ok ∧ writer s.box src ∧ (let b := s.box; b.mayOpen n = false)

/-- What clause 3 of GroupCommands supposes. -/
abbrev hyps_GroupCommands_2 (s : State) (src : Src) (n : Fin 16) (addr : BitVec 48) (data : BitVec 64) (x : Hit) : Prop :=
  s.ok ∧ writer s.box src ∧ (let b := s.box; let st := b.cgState n; st = cgOpen)

/-- What clause 4 of GroupCommands supposes. -/
abbrev hyps_GroupCommands_3 (s : State) (src : Src) (n : Fin 16) (addr : BitVec 48) (data : BitVec 64) (x : Hit) : Prop :=
  s.ok ∧ writer s.box src ∧ (let b := s.box; let st := b.cgState n; st ≠ cgOpen)

/-- What clause 5 of GroupCommands supposes. -/
abbrev hyps_GroupCommands_4 (s : State) (src : Src) (n : Fin 16) (addr : BitVec 48) (data : BitVec 64) (x : Hit) : Prop :=
  s.ok ∧ writer s.box src ∧ (let b := s.box; let st := b.cgState n; let a := b.get .timCgStageAddr n; st = cgOpen ∧ inTables a = false ∧ Machine.locate a = some x ∧ x.staged = true ∧ b.get .timCgWrites n < 4096)

/-- What clause 6 of GroupCommands supposes. -/
abbrev hyps_GroupCommands_5 (s : State) (src : Src) (n : Fin 16) (addr : BitVec 48) (data : BitVec 64) (x : Hit) : Prop :=
  s.ok ∧ writer s.box src ∧ (let b := s.box; let st := b.cgState n; let a := b.get .timCgStageAddr n; st = cgOpen ∧ inTables a = false ∧ Machine.locate a = some x ∧ x.staged = false)

/-- What clause 7 of GroupCommands supposes. -/
abbrev hyps_GroupCommands_6 (s : State) (src : Src) (n : Fin 16) (addr : BitVec 48) (data : BitVec 64) (x : Hit) : Prop :=
  s.ok ∧ writer s.box src ∧ (let b := s.box; let st := b.cgState n; let a := b.get .timCgStageAddr n; st = cgOpen ∧ inTables a = true ∧ a % 8 = 0 ∧ b.get .timCgBytes n + 8 ≤ 2 ^ 20)

/-- What clause 8 of GroupCommands supposes. -/
abbrev hyps_GroupCommands_7 (s : State) (src : Src) (n : Fin 16) (addr : BitVec 48) (data : BitVec 64) (x : Hit) : Prop :=
  s.ok ∧ writer s.box src ∧ (let b := s.box; let st := b.cgState n; st = cgOpen)

/-- What clause 9 of GroupCommands supposes. -/
abbrev hyps_GroupCommands_8 (s : State) (src : Src) (n : Fin 16) (addr : BitVec 48) (data : BitVec 64) (x : Hit) : Prop :=
  s.ok ∧ writer s.box src ∧ (let b := s.box; let st := b.cgState n; (st = cgOpen ∨ st = cgBroken))

/-- What clause 10 of GroupCommands supposes. -/
abbrev hyps_GroupCommands_9 (s : State) (src : Src) (n : Fin 16) (addr : BitVec 48) (data : BitVec 64) (x : Hit) : Prop :=
  s.ok ∧ writer s.box src ∧ (let b := s.box; let st := b.cgState n; st ≠ cgOpen ∧ st ≠ cgBroken)

/-- What clause 11 of GroupCommands supposes. -/
abbrev hyps_GroupCommands_10 (s : State) (src : Src) (n : Fin 16) (addr : BitVec 48) (data : BitVec 64) (x : Hit) : Prop :=
  s.ok ∧ writer s.box src ∧ (let b := s.box; let st := b.cgState n; (st = cgCommitted ∨ st = cgAborted))

/-- What clause 12 of GroupCommands supposes. -/
abbrev hyps_GroupCommands_11 (s : State) (src : Src) (n : Fin 16) (addr : BitVec 48) (data : BitVec 64) (x : Hit) : Prop :=
  s.ok ∧ writer s.box src ∧ (let b := s.box; let st := b.cgState n; let g := b.cg n; st = cgInDoubt ∧ g.resolve = false)

/-- What clause 13 of GroupCommands supposes. -/
abbrev hyps_GroupCommands_12 (s : State) (src : Src) (n : Fin 16) (addr : BitVec 48) (data : BitVec 64) (x : Hit) : Prop :=
  s.ok ∧ writer s.box src ∧ (let b := s.box; let st := b.cgState n; st ≠ cgInDoubt)

/-- What clause 1 of GroupOutcomes supposes. -/
abbrev hyps_GroupOutcomes_0 (s : State) (n : Fin 16) (grp : Fin 256) (lap : BitVec 54) (v16 : BitVec 16) (seq : BitVec 32) (v : Nat) (b1 : Box) : Prop :=
  s.ok ∧ (let b := s.box; let st := b.cgState n; let g := b.cg n; let r := b.sealCheck n; st = cgSealed ∧ r.1 = false ∧ r.2.1 = false ∧ g.cast = none ∧ g.doomed = false)

/-- What clause 2 of GroupOutcomes supposes. -/
abbrev hyps_GroupOutcomes_1 (s : State) (n : Fin 16) (grp : Fin 256) (lap : BitVec 54) (v16 : BitVec 16) (seq : BitVec 32) (v : Nat) (b1 : Box) : Prop :=
  s.ok ∧ (let b := s.box; let st := b.cgState n; let r := b.sealCheck n; st = cgSealed ∧ (r.1 = true ∨ r.2.1 = true))

/-- What clause 3 of GroupOutcomes supposes. -/
abbrev hyps_GroupOutcomes_2 (s : State) (n : Fin 16) (grp : Fin 256) (lap : BitVec 54) (v16 : BitVec 16) (seq : BitVec 32) (v : Nat) (b1 : Box) : Prop :=
  s.ok ∧ (let b := s.box; b.closeVote grp lap.toNat = (some v, b1) ∧ b.tim.votePos < 4096)

/-- What clause 4 of GroupOutcomes supposes. -/
abbrev hyps_GroupOutcomes_3 (s : State) (n : Fin 16) (grp : Fin 256) (lap : BitVec 54) (v16 : BitVec 16) (seq : BitVec 32) (v : Nat) (b1 : Box) : Prop :=
  s.ok ∧ (let b := s.box; let st := b.cgState n; let g := b.cg n; let mine : Prop := g.voting = true ∧ g.grp = v16.toNat ∧ g.lap % 2 ^ 32 = seq.toNat; st = cgVoted ∧ g.outcome = none ∧ mine)

/-- What clause 5 of GroupOutcomes supposes. -/
abbrev hyps_GroupOutcomes_4 (s : State) (n : Fin 16) (grp : Fin 256) (lap : BitVec 54) (v16 : BitVec 16) (seq : BitVec 32) (v : Nat) (b1 : Box) : Prop :=
  s.ok ∧ (let b := s.box; let st := b.cgState n; let g := b.cg n; let mine : Prop := g.voting = true ∧ g.grp = v16.toNat ∧ g.lap % 2 ^ 32 = seq.toNat; st = cgInDoubt ∧ g.resolve = false ∧ mine)

/-- What clause 6 of GroupOutcomes supposes. -/
abbrev hyps_GroupOutcomes_5 (s : State) (n : Fin 16) (grp : Fin 256) (lap : BitVec 54) (v16 : BitVec 16) (seq : BitVec 32) (v : Nat) (b1 : Box) : Prop :=
  s.ok

def W (l : List (Reg × Nat × Nat × Nat × Nat)) : State := on (with_ r0 l) (fun b => {b with now := 500000000*2^40})
abbrev gc (k : State → Src → (Fin 16) → (BitVec 48) → (BitVec 64) → Hit → Prop) (s : State) (n : Fin 16) (addr : BitVec 48) (x : Hit) := k s 0 n addr 0x1234 x
def L (l : List (Reg × Nat × Nat × Nat × Nat)) : State := W ([(.mbxLeaseState,0,0,0,1),(.timCgCommitLap,2,0,0,31000),(.timCgVoteGrp,2,0,0,0xFFFF)] ++ l)
def aR : Nat := Reg.addr .timVoteCloseNs
def aC : Nat := Reg.addr .marErrqCnt
def hR := (locate aR).getD ⟨[],0,0,0,0⟩
def hC := (locate aC).getD ⟨[],0,0,0,0⟩
abbrev go (k : State → (Fin 16) → (Fin 256) → (BitVec 54) → (BitVec 16) → (BitVec 32) → Nat → Box → Prop) (s : State) (n : Fin 16) (grp : Fin 256) (lap : BitVec 54) (v16 : BitVec 16) (seq : BitVec 32) := let r := s.box.closeVote grp lap.toNat; k s n grp lap v16 seq (r.1.getD 7) r.2
def up3 : List (Reg × Nat × Nat × Nat × Nat) := [(.prtLaneState,5,3,0,lnUp),(.prtLaneFecMode,5,3,0,1),(.prtLaneState,5,2,0,lnUp),(.prtLaneFecMode,5,2,0,1),(.fwdSvcFeidEn,0,0,0,1),(.fwdSvcFeid,0,0,0,99)]
def vg : List (Reg × Nat × Nat × Nat × Nat) := up3 ++ [(.sprGrpCtrl,5,0,0,7),(.sprGrpOp,5,0,0,2),(.sprGrpFmt,5,0,0,fInt8),(.sprGrpOrder,5,0,0,0x24),(.sprGrpAxI,5,0,0,5*512+16),(.sprGrpAxP,5,0,0,512+16),(.sprGrpAxG,5,0,0,16),(.sprGrpRanks,5,0,0,4),(.sprGrpNelemMax,5,0,0,1),(.sprGrpLines,5,0,0,4)]

/-- States and operands that meet the hypotheses of GroupCommands. -/
theorem witness_GroupCommands :
    (gc hyps_GroupCommands_1 (L [(.timCgState,2,0,0,cgOpen),(.timCgStageAddr,2,0,0,aR)]) 2 77 hR)
    ∧ (gc hyps_GroupCommands_2 (L [(.timCgState,2,0,0,cgOpen),(.timCgStageAddr,2,0,0,aR)]) 2 77 hR)
    ∧ (gc hyps_GroupCommands_4 (L [(.timCgState,2,0,0,cgOpen),(.timCgStageAddr,2,0,0,aR)]) 2 77 hR)
    ∧ (gc hyps_GroupCommands_7 (L [(.timCgState,2,0,0,cgOpen),(.timCgStageAddr,2,0,0,aR)]) 2 77 hR)
    ∧ (gc hyps_GroupCommands_8 (L [(.timCgState,2,0,0,cgOpen),(.timCgStageAddr,2,0,0,aR)]) 2 77 hR)
    ∧ (gc hyps_GroupCommands_12 (L [(.timCgState,2,0,0,cgOpen),(.timCgStageAddr,2,0,0,aR)]) 2 77 hR)
    ∧ (gc hyps_GroupCommands_0 (L []) 2 77 hR)
    ∧ (gc hyps_GroupCommands_3 (L []) 2 77 hR)
    ∧ (gc hyps_GroupCommands_9 (L []) 2 77 hR)
    ∧ (gc hyps_GroupCommands_10 (L [(.timCgState,2,0,0,cgCommitted)]) 2 77 hC)
    ∧ (gc hyps_GroupCommands_6 (L [(.timCgState,2,0,0,cgOpen),(.timCgStageAddr,2,0,0,tableWindow)]) 2 77 hC)
    ∧ (gc hyps_GroupCommands_11 (L [(.timCgState,2,0,0,cgInDoubt),(.timCalState,7,0,0,1),(.timCalAction,7,0,0,1),(.timCalArg,7,0,0,2)]) 2 77 hC)
    ∧ (gc hyps_GroupCommands_5 (L [(.timCgState,2,0,0,cgOpen),(.timCgStageAddr,2,0,0,aC),(.timCalState,7,0,0,1),(.timCalAction,7,0,0,1),(.timCalArg,7,0,0,2)]) 2 77 hC) := by
  refine ⟨?_, ?_, ?_, ?_, ?_, ?_, ?_, ?_, ?_, ?_, ?_, ?_, ?_⟩ <;>
    first
    | decide +kernel
    | (and_intros <;> first | decide +kernel | (refine ok_of ?_; decide +kernel) | (refine error_of ?_; decide +kernel) | (refine ok_pair ?_ rfl; decide +kernel) | rfl)

/-- States and operands that meet the hypotheses of GroupOutcomes. -/
theorem witness_GroupOutcomes :
    (go hyps_GroupOutcomes_2 (on (L (vg ++ [(.timCgState,2,0,0,cgVoted)])) (fun b => b.setCg 2 (fun g => {g with grp := 5, lap := 31000, staged := []}))) 2 5 31000 5 31000)
    ∧ (go hyps_GroupOutcomes_3 (on (L (vg ++ [(.timCgState,2,0,0,cgVoted)])) (fun b => b.setCg 2 (fun g => {g with grp := 5, lap := 31000, staged := []}))) 2 5 31000 5 31000)
    ∧ (go hyps_GroupOutcomes_5 (on (L (vg ++ [(.timCgState,2,0,0,cgVoted)])) (fun b => b.setCg 2 (fun g => {g with grp := 5, lap := 31000, staged := []}))) 2 5 31000 5 31000)
    ∧ (go hyps_GroupOutcomes_0 (L [(.timCgState,2,0,0,cgSealed)]) 2 5 31000 5 31000)
    ∧ (go hyps_GroupOutcomes_1 (on (L [(.timCgState,2,0,0,cgSealed)]) (fun b => b.setCg 2 (fun g => {g with grp := 5, lap := 31000, staged := []}))) 2 5 31000 5 31000)
    ∧ (go hyps_GroupOutcomes_4 (on (L [(.timCgState,2,0,0,cgInDoubt),(.timCgState,3,0,0,cgOpen)]) (fun b => b.setCg 2 (fun g => {g with grp := 5, lap := 31000, staged := []}))) 2 5 31000 5 31000) := by
  refine ⟨?_, ?_, ?_, ?_, ?_, ?_⟩ <;>
    first
    | decide +kernel
    | (and_intros <;> first | decide +kernel | (refine ok_of ?_; decide +kernel) | (refine error_of ?_; decide +kernel) | (refine ok_pair ?_ rfl; decide +kernel) | rfl)
end P27

namespace P27c
/-- What clause 1 of RegisterAccess supposes. -/
abbrev hyps_RegisterAccess_0 (s : State) (src : Src) (addr : BitVec 48) (d : BitVec 64) (x : Hit) (r : Reg) (old : Nat) : Prop :=
  s.ok ∧ (let b := s.box; let a := addr.toNat; let n := src.toNat; b.mayRead n a = false)

/-- What clause 2 of RegisterAccess supposes. -/
abbrev hyps_RegisterAccess_1 (s : State) (src : Src) (addr : BitVec 48) (d : BitVec 64) (x : Hit) (r : Reg) (old : Nat) : Prop :=
  s.ok ∧ (let b := s.box; let a := addr.toNat; let n := src.toNat; let unmapped : Prop := inMem a = false ∧ inTables a = false ∧ Machine.locate a = none; b.mayRead n a = true ∧ unmapped)

/-- What clause 3 of RegisterAccess supposes. -/
abbrev hyps_RegisterAccess_2 (s : State) (src : Src) (addr : BitVec 48) (d : BitVec 64) (x : Hit) (r : Reg) (old : Nat) : Prop :=
  s.ok ∧ (let b := s.box; let a := addr.toNat; writer b src ∧ hits a x r ∧ measured r = false ∧ r ∉ [.timNowNs, .timNowFrac, .lckHrMin, .mbxData, .mbxRdata, .mbxBuf, .mbxLock])

/-- What clause 4 of RegisterAccess supposes. -/
abbrev hyps_RegisterAccess_3 (s : State) (src : Src) (addr : BitVec 48) (d : BitVec 64) (x : Hit) (r : Reg) (old : Nat) : Prop :=
  s.ok ∧ (let b := s.box; let a := addr.toNat; let n := src.toNat; writer b src ∧ inMem a = false ∧ inTables a = false ∧ Machine.locate a = some x ∧ 2 ≤ x.words ∧ 0 < x.word ∧ x.key.reg ∉ [.timNowNs, .timNowFrac, .mbxData, .mbxRdata, .mbxBuf, .mbxLock] ∧ assocFind b.tim.latch (n, x.key) = some old)

/-- What clause 5 of RegisterAccess supposes. -/
abbrev hyps_RegisterAccess_4 (s : State) (src : Src) (addr : BitVec 48) (d : BitVec 64) (x : Hit) (r : Reg) (old : Nat) : Prop :=
  s.ok ∧ (let b := s.box; let a := addr.toNat; let unmapped : Prop := inMem a = false ∧ inTables a = false ∧ Machine.locate a = none; writer b src ∧ unmapped)

/-- What clause 6 of RegisterAccess supposes. -/
abbrev hyps_RegisterAccess_5 (s : State) (src : Src) (addr : BitVec 48) (d : BitVec 64) (x : Hit) (r : Reg) (old : Nat) : Prop :=
  s.ok ∧ (let b := s.box; let a := addr.toNat; let n := src.toNat; isCore n = false ∧ b.isAgent n = false ∧ b.liveSess n = false ∧ inMem a = false ∧ inTables a = false ∧ Machine.locate a = some x ∧ x.channel = none ∧ x.key.reg ≠ .mbxLease)

/-- What clause 7 of RegisterAccess supposes. -/
abbrev hyps_RegisterAccess_6 (s : State) (src : Src) (addr : BitVec 48) (d : BitVec 64) (x : Hit) (r : Reg) (old : Nat) : Prop :=
  s.ok ∧ (let b := s.box; let a := addr.toNat; let plain : Prop := writer b src ∧ hits a x r ∧ b.waits x = false; plain ∧ r.info.cls = .ro)

/-- What clause 8 of RegisterAccess supposes. -/
abbrev hyps_RegisterAccess_7 (s : State) (src : Src) (addr : BitVec 48) (d : BitVec 64) (x : Hit) (r : Reg) (old : Nat) : Prop :=
  s.ok ∧ (let b := s.box; let a := addr.toNat; let v := fieldOf r d.toNat; let plain : Prop := writer b src ∧ hits a x r ∧ b.waits x = false; let fits : Prop := b.valueOk r x.i x.j v = true; plain ∧ r.info.cls = .epoch ∧ groupOnly r = false ∧ fits)

/-- What clause 9 of RegisterAccess supposes. -/
abbrev hyps_RegisterAccess_8 (s : State) (src : Src) (addr : BitVec 48) (d : BitVec 64) (x : Hit) (r : Reg) (old : Nat) : Prop :=
  s.ok ∧ (let b := s.box; let a := addr.toNat; let plain : Prop := writer b src ∧ hits a x r ∧ b.waits x = false; plain ∧ r.info.cls = .epoch ∧ groupOnly r = true)

/-- What clause 10 of RegisterAccess supposes. -/
abbrev hyps_RegisterAccess_9 (s : State) (src : Src) (addr : BitVec 48) (d : BitVec 64) (x : Hit) (r : Reg) (old : Nat) : Prop :=
  s.ok ∧ (let b := s.box; let a := addr.toNat; let v := fieldOf r d.toNat; let plain : Prop := writer b src ∧ hits a x r ∧ b.waits x = false; let fits : Prop := b.valueOk r x.i x.j v = true; plain ∧ r.info.cls = .sticky ∧ r ∉ [.rlyTFault, .gstFenceCause, .rlyBundleErr, .grdEvent] ∧ fits)

/-- What clause 11 of RegisterAccess supposes. -/
abbrev hyps_RegisterAccess_10 (s : State) (src : Src) (addr : BitVec 48) (d : BitVec 64) (x : Hit) (r : Reg) (old : Nat) : Prop :=
  s.ok ∧ (let b := s.box; let a := addr.toNat; let v := fieldOf r d.toNat; let fits : Prop := b.valueOk r x.i x.j v = true; writer b src ∧ hits a x r ∧ b.waits x = true ∧ fits ∧ r ∉ [.mbxData, .mbxRdata, .mbxBuf, .mbxDoorbell, .mbxLock, .mbxLease])

/-- What clause 12 of RegisterAccess supposes. -/
abbrev hyps_RegisterAccess_11 (s : State) (src : Src) (addr : BitVec 48) (d : BitVec 64) (x : Hit) (r : Reg) (old : Nat) : Prop :=
  s.ok ∧ (let b := s.box; let a := addr.toNat; let v := fieldOf r d.toNat; let plain : Prop := writer b src ∧ hits a x r ∧ b.waits x = false; let fits : Prop := b.valueOk r x.i x.j v = true; plain ∧ r = .pacQRate ∧ fits ∧ (x.j = 0 ∨ 1000 ≤ v))

/-- What clause 13 of RegisterAccess supposes. -/
abbrev hyps_RegisterAccess_12 (s : State) (src : Src) (addr : BitVec 48) (d : BitVec 64) (x : Hit) (r : Reg) (old : Nat) : Prop :=
  s.ok ∧ (let b := s.box; let a := addr.toNat; let v := fieldOf r d.toNat; let plain : Prop := writer b src ∧ hits a x r ∧ b.waits x = false; plain ∧ r = .pacQRate ∧ 0 < x.j ∧ v < 1000)

/-- What clause 14 of RegisterAccess supposes. -/
abbrev hyps_RegisterAccess_13 (s : State) (src : Src) (addr : BitVec 48) (d : BitVec 64) (x : Hit) (r : Reg) (old : Nat) : Prop :=
  s.ok ∧ (let b := s.box; let a := addr.toNat; let v := fieldOf r d.toNat; let plain : Prop := writer b src ∧ hits a x r ∧ b.waits x = false; let fits : Prop := b.valueOk r x.i x.j v = true; plain ∧ r = .telSmpEn ∧ fits)

/-- What clause 15 of RegisterAccess supposes. -/
abbrev hyps_RegisterAccess_14 (s : State) (src : Src) (addr : BitVec 48) (d : BitVec 64) (x : Hit) (r : Reg) (old : Nat) : Prop :=
  s.ok ∧ (let b := s.box; let a := addr.toNat; let n := src.toNat; let v := fieldOf r d.toNat; let plain : Prop := writer b src ∧ hits a x r ∧ b.waits x = false; let fits : Prop := b.valueOk r x.i x.j v = true; b.isAgent n = true ∧ plain ∧ r = .telPermBlocks ∧ fits ∧ b.get .mbxSessState x.i ≠ 0)

/-- What clause 16 of RegisterAccess supposes. -/
abbrev hyps_RegisterAccess_15 (s : State) (src : Src) (addr : BitVec 48) (d : BitVec 64) (x : Hit) (r : Reg) (old : Nat) : Prop :=
  s.ok ∧ (let b := s.box; let a := addr.toNat; let n := src.toNat; let v := fieldOf r d.toNat; let plain : Prop := writer b src ∧ hits a x r ∧ b.waits x = false; let fits : Prop := b.valueOk r x.i x.j v = true; b.isAgent n = false ∧ plain ∧ r = .telPermBlocks ∧ fits)

/-- What clause 17 of RegisterAccess supposes. -/
abbrev hyps_RegisterAccess_16 (s : State) (src : Src) (addr : BitVec 48) (d : BitVec 64) (x : Hit) (r : Reg) (old : Nat) : Prop :=
  s.ok ∧ (let b := s.box; let a := addr.toNat; writer b src ∧ hits a x .lckHrMin)

def W (l : List (Reg × Nat × Nat × Nat × Nat)) : State := on (with_ r0 l) (fun b => {b with now := 500000000*2^40})
def sess0 : Session := ⟨5, 6, 7, [1], [2], 10, [10], [], 3⟩
def S (st : Nat) (l : List (Reg × Nat × Nat × Nat × Nat)) : State := on (W ([(.mbxSessState,0,0,0,st),(.mbxSessSrcid,0,0,0,0x8005),(.mbxSessPeerIp6,0,0,0,99),(.mbxSessRole,0,0,0,1)] ++ l)) (fun b => {b with mbx := {b.mbx with sess := [(0,sess0)]}})
abbrev acc (k : State → Src → (BitVec 48) → (BitVec 64) → Hit → Reg → Nat → Prop) (s : State) (src : Src) (a : BitVec 48) (d : BitVec 64) (r : Reg) := let x := (locate a.toNat).getD ⟨[],0,0,0,0⟩; k s src a d x r (((assocFind s.box.tim.latch (src.toNat, x.key))).getD 0)
def rst (d inst : Nat) : State := on (W []) (fun b => {b with mar := {b.mar with resets := [⟨d,inst,1,0,0,[]⟩]}})
def at0 (r : Reg) : BitVec 48 := BitVec.ofNat 48 (Reg.addr r 0 0 0)
def at1 (r : Reg) : BitVec 48 := BitVec.ofNat 48 (Reg.addr r 1 1 0)
def agent : List (Reg × Nat × Nat × Nat × Nat) := [(.mbxLeaseState,0,0,0,1),(.mbxLeaseSrcid,0,0,0,0x8005)]
def latched (r : Reg) : State := on (W []) (fun b => {b with tim := {b.tim with latch := [((0,((locate (Reg.addr r + 8)).getD ⟨[],0,0,0,0⟩).key), 0x123456789ABCDEF0123456789)]}})

/-- States and operands that meet the hypotheses of RegisterAccess. -/
theorem witness_RegisterAccess :
    (acc hyps_RegisterAccess_1 (W []) 0 0x7FFFFFFFFFF8 5 .marLedger)
    ∧ (acc hyps_RegisterAccess_4 (W []) 0 0x7FFFFFFFFFF8 5 .marLedger)
    ∧ (acc hyps_RegisterAccess_2 (W []) 0 (at1 .telSmpEn) 1 .telSmpEn)
    ∧ (acc hyps_RegisterAccess_13 (W []) 0 (at1 .telSmpEn) 1 .telSmpEn)
    ∧ (acc hyps_RegisterAccess_6 (W []) 0 (at0 .lckHrMin) 5 .lckHrMin)
    ∧ (acc hyps_RegisterAccess_16 (W []) 0 (at0 .lckHrMin) 5 .lckHrMin)
    ∧ (acc hyps_RegisterAccess_0 (W []) 0x8111 (at0 .telSmpEn) 5 .telSmpEn)
    ∧ (acc hyps_RegisterAccess_5 (W []) 0x8111 (at0 .telSmpEn) 5 .telSmpEn)
    ∧ (acc hyps_RegisterAccess_12 (W []) 0 (at1 .pacQRate) 999 .pacQRate)
    ∧ (acc hyps_RegisterAccess_11 (W []) 0 (at1 .pacQRate) 1000 .pacQRate)
    ∧ (acc hyps_RegisterAccess_8 (W []) 0 (at0 .optBypPass) 5 .optBypPass)
    ∧ (acc hyps_RegisterAccess_9 (W []) 0 (at0 .prtLaneLol) 5 .prtLaneLol)
    ∧ (acc hyps_RegisterAccess_7 (W []) 0 (at0 .lckRingTlock) 5 .lckRingTlock)
    ∧ (acc hyps_RegisterAccess_15 (W []) 0 (at1 .telPermBlocks) 1 .telPermBlocks)
    ∧ (acc hyps_RegisterAccess_10 (rst 5 0) 0 (at0 .prtLanePfLinkdly) 5 .prtLanePfLinkdly)
    ∧ (acc hyps_RegisterAccess_14 (S 2 agent) 0x8005 (at0 .telPermBlocks) 1 .telPermBlocks)
    ∧ (acc hyps_RegisterAccess_3 (latched .mbxSessPeerIp6) 0 (at0 .mbxSessPeerIp6 + 8) 1 .mbxSessPeerIp6) := by
  refine ⟨?_, ?_, ?_, ?_, ?_, ?_, ?_, ?_, ?_, ?_, ?_, ?_, ?_, ?_, ?_, ?_, ?_⟩ <;>
    first
    | decide +kernel
    | (and_intros <;> first | decide +kernel | (refine ok_of ?_; decide +kernel) | (refine error_of ?_; decide +kernel) | (refine ok_pair ?_ rfl; decide +kernel) | rfl)
end P27c

namespace P28
/-- What clause 1 of TelemetryUpkeep supposes. -/
abbrev hyps_TelemetryUpkeep_0 (s : State) (src : Src) (h : Half) (blk : Fin 21) (m : Fin 32) (j : Fin 16) (bank : Fin 4) (x : Latched)
    (rest : List Latched) (rs : ResetSt) (t : List ResetSt) (v : Int) (w : Nat) : Prop :=
  s.ok ∧ (let b := s.box; writer b src)

/-- What clause 2 of TelemetryUpkeep supposes. -/
abbrev hyps_TelemetryUpkeep_1 (s : State) (src : Src) (h : Half) (blk : Fin 21) (m : Fin 32) (j : Fin 16) (bank : Fin 4) (x : Latched)
    (rest : List Latched) (rs : ResetSt) (t : List ResetSt) (v : Int) (w : Nat) : Prop :=
  s.ok ∧ (let b := s.box; let bn (k : Nat) := b.latchBank k; b.dumpDue b.lap j = true ∧ (bn 0).isSome = true ∧ (bn 1).isSome = true)

/-- What clause 3 of TelemetryUpkeep supposes. -/
abbrev hyps_TelemetryUpkeep_2 (s : State) (src : Src) (h : Half) (blk : Fin 21) (m : Fin 32) (j : Fin 16) (bank : Fin 4) (x : Latched)
    (rest : List Latched) (rs : ResetSt) (t : List ResetSt) (v : Int) (w : Nat) : Prop :=
  s.ok ∧ (let b := s.box; b.dumpDue b.lap j = false)

/-- What clause 4 of TelemetryUpkeep supposes. -/
abbrev hyps_TelemetryUpkeep_3 (s : State) (src : Src) (h : Half) (blk : Fin 21) (m : Fin 32) (j : Fin 16) (bank : Fin 4) (x : Latched)
    (rest : List Latched) (rs : ResetSt) (t : List ResetSt) (v : Int) (w : Nat) : Prop :=
  s.ok ∧ (let b := s.box; b.tel.banks.at bank [] = x :: rest)

/-- What clause 5 of TelemetryUpkeep supposes. -/
abbrev hyps_TelemetryUpkeep_4 (s : State) (src : Src) (h : Half) (blk : Fin 21) (m : Fin 32) (j : Fin 16) (bank : Fin 4) (x : Latched)
    (rest : List Latched) (rs : ResetSt) (t : List ResetSt) (v : Int) (w : Nat) : Prop :=
  s.ok ∧ (let b := s.box; let took := toSigned 32 (ofSigned 32 v); let quiet : Prop := b.getS .telMonAlarmLo h m ≤ took ∧ took ≤ b.getS .telMonAlarmHi h m; b.darkHalf h = false ∧ b.halfReset h = false ∧ b.get .telMonKind h m = 1 ∧ b.monRead (b.get .telMonSrc h m) = some (v, w) ∧ quiet ∧ b.get .telMonCnt h m < 2 ^ 48 - 1)

/-- What clause 6 of TelemetryUpkeep supposes. -/
abbrev hyps_TelemetryUpkeep_5 (s : State) (src : Src) (h : Half) (blk : Fin 21) (m : Fin 32) (j : Fin 16) (bank : Fin 4) (x : Latched)
    (rest : List Latched) (rs : ResetSt) (t : List ResetSt) (v : Int) (w : Nat) : Prop :=
  s.ok ∧ (let b := s.box; writer b src)

/-- What clause 7 of TelemetryUpkeep supposes. -/
abbrev hyps_TelemetryUpkeep_6 (s : State) (src : Src) (h : Half) (blk : Fin 21) (m : Fin 32) (j : Fin 16) (bank : Fin 4) (x : Latched)
    (rest : List Latched) (rs : ResetSt) (t : List ResetSt) (v : Int) (w : Nat) : Prop :=
  s.ok ∧ (let b := s.box; b.mar.resets = rs :: t ∧ b.mar.late = [])

/-- What clause 8 of TelemetryUpkeep supposes. -/
abbrev hyps_TelemetryUpkeep_7 (s : State) (src : Src) (h : Half) (blk : Fin 21) (m : Fin 32) (j : Fin 16) (bank : Fin 4) (x : Latched)
    (rest : List Latched) (rs : ResetSt) (t : List ResetSt) (v : Int) (w : Nat) : Prop :=
  s.ok ∧ (let b := s.box; b.mar.resets = [] ∧ b.mar.late = [])

/-- What clause 1 of StartUpAndLaps supposes. -/
abbrev hyps_StartUpAndLaps_0 (s : State) (j : Fin 12) (ok : Bool) (uf w : BitVec 16) (v l : Nat) : Prop :=
  s.ok ∧ (let b := s.box; let entered : Prop := b.start.entered.contains j.val = true; b.stepDone j = false ∧ ¬entered ∧ b.stepEntry j = true)

/-- What clause 2 of StartUpAndLaps supposes. -/
abbrev hyps_StartUpAndLaps_1 (s : State) (j : Fin 12) (ok : Bool) (uf w : BitVec 16) (v l : Nat) : Prop :=
  s.ok ∧ (let b := s.box; let entered : Prop := b.start.entered.contains j.val = true; b.stepDone j = false ∧ entered ∧ b.stepOver j = true)

/-- What clause 3 of StartUpAndLaps supposes. -/
abbrev hyps_StartUpAndLaps_2 (s : State) (j : Fin 12) (ok : Bool) (uf w : BitVec 16) (v l : Nat) : Prop :=
  s.ok ∧ (let b := s.box; let entered : Prop := b.start.entered.contains j.val = true; b.stepDone j = false ∧ entered ∧ 1 < j.val)

/-- What clause 4 of StartUpAndLaps supposes. -/
abbrev hyps_StartUpAndLaps_3 (s : State) (j : Fin 12) (ok : Bool) (uf w : BitVec 16) (v l : Nat) : Prop :=
  s.ok ∧ (let b := s.box; b.stepDone j = true)

/-- What clause 5 of StartUpAndLaps supposes. -/
abbrev hyps_StartUpAndLaps_4 (s : State) (j : Fin 12) (ok : Bool) (uf w : BitVec 16) (v l : Nat) : Prop :=
  s.ok

/-- What clause 6 of StartUpAndLaps supposes. -/
abbrev hyps_StartUpAndLaps_5 (s : State) (j : Fin 12) (ok : Bool) (uf w : BitVec 16) (v l : Nat) : Prop :=
  s.ok ∧ (let b := s.box; b.get .pwrPsState % 8 = 4)

/-- What clause 7 of StartUpAndLaps supposes. -/
abbrev hyps_StartUpAndLaps_6 (s : State) (j : Fin 12) (ok : Bool) (uf w : BitVec 16) (v l : Nat) : Prop :=
  s.ok ∧ (let b := s.box; b.get .pwrPsState % 8 ≠ 4)

/-- What clause 8 of StartUpAndLaps supposes. -/
abbrev hyps_StartUpAndLaps_7 (s : State) (j : Fin 12) (ok : Bool) (uf w : BitVec 16) (v l : Nat) : Prop :=
  s.ok

/-- What clause 9 of StartUpAndLaps supposes. -/
abbrev hyps_StartUpAndLaps_8 (s : State) (j : Fin 12) (ok : Bool) (uf w : BitVec 16) (v l : Nat) : Prop :=
  s.ok ∧ (let b := s.box; let start := (b.lap + 1) * b.lapLen * 2 ^ 40; b.tim.load = none ∧ b.tim.step = none ∧ 0 < b.get .timIncr ∧ start + b.get .timIncr ≤ 2 ^ 104 ∧ (∀ e < 64, b.get .timCalState e ≠ 1) ∧ (∀ n < 16, b.cgState n ≠ cgInDoubt) ∧ b.mar.resets = [] ∧ b.pwr.armed = none ∧ b.psWanted = b.get .pwrPsState % 8)

def W (l : List (Reg × Nat × Nat × Nat × Nat)) : State := on (with_ r0 l) (fun b => {b with now := 500000000*2^40})
def lt : Latched := ⟨3,false,30517,5,[(8,9),(16,10)],false⟩
def rs0 : ResetSt := ⟨1,43,1,0,0,[]⟩
abbrev tu (k : State → Src → Half → (Fin 21) → (Fin 32) → (Fin 16) → (Fin 4) → Latched → (List Latched) → ResetSt → (List ResetSt) → Int → Nat → Prop) (s : State) (bank : Fin 4) (rs : ResetSt) := let q := (s.box.monRead (s.box.get .telMonSrc 0 3)).getD (0,0); k s 0 0 4 3 5 bank lt [] rs [] q.1 q.2
def M : List (Reg × Nat × Nat × Nat × Nat) := [(.telMonKind,0,3,0,1),(.telMonSrc,0,3,0,Reg.addr .timVoteCloseNs),(.telMonAlarmHi,0,3,0,2^31-1),(.telMonAlarmLo,0,3,0,2^31)]
abbrev su (k : State → (Fin 12) → Bool → (BitVec 16) → (BitVec 16) → Nat → Nat → Prop) (s : State) (j : Fin 12) (ok : Bool) (v l : Nat) := k s j ok 77 5 v l

/-- States and operands that meet the hypotheses of TelemetryUpkeep. -/
theorem witness_TelemetryUpkeep :
    (tu hyps_TelemetryUpkeep_0 (on (W (M ++ [(.telDumpTarget,3,0,0,1)])) (fun b => {b with tel := {b.tel with banks := [(1,[lt])]}, mar := {b.mar with resets := [rs0]}})) 1 rs0)
    ∧ (tu hyps_TelemetryUpkeep_2 (on (W (M ++ [(.telDumpTarget,3,0,0,1)])) (fun b => {b with tel := {b.tel with banks := [(1,[lt])]}, mar := {b.mar with resets := [rs0]}})) 1 rs0)
    ∧ (tu hyps_TelemetryUpkeep_3 (on (W (M ++ [(.telDumpTarget,3,0,0,1)])) (fun b => {b with tel := {b.tel with banks := [(1,[lt])]}, mar := {b.mar with resets := [rs0]}})) 1 rs0)
    ∧ (tu hyps_TelemetryUpkeep_4 (on (W (M ++ [(.telDumpTarget,3,0,0,1)])) (fun b => {b with tel := {b.tel with banks := [(1,[lt])]}, mar := {b.mar with resets := [rs0]}})) 1 rs0)
    ∧ (tu hyps_TelemetryUpkeep_5 (on (W (M ++ [(.telDumpTarget,3,0,0,1)])) (fun b => {b with tel := {b.tel with banks := [(1,[lt])]}, mar := {b.mar with resets := [rs0]}})) 1 rs0)
    ∧ (tu hyps_TelemetryUpkeep_6 (on (W (M ++ [(.telDumpTarget,3,0,0,1)])) (fun b => {b with tel := {b.tel with banks := [(1,[lt])]}, mar := {b.mar with resets := [rs0]}})) 1 rs0)
    ∧ (tu hyps_TelemetryUpkeep_1 (W (M ++ [(.telDumpPeriodLaps,5,0,0,1),(.telDumpRangeWords,5,0,0,4)])) 0 rs0)
    ∧ (tu hyps_TelemetryUpkeep_7 (W (M ++ [(.telDumpPeriodLaps,5,0,0,1),(.telDumpRangeWords,5,0,0,4)])) 0 rs0) := by
  refine ⟨?_, ?_, ?_, ?_, ?_, ?_, ?_, ?_⟩ <;>
    first
    | decide +kernel
    | (and_intros <;> first | decide +kernel | (refine ok_of ?_; decide +kernel) | (refine error_of ?_; decide +kernel) | (refine ok_pair ?_ rfl; decide +kernel) | rfl)

/-- States and operands that meet the hypotheses of StartUpAndLaps. -/
theorem witness_StartUpAndLaps :
    (su hyps_StartUpAndLaps_1 (on (W []) (fun b => {b with start := {b.start with entered := List.range 12, causes := 7}})) (Fin.ofNat 12 2) true 5 5)
    ∧ (su hyps_StartUpAndLaps_2 (on (W []) (fun b => {b with start := {b.start with entered := List.range 12, causes := 7}})) (Fin.ofNat 12 2) true 5 5)
    ∧ (su hyps_StartUpAndLaps_4 (on (W []) (fun b => {b with start := {b.start with entered := List.range 12, causes := 7}})) (Fin.ofNat 12 2) true 5 5)
    ∧ (su hyps_StartUpAndLaps_6 (on (W []) (fun b => {b with start := {b.start with entered := List.range 12, causes := 7}})) (Fin.ofNat 12 2) true 5 5)
    ∧ (su hyps_StartUpAndLaps_7 (on (W []) (fun b => {b with start := {b.start with entered := List.range 12, causes := 7}})) (Fin.ofNat 12 2) true 5 5)
    ∧ (su hyps_StartUpAndLaps_8 (on (W []) (fun b => {b with start := {b.start with entered := List.range 12, causes := 7}})) (Fin.ofNat 12 2) true 5 5)
    ∧ (su hyps_StartUpAndLaps_0 (W []) (Fin.ofNat 12 1) true 5 5)
    ∧ (su hyps_StartUpAndLaps_5 (on (W [(.pwrPsState,0,0,0,4)]) (fun b => {b with start := {b.start with entered := List.range 12, causes := 7}})) (Fin.ofNat 12 0) false 5 5)
    ∧ (su hyps_StartUpAndLaps_3 (on (W [(.timIncr,0,0,0,2^40)]) (fun b => {b with start := {b.start with done := List.range 12, causes := 7}, tim := {b.tim with shadow := [(⟨.timVoteCloseNs, 0, 0, 0⟩, 4000, 20)]}})) (Fin.ofNat 12 0) false 4000 20) := by
  refine ⟨?_, ?_, ?_, ?_, ?_, ?_, ?_, ?_, ?_⟩ <;>
    first
    | decide +kernel
    | (and_intros <;> first | decide +kernel | (refine ok_of ?_; decide +kernel) | (refine error_of ?_; decide +kernel) | (refine ok_pair ?_ rfl; decide +kernel) | rfl)
end P28

namespace P30
/-- One lane UP, and a next-hop set with its port. -/
def oneLane : State := with_ r0 [(.prtLaneState, 5, 3, 0, lnUp), (.fwdNhsMember, 7, 0, 0, 512 + 21)]

/-- States and operands that meet the hypotheses of StepRunsTheFront. -/
theorem witness_StepRunsTheFront : r0.pending = [] ∧ r0.box.tim.load = none ∧ r0.box.tim.step = none
    ∧ (r0.box.now.toNat + r0.box.get .timIncr) / 2 ^ 40 / r0.box.lapLen ≤ r0.box.tim.lapDone := by decide +kernel

/-- States and operands that meet the hypotheses of StepKeepsMemoryCanonical. -/
theorem witness_StepKeepsMemoryCanonical : r0.ok ∧ ∃ t, step r0 = .next t := ⟨by decide +kernel, _, rfl⟩

/-- States and operands that meet the hypotheses of SprayChoosesEligible. -/
theorem witness_SprayChoosesEligible :
    (oneLane.box.spray oneLane.box 2 1 3 7 none 15 0).1 = some 43
    ∧ (21, 1) ∈ oneLane.box.members 7 ∧ bitAt 15 (21 % 4) = true ∧ oneLane.box.striped 21 = false
    ∧ oneLane.box.eligible (2 * 21 + 1) 3 none = true := by decide +kernel

/-- States and operands that meet the hypotheses of RegisterAddresses. -/
theorem witness_RegisterAddresses :
    indexOk Reg.prtLaneRplNakRx.info.dims[0]? 37 ∧ indexOk Reg.prtLaneRplNakRx.info.dims[1]? 5
    ∧ indexOk Reg.prtLaneRplNakRx.info.dims[2]? 0 ∧ 0 < Reg.prtLaneRplNakRx.words ∧ (locate (Reg.addr .prtLaneRplNakRx 37 5)).isSome = true := by
  refine ⟨?_, ?_, ?_, ?_, ?_⟩ <;> first | decide +kernel | exact ⟨by decide, by decide⟩ | rfl

/-- States and operands that meet the hypotheses of AdmissionToBuffers. -/
theorem witness_AdmissionToBuffers :
    (∃ b : Box, b.get .bufIqAlpha 5 1 = 15) ∧ (∃ b : Box, b.get .bufIqAlpha 5 1 = 8 ∧ b.get .bufAlphaIng 1 = 7)
    ∧ (fr0 [] 1 3).rung ≤ 1 ∧ r0.box.get .bufLadderErr 0 < 2 ^ 32 - 1 ∧ (fr0 [] 3 3).rung = 3 :=
  ⟨⟨(with_ r0 [(.bufIqAlpha, 5, 1, 0, 15)]).box, by decide +kernel⟩,
    ⟨(with_ r0 [(.bufIqAlpha, 5, 1, 0, 8), (.bufAlphaIng, 1, 0, 0, 7)]).box, by decide +kernel⟩, by decide +kernel, by decide +kernel,
    by decide +kernel⟩
end P30

end Sys2Proof.Test
end

section
/-!
SUPPORT. The cell buffer: error records leave it alone, what the admission test of R209 says, when a frame is charged on
arrival, and what building a frame under the ladder of R222 does.
-/
namespace Sys2Proof.Machine

variable (b : Box)

/-! ### Error records leave the buffer alone -/

@[simp] theorem Box.logCopy_buf (e : ErrRec) : (b.logCopy e).buf = b.buf := rfl

@[simp] theorem Box.irq_buf (n : Nat) : (b.irq n).buf = b.buf := by
  unfold Box.irq
  split <;> rfl

@[simp] theorem Box.ctlTake_buf (m sev : Nat) : (b.ctlTake m sev).buf = b.buf := by
  unfold Box.ctlTake
  repeat' split
  all_goals rfl

@[simp] theorem Box.errPlace_buf (m : Nat) (e : ErrRec) : (b.errPlace m e).buf = b.buf := by
  simp [Box.errPlace]

@[simp] theorem Box.exportRec_buf (prio type_ : Nat) (l : List Byte) : (b.exportRec prio type_ l).buf = b.buf := by
  simp [Box.exportRec, apply_ite Box.buf]

@[simp] theorem Box.storm_buf (e : ErrRec) : (b.storm e).buf = b.buf := by
  unfold Box.storm
  repeat' split
  all_goals simp

@[simp] theorem Box.raiseRec_buf (e : ErrRec) : (b.raiseRec e).buf = b.buf := by
  unfold Box.raiseRec
  dsimp only
  repeat' split
  all_goals simp

@[simp] theorem Box.raise_buf (h : Nat) (r : Reg) (inst sev contain payload : Nat) :
    (b.raise h r inst sev contain payload).buf = b.buf := by
  simp [Box.raise]

/-! ### Counts -/

/-- A count below its last value rises by one. -/
theorem Box.get_bump_one (r : Reg) (i j k : Nat) (h : b.get r i j k + 1 < 2 ^ r.info.width) :
    (b.bump r i j k).get r i j k = b.get r i j k + 1 := by
  rw [Box.bump_lt _ _ _ _ _ _ h, Box.get_put_same, Nat.mod_eq_of_lt h]

/-! ### Admission to an account (R209, R210) -/

theorem admits_iff (depth rsv aF n : Nat) : admits depth rsv aF n = true ↔ depth + n ≤ rsv ∨ depth - rsv < aF := by
  simp [admits]

/-- α·F is F shifted: left by an exponent that is not negative, right by the size of a negative one. -/
theorem lt_alphaF_iff (u a F : Nat) : u < alphaF a F ↔ if a < 8 then u < F <<< a else u < F >>> (16 - a) := by
  unfold alphaF
  split
  · rw [Nat.shiftLeft_eq]
  · rw [Nat.shiftRight_eq_div_pow]

theorem Box.alphaOf_own {own dflt : Reg} {l r : Nat} (h : b.get own l r ≠ 8) : b.alphaOf own dflt l r = b.get own l r :=
  if_neg h

theorem Box.alphaOf_default {own dflt : Reg} {l r : Nat} (h : b.get own l r = 8) : b.alphaOf own dflt l r = b.get dflt r :=
  if_pos h

/-- The admission test of an ingress account whose exponent is `a`. -/
theorem Box.ingAdmits_iff {l r a : Nat} (n : Nat) (h : b.alphaOf .bufIqAlpha .bufAlphaIng l r = a) :
    b.ingAdmits l r n = true ↔ b.get .bufIqDepth l r + n ≤ b.get .bufRsvIng r ∨
      if a < 8 then b.get .bufIqDepth l r - b.get .bufRsvIng r < b.sharedFree (halfOf l) <<< a
      else b.get .bufIqDepth l r - b.get .bufRsvIng r < b.sharedFree (halfOf l) >>> (16 - a) := by
  rw [Box.ingAdmits, admits_iff, Box.ingAlpha, h, lt_alphaF_iff]

/-- A rung 0 frame has no headroom to fall back on: it is charged exactly when its account admits it. -/
theorem Box.ingCharge_rung0_isSome (l n : Nat) : (b.ingCharge l 0 n).isSome = b.ingAdmits l 0 n := by
  unfold Box.ingCharge
  cases h : b.ingAdmits l 0 n <;> simp

/-! ### Frames built in the buffer (R202, R206, R222) -/

/-- The ladder of R222 forbids a frame of a rung that is built for a frame of rung `k`. -/
def ladderForbids (rung k : Nat) : Prop := rung ≤ k ∧ ¬(rung = 3 ∧ k = 3)

theorem Box.allocFrame_regs {h refs : Nat} {fr : Held} {d : Desc} {u : Box} (e : b.allocFrame h fr refs = some (d, u)) :
    u.regs = b.regs := by
  unfold Box.allocFrame at e
  split at e
  · cases e
  · split at e
    · cases e; rfl
    · cases e

/-- The test of `Box.build` is the ladder of R222. -/
theorem ladderTest_iff (rung k : Nat) :
    (some k).any (fun k => decide (rung ≤ k) && !(rung == 3 && k == 3)) = true ↔ ladderForbids rung k := by
  rw [Option.any_some, Bool.and_eq_true, decide_eq_true_eq, Bool.not_eq_true', ← Bool.not_eq_true, Bool.and_eq_true,
    beq_iff_eq, beq_iff_eq, ladderForbids]

/-- A frame that the ladder forbids is refused: it is counted and recorded, and nothing is built. -/
theorem Box.build_of_forbidden {fr : Held} {k : Nat} (hk : ladderForbids fr.rung k) (h refs : Nat) :
    b.build h fr refs (some k) = (none, (b.bump .bufLadderErr h).raise h .bufLadderErr h sevError 1) := by
  rw [Box.build, if_pos ((ladderTest_iff _ _).2 hk)]

/-- A frame that the ladder allows, of a count that fits, writes no register. -/
theorem Box.build_regs_of_allowed {fr : Held} {k refs : Nat} (hk : ¬ladderForbids fr.rung k) (hr : refs ≤ 4095) (h : Nat) :
    (b.build h fr refs (some k)).2.regs = b.regs := by
  rw [Box.build, if_neg (mt (ladderTest_iff _ _).1 hk), if_neg (Nat.not_lt.2 hr)]
  split
  · next e => exact b.allocFrame_regs e
  · rfl

theorem Box.build_forbidden_ladderErr {fr : Held} {k : Nat} (hk : ladderForbids fr.rung k) (h refs : Nat)
    (hlt : b.get .bufLadderErr h < 2 ^ 32 - 1) :
    (b.build h fr refs (some k)).2.get .bufLadderErr h = b.get .bufLadderErr h + 1 := by
  have hw : b.get .bufLadderErr h + 1 < 2 ^ Reg.bufLadderErr.info.width := Nat.add_lt_of_lt_sub hlt
  rw [b.build_of_forbidden hk, Box.get_raise _ _ _ _ _ _ _ _ _ _ _ (by decide), b.get_bump_one _ _ _ _ hw]

end Sys2Proof.Machine

namespace Sys2Proof.Proofs
open Sys2Proof.Machine

/-- Settles O58: the account clauses are the test of R209 at the exponent of R210, and the ladder clauses are the two ways
a frame is built (R222). The bound 16 on the exponent is not needed: `lt_alphaF_iff` holds for every exponent. -/
theorem admissionToBuffers : Obligations.AdmissionToBuffers := by
  intro b l rung n a k h fr refs
  refine ⟨fun _ ha e => ?_, fun e hd ha => ?_, ?_, fun hle h3 => ?_, fun hk hr => ?_⟩
  · exact b.ingAdmits_iff n ((b.alphaOf_own (e ▸ ha)).trans e)
  · simpa only [if_pos ha] using b.ingAdmits_iff n ((b.alphaOf_default e).trans hd)
  · rw [b.ingCharge_rung0_isSome]
  · have hk : ladderForbids fr.rung k := ⟨hle, h3⟩
    refine ⟨?_, ?_, b.build_forbidden_ladderErr hk h refs⟩ <;> simp [b.build_of_forbidden hk]
  · have hk : ¬ladderForbids fr.rung k := fun ⟨hle, h3⟩ => hk.elim (Nat.not_lt.2 hle) h3
    exact Box.get_congr (b.build_regs_of_allowed hk hr h) _ _ _ _

end Sys2Proof.Proofs
end

section
/-!
SUPPORT. The output scheduler: a search downward from the highest rung, and the conditions of R239 on the rung it picks.
-/
namespace Sys2Proof.Machine

variable (b : Box)

/-! ### A search downward -/

/-- A search downward from `n` stops at the greatest number below `n` that passes the test. -/
theorem find?_reverse_range_eq_some (p : Nat → Bool) (n r : Nat) :
    (List.range n).reverse.find? p = some r ↔ r < n ∧ p r = true ∧ ∀ q, r < q → q < n → ¬p q = true := by
  induction n with
  | zero => simp
  | succ n ih =>
    rw [List.range_succ, List.reverse_concat, List.find?_cons]
    cases hp : p n with
    | true =>
      refine Option.some_inj.trans ⟨?_, fun ⟨hr, _, hmax⟩ => ?_⟩
      · rintro rfl
        exact ⟨Nat.lt_succ_self _, hp, fun q hlt hle => absurd hlt (Nat.not_lt.2 (Nat.le_of_lt_succ hle))⟩
      · exact Nat.le_antisymm (Nat.not_lt.1 fun h => hmax n h n.lt_succ_self hp) (Nat.le_of_lt_succ hr)
    | false =>
      have below {q : Nat} (hq : q < n + 1) (hpq : p q = true) : q < n :=
        Nat.lt_of_le_of_ne (Nat.le_of_lt_succ hq) (by rintro rfl; simp [hp] at hpq)
      refine ih.trans ⟨fun ⟨hr, hpr, hmax⟩ => ?_, fun ⟨hr, hpr, hmax⟩ => ?_⟩
      · exact ⟨Nat.lt_succ_of_lt hr, hpr, fun q hlt hq hpq => hmax q hlt (below hq hpq) hpq⟩
      · exact ⟨below hr hpr, hpr, fun q hlt hq => hmax q hlt (Nat.lt_succ_of_lt hq)⟩

/-- A search downward from `n` finds nothing when no number below `n` passes the test. -/
theorem find?_reverse_range_eq_none (p : Nat → Bool) (n : Nat) :
    (List.range n).reverse.find? p = none ↔ ∀ r < n, ¬p r = true := by
  simp only [List.find?_eq_none, List.mem_reverse, List.mem_range]

/-! ### The output scheduler (R232, R239) -/

/-- The replay limit lets a lane send a frame of rung 1 to 3 (R232): without link retry always, with it when the replay
buffer has room and no replay is under way. -/
def Box.replayLimitAllows (l : Nat) : Prop :=
  b.retryOn (fibreOf l) (b.slotOf l) = true →
    (b.rty (fibreOf l) (b.slotOf l)).unacked.length < 1024 ∧ (b.rty (fibreOf l) (b.slotOf l)).replay = []

/-- The conditions of R239 on a rung of a lane. -/
def Box.MayPick (l r : Nat) : Prop :=
  b.eq l r ≠ [] ∧ b.permits (lr l r) = true ∧ b.permits (lnKey l) = true ∧ b.permits (b.ptKey l) = true
    ∧ b.paused l r = false ∧ (r = 0 ∨ b.replayLimitAllows l)

/-- The test of the replay limit in `Box.pickRung`. -/
def Box.replayRoom (l : Nat) : Bool :=
  let x := b.rty (fibreOf l) (b.slotOf l)
  !b.retryOn (fibreOf l) (b.slotOf l) || (decide (x.unacked.length < 1024) && x.replay == [])

/-- The test of a rung in `Box.pickRung`. -/
def Box.pickTest (l r : Nat) : Bool :=
  b.eq l r != [] && b.permits (lr l r) && b.permits (lnKey l) && b.permits (b.ptKey l) && !b.paused l r
    && (r == 0 || b.replayRoom l)

theorem Box.pickRung_eq_find? (l : Nat) : b.pickRung l = (List.range 4).reverse.find? (b.pickTest l) := rfl

theorem Box.replayRoom_iff (l : Nat) : b.replayRoom l = true ↔ b.replayLimitAllows l := by
  rw [Box.replayRoom, Box.replayLimitAllows]
  cases b.retryOn (fibreOf l) (b.slotOf l) <;> simp

/-- The test of a rung is the conjunction of the conditions of R239. -/
theorem Box.pickTest_iff (l r : Nat) : b.pickTest l r = true ↔ b.MayPick l r := by
  simp only [Box.pickTest, Box.MayPick, Bool.and_eq_true, Bool.or_eq_true, bne_iff_ne, beq_iff_eq, Bool.not_eq_true',
    b.replayRoom_iff, and_assoc]

/-- The scheduler picks the highest rung that meets the conditions. -/
theorem Box.pickRung_eq_some_iff (l r : Nat) :
    b.pickRung l = some r ↔ r < 4 ∧ b.MayPick l r ∧ ∀ q, r < q → q < 4 → ¬b.MayPick l q := by
  simp only [b.pickRung_eq_find?, find?_reverse_range_eq_some, b.pickTest_iff]

/-- The scheduler picks nothing when no rung meets the conditions. -/
theorem Box.pickRung_eq_none_iff (l : Nat) : b.pickRung l = none ↔ ∀ r < 4, ¬b.MayPick l r := by
  simp only [b.pickRung_eq_find?, find?_reverse_range_eq_none, b.pickTest_iff]

end Sys2Proof.Machine

namespace Sys2Proof.Proofs
open Sys2Proof.Machine

/-- Settles O59: the scheduler is a search downward from rung 3, and its test is the conjunction of the conditions of R239
(with R212 and R232). -/
theorem schedulerPriority : Obligations.SchedulerPriority := by
  intro b l
  exact ⟨b.pickRung_eq_some_iff l, b.pickRung_eq_none_iff l⟩

end Sys2Proof.Proofs
end

section
/-!
SUPPORT. The time registers, the calendar and the board time pulse: what a write by a requester that may write registers
does (R497), by cases of the write, and what a pulse does (R675).
-/
namespace Sys2Proof.Machine

/-! ### Register writes of a writer -/

/-- A register write that a writer makes, on a device without unfinished memory writes, is its effect and the answer. -/
theorem act_regWrite_writer {s : State} {src : Src} {f : Box → Nat × Box} (hw : writer s.box src)
    (hws : (f s.box).2.ws = []) :
    act (fun b => b.regWrite src f) s = .next (s.withBox ((f s.box).2.reply src (f s.box).1)) := by
  rw [act_of_no_writes _ _ (by rw [regWrite_writer hw]; exact hws), regWrite_writer hw]

/-- A writer's register write of status 0 is applied. -/
theorem applied_regWrite {s : State} {src : Src} {f : Box → Nat × Box} {c : Box} (hw : writer s.box src)
    (hf : f s.box = (0, c)) (hws : c.ws = []) : applied s src (act (fun b => b.regWrite src f) s) c := by
  rw [applied, act_regWrite_writer hw (by rwa [hf]), hf]

/-- A writer's register write that changes nothing leaves the answer alone. -/
theorem turnedAway_regWrite {s : State} {src : Src} {f : Box → Nat × Box} {n : Nat} (hok : s.ok) (hw : writer s.box src)
    (hf : f s.box = (n, s.box)) : turnedAway s src (act (fun b => b.regWrite src f) s) n := by
  rw [turnedAway, act_regWrite_writer hw (by rw [hf]; exact hok.2), hf]

/-- An applied write is a next state, whose parts are the effect's and the answer. -/
theorem nextWith_of_applied {s : State} {src : Src} {o : Host.Outcome State Fault Refusal} {c : Box} {p : State → Prop}
    (h : applied s src o c) (hp : p (s.withBox (c.reply src 0))) : nextWith o p := ⟨_, h, hp⟩

/-- A command whose effect `c` writes no memory is a next state with the parts `c`. -/
theorem nextWith_act_of_no_writes (f : Box → Box) {s : State} {c : Box} {p : State → Prop} (hf : f s.box = c)
    (hws : c.ws = []) (hp : p (s.withBox c)) : nextWith (act f s) p := by
  subst hf
  exact ⟨_, act_of_no_writes f s hws, hp⟩

variable (b : Box)

/-! ### Reading a field after another was written -/

theorem Box.get_put_other {r p : Reg} (h : p ≠ r) (v i j k i' j' k' : Nat) :
    (b.put r v i j k).get p i' j' k' = b.get p i' j' k' :=
  b.get_put_ne _ _ _ _ _ _ _ _ _ fun e => h (RegKey.mk.inj e).1

theorem Box.get_bump_other {r p : Reg} (h : p ≠ r) (i j k n i' j' k' : Nat) :
    (b.bump r i j k n).get p i' j' k' = b.get p i' j' k' :=
  b.get_bump_ne _ _ _ _ _ _ _ _ _ fun e => h (RegKey.mk.inj e).1

/-! ### The calendar (R59, R60) -/

/-- A nonzero ACTION that the requester may arm, for a lap to come, arms an EMPTY entry. -/
theorem Box.writeCalAction_arms {src n v : Nat} (hst : b.get .timCalState n = 0) (hv : v ≠ 0)
    (hlap : b.lap < b.get .timCalLap n) (hmay : b.mayArm src v (b.get .timCalArg n) = true) :
    b.writeCalAction src n v = (0, (b.put .timCalAction v n).put .timCalState 1 n) := by
  have hgo : ¬(b.get .timCalLap n ≤ b.lap ∨ b.mayArm src v (b.get .timCalArg n) = false) := by simp [hmay, hlap]
  rw [Box.writeCalAction, if_neg (by simp [hst]), if_neg hv, if_neg hgo]

/-- 0 returns an ARMED entry to EMPTY, for a requester that may arm its action. -/
theorem Box.writeCalAction_disarms {src n : Nat} (hst : b.get .timCalState n = 1)
    (hmay : b.mayArm src (b.get .timCalAction n) (b.get .timCalArg n) = true) :
    b.writeCalAction src n 0 = (0, (b.put .timCalAction 0 n).put .timCalState 0 n) := by
  rw [Box.writeCalAction, if_pos hst, if_pos ⟨rfl, hmay⟩]

/-- An ARMED entry takes no nonzero ACTION. -/
theorem Box.writeCalAction_of_armed {src n v : Nat} (hv : v ≠ 0) (hst : b.get .timCalState n = 1) :
    b.writeCalAction src n v = (1, b) := by
  rw [Box.writeCalAction, if_pos hst, if_neg fun h => hv h.1]

/-- No entry is armed for a lap that has begun. -/
theorem Box.writeCalAction_of_lap_le {src n v : Nat} (hv : v ≠ 0) (hlap : b.get .timCalLap n ≤ b.lap) :
    b.writeCalAction src n v = (1, b) := by
  by_cases hst : b.get .timCalState n = 1
  · exact b.writeCalAction_of_armed hv hst
  · rw [Box.writeCalAction, if_neg hst, if_neg hv, if_pos (.inl hlap)]

/-! ### The states of the commit groups -/

theorem mem_range' {a n i : Nat} : i ∈ range' a n ↔ a ≤ i ∧ i < a + n := by
  induction n generalizing a with
  | zero => simp [range']
  | succ n ih => rw [range', List.mem_cons, ih]; omega

theorem mem_upTo {n i : Nat} : i ∈ upTo n ↔ i < n := by simp [upTo, mem_range']

theorem Box.cgAny_iff (l : List Nat) : b.cgAny l = true ↔ ∃ g < 16, b.cgState g ∈ l := by
  simp [Box.cgAny, mem_upTo]

/-! ### The counter (R43, R45, R47) -/

theorem Box.writeIncr_of_within {v : Nat} (hlo : 7996 * 2 ^ 40 ≤ v * 10000) (hhi : v * 10000 ≤ 8004 * 2 ^ 40) :
    b.writeIncr v = (0, b.put .timIncr v) := if_pos ⟨hlo, hhi⟩

theorem Box.writeIncr_of_outside {v : Nat} (h : v * 10000 < 7996 * 2 ^ 40 ∨ 8004 * 2 ^ 40 < v * 10000) :
    b.writeIncr v = (1, b) := if_neg (by omega)

theorem Box.writeStep_of_no_group {v : Nat} (h : ∀ g < 16, b.cgState g ∉ [cgSealed, cgVoted, cgInDoubt]) :
    b.writeStep v = (0, { b.put .timStep v with tim := { b.tim with step := some (toSigned 48 v) } }) :=
  if_neg fun e => (b.cgAny_iff _).1 e |>.elim fun g ⟨hg, hm⟩ => h g hg hm

theorem Box.writeStep_of_group {v g : Nat} (hg : g < 16) (h : b.cgState g ∈ [cgSealed, cgVoted, cgInDoubt]) :
    b.writeStep v = (1, b) := if_pos ((b.cgAny_iff _).2 ⟨g, hg, h⟩)

/-- A word read as a signed number is the word's own signed value: both tests ask for the upper half of the range. -/
theorem toSigned_toNat {w : Nat} (v : BitVec w) : toSigned w v.toNat = v.toInt := by
  have hlt := v.isLt
  have hhalf : (v.toNat < 2 ^ (w - 1)) = (2 * v.toNat < 2 ^ w) := by
    cases w with
    | zero => exact propext (by omega)
    | succ w => exact propext (by rw [Nat.add_sub_cancel, Nat.pow_succ]; omega)
  rw [toSigned, BitVec.toInt_eq_toNat_cond]
  exact ite_congr hhalf (fun _ => rfl) (fun _ => rfl)

theorem Box.writeSetNs_of_not_acquired {v : Nat} (h : b.acquired = false) :
    b.writeSetNs v = (0, { b.put .timSetNs v with tim := { b.tim with load := some v } }) := if_neg (by simp [h])

theorem Box.writeSetNs_of_acquired {v : Nat} (h : b.acquired = true) : b.writeSetNs v = (1, b) := if_pos h

theorem Box.writeAcquired_one : b.writeAcquired 1 = (0, b.put .timCtrlAcquired 1) := if_neg (by simp)

theorem Box.writeAcquired_zero_of_free (h : ∀ g < 16, b.cgState g = cgFree) :
    b.writeAcquired 0 = (0, b.put .timCtrlAcquired 0) := by
  have hno : (upTo 16).any (fun n => b.cgState n != cgFree) = false := by simpa [mem_upTo] using h
  exact if_neg (by simp [hno])

theorem Box.writeAcquired_zero_of_group {g : Nat} (hg : g < 16) (ha : b.acquired = true) (h : b.cgState g ≠ cgFree) :
    b.writeAcquired 0 = (1, b) := by
  have hsome : (upTo 16).any (fun n => b.cgState n != cgFree) = true := by
    simpa [mem_upTo] using ⟨g, hg, h⟩
  exact if_pos ⟨rfl, ha, hsome⟩

/-! ### The board time pulse (R675) -/

/-- The device after a rising edge was seen, before it is stamped or counted. -/
def Box.pulseSeen : Box := { b with tim := { b.tim with pulseAt := some b.stamp } }

/-- The validity of a pulse by R675: a high time of `w` ns, and a rising edge at least 1 ms after the last one. -/
def Box.PulseValid (w : Nat) : Prop :=
  100 ≤ w ∧ w ≤ 10000 ∧ ∀ t, b.tim.pulseAt = some t → t + 1000000 * 65536 ≤ b.stamp

@[simp] theorem Box.get_pulseSeen (r : Reg) (i j k : Nat) : b.pulseSeen.get r i j k = b.get r i j k := rfl
@[simp] theorem Box.pulseSeen_out : b.pulseSeen.out = b.out := rfl
@[simp] theorem Box.pulseSeen_ws : b.pulseSeen.ws = b.ws := rfl
@[simp] theorem Box.pulseSeen_pulseAt : b.pulseSeen.tim.pulseAt = some b.stamp := rfl

/-- The device after a valid pulse: its time recorded, and one more counted. -/
def Box.pulseStamped : Box :=
  ((b.pulseSeen.put .timPulseNs b.ns).put .timPulseFrac (b.stamp % 65536)).bump .timPulseCnt

/-- A pulse is stamped and counted where it is valid, and counted as bad where it is not. -/
theorem Box.tpulse_eq (w : Nat) [Decidable (b.PulseValid w)] :
    b.tpulse w = if b.PulseValid w then b.pulseStamped else b.pulseSeen.bump .timPulseBad := by
  have hfar : (match b.tim.pulseAt with
      | none => true
      | some t => decide (t + 1000000 * 65536 ≤ b.stamp)) = true ↔
        ∀ t, b.tim.pulseAt = some t → t + 1000000 * 65536 ≤ b.stamp := by
    cases b.tim.pulseAt <;> simp
  have hvalid := and_congr_right fun _ : 100 ≤ w => and_congr_right fun _ : w ≤ 10000 => hfar
  exact ite_congr (propext hvalid) (fun _ => rfl) (fun _ => rfl)

theorem Box.tpulse_of_valid {w : Nat} (h : b.PulseValid w) : b.tpulse w = b.pulseStamped := by
  classical rw [b.tpulse_eq, if_pos h]

theorem Box.tpulse_of_not_valid {w : Nat} (h : ¬b.PulseValid w) : b.tpulse w = b.pulseSeen.bump .timPulseBad := by
  classical rw [b.tpulse_eq, if_neg h]

@[simp] theorem Box.pulseStamped_out : b.pulseStamped.out = b.out := by simp [Box.pulseStamped]
@[simp] theorem Box.pulseStamped_ws : b.pulseStamped.ws = b.ws := by simp [Box.pulseStamped]
@[simp] theorem Box.pulseStamped_pulseAt : b.pulseStamped.tim.pulseAt = some b.stamp := by simp [Box.pulseStamped]

theorem Box.get_pulseStamped_ns : b.pulseStamped.get .timPulseNs = b.ns % 2 ^ 64 := by
  rw [Box.pulseStamped, Box.get_bump_other _ (by decide), Box.get_put_other _ (by decide)]
  exact Box.get_put_same ..

theorem Box.get_pulseStamped_frac : b.pulseStamped.get .timPulseFrac = b.stamp % 65536 := by
  rw [Box.pulseStamped, Box.get_bump_other _ (by decide), Box.get_put_same]
  exact Nat.mod_mod ..

theorem Box.get_pulseStamped_cnt (h : b.get .timPulseCnt < 2 ^ 32 - 1) :
    b.pulseStamped.get .timPulseCnt = b.get .timPulseCnt + 1 := by
  have hcnt : ((b.pulseSeen.put .timPulseNs b.ns).put .timPulseFrac (b.stamp % 65536)).get .timPulseCnt
      = b.get .timPulseCnt := by
    rw [Box.get_put_other _ (by decide), Box.get_put_other _ (by decide), b.get_pulseSeen]
  rw [Box.pulseStamped, Box.get_bump_one _ _ _ _ _ (by rw [hcnt]; exact Nat.add_lt_of_lt_sub h), hcnt]

theorem Box.get_pulseStamped_other {r : Reg} (h : r ∉ [Reg.timPulseNs, .timPulseFrac, .timPulseCnt]) (i j k : Nat) :
    b.pulseStamped.get r i j k = b.get r i j k := by
  simp only [List.mem_cons, List.not_mem_nil, or_false, not_or] at h
  obtain ⟨hns, hfrac, hcnt⟩ := h
  rw [Box.pulseStamped, Box.get_bump_other _ hcnt, Box.get_put_other _ hfrac, Box.get_put_other _ hns, b.get_pulseSeen]

theorem Box.get_pulseSeen_bump_bad (h : b.get .timPulseBad < 2 ^ 32 - 1) :
    (b.pulseSeen.bump .timPulseBad).get .timPulseBad = b.get .timPulseBad + 1 :=
  Box.get_bump_one _ _ _ _ _ (Nat.add_lt_of_lt_sub h)

end Sys2Proof.Machine

namespace Sys2Proof.Proofs
open Sys2Proof.Machine

/-- Settles O9: the writes are those of a writer, so each clause is the case of its write function that the hypotheses
pick (R43, R45, R47, R59, R60), and a pulse is valid or not (R675). A step or a load waits for the next tick (log 48);
the status numbers are log 10 and the requester numbers log 17. -/
theorem fabricTimeWrites : Obligations.FabricTimeWrites := by
  refine ⟨fun s src n act v40 v48 v64 hok hw => ?_, fun s src n act v40 v48 v64 g hok hw => ?_, fun s w hok => ?_⟩
  · refine ⟨fun hst hact hlap hmay => ?_, fun hst hmay => ?_, fun hlo hhi => ?_, fun hcg => ?_, fun hacq => ?_, ?_,
      fun hcg => ?_⟩
    · have hv : act.toNat ≠ 0 := BitVec.toNat_ne.1 hact
      exact applied_regWrite hw (s.box.writeCalAction_arms hst hv hlap hmay) hok.2
    · exact applied_regWrite hw (s.box.writeCalAction_disarms hst hmay) hok.2
    · exact applied_regWrite hw (s.box.writeIncr_of_within hlo hhi) hok.2
    · refine nextWith_of_applied (applied_regWrite hw (s.box.writeStep_of_no_group hcg) hok.2) ?_
      exact ⟨⟨rfl, rfl⟩, congrArg some (toSigned_toNat v48), rfl,
        fun r i j k hr => s.box.get_put_other (List.ne_of_not_mem_cons hr) .., rfl⟩
    · refine nextWith_of_applied (applied_regWrite hw (s.box.writeSetNs_of_not_acquired hacq) hok.2) ?_
      exact ⟨⟨rfl, rfl⟩, rfl, rfl, fun r i j k hr => s.box.get_put_other (List.ne_of_not_mem_cons hr) .., rfl⟩
    · exact applied_regWrite hw s.box.writeAcquired_one hok.2
    · exact applied_regWrite hw (s.box.writeAcquired_zero_of_free hcg) hok.2
  · refine ⟨fun hact hst => ?_, fun hact hlap => ?_, fun hv => ?_, fun hcg => ?_, fun hacq => ?_, fun hacq hcg => ?_⟩
    · exact turnedAway_regWrite hok hw (s.box.writeCalAction_of_armed (BitVec.toNat_ne.1 hact) hst)
    · exact turnedAway_regWrite hok hw (s.box.writeCalAction_of_lap_le (BitVec.toNat_ne.1 hact) hlap)
    · exact turnedAway_regWrite hok hw (s.box.writeIncr_of_outside hv)
    · exact turnedAway_regWrite hok hw (s.box.writeStep_of_group g.isLt hcg)
    · exact turnedAway_regWrite hok hw (s.box.writeSetNs_of_acquired hacq)
    · exact turnedAway_regWrite hok hw (s.box.writeAcquired_zero_of_group g.isLt hacq hcg)
  · refine ⟨fun hgood hcnt => ?_, fun hbad hcnt => ?_⟩
    · refine nextWith_act_of_no_writes (·.tpulse w.toNat) (s.box.tpulse_of_valid hgood)
        (s.box.pulseStamped_ws.trans hok.2) ?_
      exact ⟨⟨rfl, rfl⟩, s.box.get_pulseStamped_ns, s.box.get_pulseStamped_frac, s.box.get_pulseStamped_cnt hcnt,
        fun r i j k hr => s.box.get_pulseStamped_other hr i j k, s.box.pulseStamped_out, s.box.pulseStamped_pulseAt⟩
    · refine nextWith_act_of_no_writes (·.tpulse w.toNat) (s.box.tpulse_of_not_valid hbad)
        ((Box.bump_ws ..).trans hok.2) ?_
      exact ⟨⟨rfl, rfl⟩, s.box.get_pulseSeen_bump_bad hcnt,
        fun r i j k hr => s.box.pulseSeen.get_bump_other (List.ne_of_not_mem_cons hr) .., Box.bump_out ..,
        congrArg TimSt.pulseAt (Box.bump_tim ..)⟩

end Sys2Proof.Proofs
end
